-- ==== Sys2Proof/Word.lean ====
section
/-! DEFINITION. The word types of the Naluth 960: bytes, 32-bit and 64-bit words, chip IDs. All multi-byte fields are
little-endian (R5); the byte-order helpers stand in Machine/Bits.lean. -/
namespace Sys2Proof

/-- One byte. -/
abbrev Byte := BitVec 8

/-- A 32-bit word: an FP32 element, an event counter, a loop counter. -/
abbrev W32 := BitVec 32

/-- A 64-bit word: a scalar register, a BAR0 register, an instruction word. -/
abbrev Word := BitVec 64

/-- A chip ID in a 16-bit field, bit 15 reserved (R8). -/
abbrev ChipId := BitVec 16

/-- Four sticky exception flags: INV bit 0, OVF bit 1, UNF bit 2, INX bit 3 (Table 4.3, R199). -/
abbrev FlagWord := BitVec 4

end Sys2Proof
end

