-- ==== Sys2Proof/Machine/Bits.lean ====
section
/-! DEFINITION. Bit fields, sign extension and byte order (R5), CRC-32C (R168, R282, R419) and SHAKE256 (R438, R439, R440). -/
namespace Sys2Proof.Machine

/-- Bits `[lo+len-1:lo]` of a number. -/
def field (x lo len : Nat) : Nat := (x >>> lo) % 2 ^ len

/-- Bit `i` of a number. -/
def bit (x i : Nat) : Bool := x.testBit i

/-- The two's complement value of the low `w` bits of `x`. -/
def signed (w x : Nat) : Int :=
  let y := x % 2 ^ w
  if y < 2 ^ (w - 1) then (y : Int) else (y : Int) - (2 : Int) ^ w

/-- The low `w` bits of an integer, as a number. -/
def wrap (w : Nat) (x : Int) : Nat := (x % ((2 : Int) ^ w)).toNat

/-- `n` bytes of a number, least significant first (R5). -/
def toBytes : Nat → Nat → List Byte
  | 0, _ => []
  | n + 1, x => BitVec.ofNat 8 x :: toBytes n (x / 256)

/-- The number whose bytes, least significant first, are given (R5). -/
def ofBytes : List Byte → Nat
  | [] => 0
  | b :: bs => b.toNat + 256 * ofBytes bs

/-- Replace bits `[lo+len-1:lo]` of `x` by `v`. -/
def setField (x lo len v : Nat) : Nat :=
  (x >>> (lo + len)) <<< (lo + len) + (v % 2 ^ len) <<< lo + x % 2 ^ lo

/-- ceil(a / b). -/
def ceilDiv (a b : Nat) : Nat := (a + b - 1) / b

/-- Round up to a multiple of `b`. -/
def roundUp (a b : Nat) : Nat := ceilDiv a b * b

/-- A count `a` raised by `b` that saturates at the largest value of `w` bits. -/
def satAdd (w a b : Nat) : Nat := max a (min (a + b) (2 ^ w - 1))

/-- One step of the reflected CRC-32C register (polynomial 0x1EDC_6F41). -/
def crcBit (c : Nat) : Nat := if c % 2 = 1 then (c / 2) ^^^ 0x82F63B78 else c / 2

/-- One byte into the CRC-32C register. -/
def crcByte (c : Nat) (b : Byte) : Nat :=
  crcBit (crcBit (crcBit (crcBit (crcBit (crcBit (crcBit (crcBit (c ^^^ b.toNat))))))))

/-- CRC-32C with initial value and final complement all ones (R168). -/
def crc32c (bs : List Byte) : Nat := bs.foldl crcByte 0xFFFFFFFF ^^^ 0xFFFFFFFF

/-- The 25 lanes of Keccak-f[1600], lane x + 5y. -/
abbrev Keccak := List Nat

/-- Lane `i` of a Keccak state. -/
def lane (a : Keccak) (i : Nat) : Nat := a.getD i 0

/-- Rotation of a 64-bit lane to the left. -/
def rotl64 (x n : Nat) : Nat :=
  let k := n % 64
  ((x <<< k) ||| (x >>> (64 - k))) % 2 ^ 64

/-- Rotation offsets of the rho step, by lane. -/
def rhoOffsets : List Nat :=
  [0, 1, 62, 28, 27, 36, 44, 6, 55, 20, 3, 10, 43, 25, 39, 41, 45, 15, 21, 8, 18, 2, 61, 56, 14]

/-- Round constants of the iota step. -/
def iotaConstants : List Nat :=
  [0x0000000000000001, 0x0000000000008082, 0x800000000000808A, 0x8000000080008000, 0x000000000000808B,
   0x0000000080000001, 0x8000000080008081, 0x8000000000008009, 0x000000000000008A, 0x0000000000000088,
   0x0000000080008009, 0x000000008000000A] ++
  [0x000000008000808B, 0x800000000000008B, 0x8000000000008089, 0x8000000000008003, 0x8000000000008002,
   0x8000000000000080, 0x000000000000800A, 0x800000008000000A, 0x8000000080008081, 0x8000000000008080,
   0x0000000080000001, 0x8000000080008008]

/-- One round of Keccak-f[1600]. -/
def keccakRound (a : Keccak) (rc : Nat) : Keccak :=
  let c := (List.range 5).map fun x =>
    lane a x ^^^ lane a (x + 5) ^^^ lane a (x + 10) ^^^ lane a (x + 15) ^^^ lane a (x + 20)
  let d := (List.range 5).map fun x => c.getD ((x + 4) % 5) 0 ^^^ rotl64 (c.getD ((x + 1) % 5) 0) 1
  let e := (List.range 25).map fun i => lane a i ^^^ d.getD (i % 5) 0
  -- rho and pi: lane (x, y) takes the rotated lane (x + 3y, x)
  let b := (List.range 25).map fun i =>
    let x := i % 5
    let y := i / 5
    let j := (x + 3 * y) % 5 + 5 * x
    rotl64 (lane e j) (rhoOffsets.getD j 0)
  let f := (List.range 25).map fun i =>
    let x := i % 5
    let y := i / 5
    lane b i ^^^ ((2 ^ 64 - 1 - lane b ((x + 1) % 5 + 5 * y)) &&& lane b ((x + 2) % 5 + 5 * y))
  match f with
  | l0 :: rest => (l0 ^^^ rc) :: rest
  | [] => []

/-- Keccak-f[1600]. -/
def keccakF (a : Keccak) : Keccak := iotaConstants.foldl keccakRound a

/-- Absorb full blocks of 136 bytes. -/
def absorb : Nat → List Byte → Keccak → Keccak
  | 0, _, a => a
  | n + 1, m, a =>
    let blk := m.take 136
    let a' := (List.range 25).map fun i =>
      if i < 17 then lane a i ^^^ ofBytes ((blk.drop (8 * i)).take 8) else lane a i
    absorb n (m.drop 136) (keccakF a')

/-- SHAKE256 with an output of at most 136 bytes. -/
def shake256 (m : List Byte) (n : Nat) : List Byte :=
  let pad := 136 - m.length % 136
  let padded := if pad = 1 then m ++ [0x9F#8] else m ++ [0x1F#8] ++ List.replicate (pad - 2) 0#8 ++ [0x80#8]
  let a := absorb (padded.length / 136) padded (List.replicate 25 0)
  (((List.range 17).map fun i => toBytes 8 (lane a i)).flatten).take n

end Sys2Proof.Machine
end

