-- ==== Sys2Proof/Machine/Formats.lean ====
section
/-! DEFINITION. Number formats (03_number_formats.md): the fifteen format codes, exact values, decoding, the three rounding
modes, the stochastic-rounding generator and every conversion of Table 3.7 but NB12's (Machine/Nb12.lean). Every datapath
result of the model is an exact value rounded once by the functions of this file. -/
namespace Sys2Proof.Machine

/-- INV, OVF, UNF and INX as bits of a flag word (Table 4.3, R199). -/
def fINV : FlagWord := 1#4
def fOVF : FlagWord := 2#4
def fUNF : FlagWord := 4#4
def fINX : FlagWord := 8#4

/-- The fifteen format codes of Table 3.1. -/
inductive Fmt where
  | fp32 | fp32p | bf16 | fp16 | e4m3 | e5m2 | mxE4m3 | mxE5m2 | mxfp4
  | int8 | uint8 | int4 | int32 | e8m0 | nb12
deriving DecidableEq, Repr

/-- The format of a 4-bit code; 0xF is reserved (Table 3.1). -/
def Fmt.ofCode : Nat → Option Fmt
  | 0x0 => some .fp32 | 0x1 => some .fp32p | 0x2 => some .bf16 | 0x3 => some .fp16
  | 0x4 => some .e4m3 | 0x5 => some .e5m2 | 0x6 => some .mxE4m3 | 0x7 => some .mxE5m2
  | 0x8 => some .mxfp4 | 0x9 => some .int8 | 0xA => some .uint8 | 0xB => some .int4
  | 0xC => some .int32 | 0xD => some .e8m0 | 0xE => some .nb12
  | _ => none

/-- The code of a format (Table 3.1). -/
def Fmt.code : Fmt → Nat
  | .fp32 => 0x0 | .fp32p => 0x1 | .bf16 => 0x2 | .fp16 => 0x3 | .e4m3 => 0x4 | .e5m2 => 0x5
  | .mxE4m3 => 0x6 | .mxE5m2 => 0x7 | .mxfp4 => 0x8 | .int8 => 0x9 | .uint8 => 0xA | .int4 => 0xB
  | .int32 => 0xC | .e8m0 => 0xD | .nb12 => 0xE

/-- Bits of one element (Table 3.1); an NB12 element is a 12-bit mantissa of its block. -/
def Fmt.bits : Fmt → Nat
  | .fp32 => 32 | .fp32p => 64 | .bf16 => 16 | .fp16 => 16 | .e4m3 => 8 | .e5m2 => 8
  | .mxE4m3 => 8 | .mxE5m2 => 8 | .mxfp4 => 4 | .int8 => 8 | .uint8 => 8 | .int4 => 4
  | .int32 => 32 | .e8m0 => 8 | .nb12 => 12

/-- The MX formats carry a shared scale per block of 32 (R62). -/
def Fmt.isMx : Fmt → Bool
  | .mxE4m3 | .mxE5m2 | .mxfp4 => true
  | _ => false

/-- The integer formats (R60). -/
def Fmt.isInt : Fmt → Bool
  | .int8 | .uint8 | .int4 | .int32 => true
  | _ => false

/-- An exact value: NaN, an infinity, or (-1)^neg times m times 2^e. A zero keeps its sign (R58); every NaN is one (R59). -/
inductive Val where
  | nan
  | inf (neg : Bool)
  | fin (neg : Bool) (m : Nat) (e : Int)
deriving DecidableEq, Repr

/-- The exact zero of a sign. -/
def Val.zero (neg : Bool) : Val := .fin neg 0 0

/-- An exact integer. -/
def Val.ofInt (i : Int) : Val := .fin (decide (i < 0)) i.natAbs 0

/-- A zero of either sign. -/
def Val.isZero : Val → Bool
  | .fin _ 0 _ => true
  | _ => false

/-- Finite values. -/
def Val.isFinite : Val → Bool
  | .fin _ _ _ => true
  | _ => false

/-- The sign of a value; NaN has none and counts as plus. -/
def Val.neg? : Val → Bool
  | .nan => false
  | .inf n => n
  | .fin n _ _ => n

/-- The value with its sign exchanged. -/
def Val.negate : Val → Val
  | .nan => .nan
  | .inf n => .inf !n
  | .fin n m e => .fin (!n) m e

/-- The magnitude. -/
def Val.abs : Val → Val
  | .nan => .nan
  | .inf _ => .inf false
  | .fin _ m e => .fin false m e

/-- 2^k for a non-negative exponent, else 1. -/
def pow2 (k : Int) : Nat := 2 ^ k.toNat

/-- The signed integer n with value n * 2^e0 for e0 at or below the value's exponent. -/
def scaledInt (neg : Bool) (m : Nat) (e e0 : Int) : Int :=
  let a : Int := ((m * pow2 (e - e0) : Nat) : Int)
  if neg then -a else a

/-- The exact value n * 2^e; an exact zero is +0. -/
def Val.ofScaled (n : Int) (e : Int) : Val := .fin (decide (n < 0)) n.natAbs e

/-- The exact sum, with INV for Inf + (-Inf) (R93, R140). A sum that is exactly zero is +0 unless both terms are -0. -/
def Val.add (a b : Val) : Val × FlagWord :=
  match a, b with
  | .nan, _ | _, .nan => (.nan, 0)
  | .inf x, .inf y => if x = y then (.inf x, 0) else (.nan, fINV)
  | .inf x, .fin _ _ _ => (.inf x, 0)
  | .fin _ _ _, .inf y => (.inf y, 0)
  | .fin n1 m1 e1, .fin n2 m2 e2 =>
    let e := min e1 e2
    let s := scaledInt n1 m1 e1 e + scaledInt n2 m2 e2 e
    if s = 0 then (.fin (m1 = 0 && m2 = 0 && n1 && n2) 0 0, 0) else (Val.ofScaled s e, 0)

/-- The exact product, with INV for 0 times Inf (R140). -/
def Val.mul (a b : Val) : Val × FlagWord :=
  match a, b with
  | .nan, _ | _, .nan => (.nan, 0)
  | .inf x, .inf y => (.inf (x != y), 0)
  | .inf x, .fin n m _ => if m = 0 then (.nan, fINV) else (.inf (x != n), 0)
  | .fin n m _, .inf y => if m = 0 then (.nan, fINV) else (.inf (n != y), 0)
  | .fin n1 m1 e1, .fin n2 m2 e2 => (.fin (n1 != n2) (m1 * m2) (e1 + e2), 0)

/-- Exact comparison of finite values: a < b. -/
def Val.ltFin (n1 : Bool) (m1 : Nat) (e1 : Int) (n2 : Bool) (m2 : Nat) (e2 : Int) : Bool :=
  let e := min e1 e2
  decide (scaledInt n1 m1 e1 e < scaledInt n2 m2 e2 e)

/-- a < b on values, false when either is NaN; the two zeros are equal. -/
def Val.lt (a b : Val) : Bool :=
  match a, b with
  | .nan, _ | _, .nan => false
  | .inf x, .inf y => x && !y
  | .inf x, .fin _ _ _ => x
  | .fin _ _ _, .inf y => !y
  | .fin n1 m1 e1, .fin n2 m2 e2 => Val.ltFin n1 m1 e1 n2 m2 e2

/-- Equality of values, false when either is NaN; the two zeros are equal. -/
def Val.eqv (a b : Val) : Bool :=
  match a, b with
  | .nan, _ | _, .nan => false
  | .inf x, .inf y => x = y
  | .inf _, .fin _ _ _ | .fin _ _ _, .inf _ => false
  | .fin n1 m1 e1, .fin n2 m2 e2 =>
    !Val.ltFin n1 m1 e1 n2 m2 e2 && !Val.ltFin n2 m2 e2 n1 m1 e1

/-- floor(log2 |x|) of a finite non-zero value. -/
def log2Floor (m : Nat) (e : Int) : Int := (Nat.log2 m : Int) + e

/-- The rounding modes (R73). -/
inductive RMode where
  | rne | rtz | sr
deriving DecidableEq, Repr

/-- The mode of a 2-bit field; 3 is reserved (Table 8.6). -/
def RMode.ofCode : Nat → Option RMode
  | 0 => some .rne | 1 => some .rtz | 2 => some .sr
  | _ => none

/-- A binary floating-point destination: its mantissa bits, the exponent of its smallest subnormal, the largest finite
magnitude as (significand, exponent of its unit) and the width of its exponent-and-mantissa field (Table 3.3). -/
structure FpFmt where
  mbits : Nat
  emin  : Int
  maxK  : Nat
  maxQ  : Int
  sign  : Nat
deriving DecidableEq, Repr

def fpFP32 : FpFmt := ⟨23, -149, 0xFFFFFF, 104, 31⟩
def fpBF16 : FpFmt := ⟨7, -133, 0xFF, 120, 15⟩
def fpFP16 : FpFmt := ⟨10, -24, 0x7FF, 5, 15⟩
def fpE4M3 : FpFmt := ⟨3, -9, 14, 5, 7⟩
def fpE5M2 : FpFmt := ⟨2, -16, 7, 13, 7⟩
def fpE2M1 : FpFmt := ⟨1, -1, 3, 1, 3⟩

/-- What one rounding to a grid gives: the magnitude k * 2^q, whether it differs from the source, whether it exceeds the
largest finite magnitude. -/
structure Rounded where
  k   : Nat
  q   : Int
  inx : Bool
  ovf : Bool
deriving DecidableEq, Repr

/-- Round m * 2^e to a multiple of 2^q under a mode (R73, R80); r is the random value of R82. -/
def roundAt (mode : RMode) (r : Nat) (m : Nat) (e q : Int) : Nat × Bool :=
  if q ≤ e then (m * pow2 (e - q), false)
  else
    let d := (q - e).toNat
    let k := m >>> d
    let rem := m % 2 ^ d
    if rem = 0 then (k, false)
    else
      match mode with
      | .rtz => (k, true)
      | .rne =>
        let half := 2 ^ (d - 1)
        if rem > half || (rem = half && k % 2 = 1) then (k + 1, true) else (k, true)
      | .sr =>
        let t := if d ≤ 32 then rem <<< (32 - d) else rem >>> (d - 32)
        if t + r ≥ 2 ^ 32 then (k + 1, true) else (k, true)

/-- Round a finite magnitude to a floating-point grid, subnormals included (R73). -/
def roundMag (f : FpFmt) (mode : RMode) (r : Nat) (m : Nat) (e : Int) : Rounded :=
  if m = 0 then ⟨0, f.emin, false, false⟩
  else
    let q := max (log2Floor m e - f.mbits) f.emin
    let (k, inx) := roundAt mode r m e q
    let e0 := min q f.maxQ
    ⟨k, q, inx, decide (k * pow2 (q - e0) > f.maxK * pow2 (f.maxQ - e0))⟩

/-- The exponent-and-mantissa bits of k * 2^q on a format's grid. -/
def packMag (f : FpFmt) (k : Nat) (q : Int) : Nat := (q - f.emin).toNat * 2 ^ f.mbits + k

/-- The sign bit of a format, in place. -/
def signBit (f : FpFmt) (neg : Bool) : Nat := if neg then 2 ^ f.sign else 0

/-- The bits of the largest finite value. -/
def packMax (f : FpFmt) : Nat := packMag f f.maxK f.maxQ

/-- The flags of an in-range rounding (R74): INX when inexact; UNF when inexact and below the smallest normal. -/
def inRangeFlags (f : FpFmt) (x : Rounded) : FlagWord :=
  if x.inx then (if x.k < 2 ^ f.mbits then fUNF ||| fINX else fINX) else 0

/-- What an overflow gives, chosen by the operation: ±Inf bits, the largest finite, or a NaN. -/
inductive OvfPolicy where
  | toInf | toMax | toNan
deriving DecidableEq, Repr

/-- Infinity bits of the formats that have one (Table 3.3). -/
def infBits (f : FpFmt) : Nat :=
  if f = fpE5M2 then 0x7C else if f = fpFP16 then 0x7C00 else if f = fpBF16 then 0x7F80 else 0x7F800000

/-- Canonical NaN bits (Table 3.4). -/
def nanBits (f : FpFmt) : Nat :=
  if f = fpE4M3 then 0x7F else if f = fpE5M2 then 0x7E else if f = fpFP16 then 0x7E00
  else if f = fpBF16 then 0x7FC0 else 0x7FC00000

/-- Round a finite value into a format, with the overflow result chosen by `pol` (R73, R74, R76, R77). -/
def packFin (f : FpFmt) (mode : RMode) (r : Nat) (pol : OvfPolicy) (neg : Bool) (m : Nat) (e : Int) : Nat × FlagWord :=
  let x := roundMag f mode r m e
  if x.ovf then
    (match pol with
     | .toInf => signBit f neg + infBits f
     | .toMax => signBit f neg + packMax f
     | .toNan => nanBits f, fOVF ||| fINX)
  else (signBit f neg + packMag f x.k x.q, inRangeFlags f x)

/-- Decode an IEEE-like encoding whose all-ones exponent is infinity or NaN (R57). -/
def unpackIeee (mbits ebits : Nat) (emin : Int) (x : Nat) : Val :=
  let neg := bit x (mbits + ebits)
  let ex := field x mbits ebits
  let mant := x % 2 ^ mbits
  if ex = 2 ^ ebits - 1 then (if mant = 0 then .inf neg else .nan)
  else if ex = 0 then .fin neg mant emin
  else .fin neg (mant + 2 ^ mbits) (emin + ((ex - 1 : Nat) : Int))

/-- The value of an E4M3 byte: no infinity, 0x7F and 0xFF NaN (R57). -/
def unpackE4M3 (x : Nat) : Val :=
  let neg := bit x 7
  let ex := field x 3 4
  let mant := x % 8
  if ex = 15 && mant = 7 then .nan
  else if ex = 0 then .fin neg mant (-9)
  else .fin neg (mant + 8) (-9 + ((ex - 1 : Nat) : Int))

/-- The value of an E2M1 code (R57). -/
def unpackE2M1 (x : Nat) : Val :=
  let neg := bit x 3
  let ex := field x 1 2
  let mant := x % 2
  if ex = 0 then .fin neg mant (-1) else .fin neg (mant + 2) (-1 + ((ex - 1 : Nat) : Int))

/-- The value of an E8M0 byte (R61). -/
def unpackE8M0 (x : Nat) : Val := if x % 256 = 0xFF then .nan else .fin false 1 (((x % 256 : Nat) : Int) - 127)

/-- The value of an FP32 word (R57). -/
def f32 (x : W32) : Val := unpackIeee 23 8 (-149) x.toNat

/-- The value of one element of a format, scales of MX formats not applied (R57, R60, R61). An FP32P pair is read by
`pairVal`, an NB12 mantissa by Machine/Nb12.lean. -/
def unpack (f : Fmt) (x : Nat) : Val :=
  match f with
  | .fp32 => unpackIeee 23 8 (-149) x
  | .bf16 => unpackIeee 7 8 (-133) x
  | .fp16 => unpackIeee 10 5 (-24) x
  | .e4m3 | .mxE4m3 => unpackE4M3 x
  | .e5m2 | .mxE5m2 => unpackIeee 2 5 (-16) x
  | .mxfp4 => unpackE2M1 x
  | .int8 => Val.ofInt (signed 8 x)
  | .uint8 => Val.ofInt ((x % 256 : Nat) : Int)
  | .int4 => Val.ofInt (signed 4 x)
  | .int32 => Val.ofInt (signed 32 x)
  | .e8m0 => unpackE8M0 x
  | .fp32p => unpackIeee 23 8 (-149) (x % 2 ^ 32)
  | .nb12 => Val.ofInt (signed 12 x)

/-- Round any value to FP32 by round to nearest even; `sat` takes an overflow to the largest finite (R90, R94). An infinite
or NaN source passes with no flag. -/
def rne32 (sat : Bool) (v : Val) : W32 × FlagWord :=
  match v with
  | .nan => (0x7FC00000#32, 0)
  | .inf n => (BitVec.ofNat 32 (signBit fpFP32 n + 0x7F800000), 0)
  | .fin n m e =>
    let (b, fl) := packFin fpFP32 .rne 0 (if sat then .toMax else .toInf) n m e
    (BitVec.ofNat 32 b, fl)

/-- Round to FP32 with the flags dropped, as inside the pair algorithms of R95. -/
def rne (sat : Bool) (v : Val) : W32 := (rne32 sat v).1

/-- FP32 accumulator addition (R94): NaN sticky, Inf - Inf gives NaN and INV, overflow by SAT_ACC. -/
def fp32Add (sat : Bool) (a b : W32) : W32 × FlagWord :=
  let (v, fi) := Val.add (f32 a) (f32 b)
  let (x, fr) := rne32 sat v
  (x, fi ||| fr)

/-- FP32 subtraction (R140). -/
def fp32Sub (sat : Bool) (a b : W32) : W32 × FlagWord :=
  let (v, fi) := Val.add (f32 a) (f32 b).negate
  let (x, fr) := rne32 sat v
  (x, fi ||| fr)

/-- FP32 multiplication (R140). -/
def fp32Mul (sat : Bool) (a b : W32) : W32 × FlagWord :=
  let (v, fi) := Val.mul (f32 a) (f32 b)
  let (x, fr) := rne32 sat v
  (x, fi ||| fr)

/-- FP32 fused multiply-add (R140): INV for 0 times Inf even when c is NaN. -/
def fp32Fma (sat : Bool) (a b c : W32) : W32 × FlagWord :=
  let (p, fp) := Val.mul (f32 a) (f32 b)
  let (v, fi) := Val.add p (f32 c)
  let (x, fr) := rne32 sat v
  (x, fp ||| fi ||| fr)

/-- An FP32P pair: hi and lo (R66). -/
structure Pair where
  hi : W32
  lo : W32
deriving DecidableEq, Repr

/-- The value a pair is read as (R66, R67): hi when hi is not finite, else lo when lo is not finite, else the exact sum. -/
def pairVal (p : Pair) : Val :=
  match f32 p.hi with
  | .fin n m e =>
    match f32 p.lo with
    | .fin n' m' e' => if m = 0 && m' = 0 then .fin n 0 0 else (Val.add (.fin n m e) (.fin n' m' e')).1
    | v => v
  | v => v

/-- An FP32 word is finite. -/
def fin32 (x : W32) : Bool := (f32 x).isFinite

/-- An FP32 word is a zero of either sign. -/
def zero32 (x : W32) : Bool := (f32 x).isZero

/-- A rounding to FP32 of this finite value overflows. -/
def overflows32 (v : Val) : Bool :=
  match v with
  | .fin _ m e => (roundMag fpFP32 .rne 0 m e).ovf
  | _ => false

/-- A value as a pair under the invariant of R66, and +-Inf where it overflows (R67). -/
def pairOfVal (v : Val) : Pair :=
  let h := rne false v
  if zero32 h then ⟨h, 0⟩
  else match (Val.add v (f32 h).negate).1 with
    | .fin n m e => ⟨h, if m = 0 then 0 else rne false (.fin n m e)⟩
    | _ => ⟨h, 0⟩

/-- A pair as it is written (R66). -/
def normPair (p : Pair) : Pair := pairOfVal (pairVal p)

/-- A pair as an operation takes it (R67): NaN and infinities as that value with lo = +0, a finite pair as the pair of its exact
sum. Where that sum is beyond FP32 the words enter as they stand (log entry 64). -/
def readPair (p : Pair) : Pair :=
  if fin32 p.hi && fin32 p.lo && (zero32 p.lo || overflows32 (pairVal p)) then p else normPair p

/-- rne of the algorithms of R95 and R143 with the overflow rule of the enclosing operation, and whether it overflows. -/
def rneO (sat : Bool) (v : Val) : W32 × Bool := (rne sat v, overflows32 v)
def radd (sat : Bool) (a b : W32) : W32 × Bool := rneO sat (Val.add (f32 a) (f32 b)).1
def rsub (sat : Bool) (a b : W32) : W32 × Bool := rneO sat (Val.add (f32 a) (f32 b).negate).1

/-- The error-free sum of R95, and whether one of its roundings overflows. -/
def twoSum (sat : Bool) (a b : W32) : W32 × W32 × Bool :=
  let (s, o1) := radd sat a b
  let (bb, o2) := rsub sat s a
  let (x, o3) := rsub sat s bb
  let (y, o4) := rsub sat a x
  let (z, o5) := rsub sat b bb
  let (e, o6) := radd sat y z
  (s, e, o1 || o2 || o3 || o4 || o5 || o6)

/-- The flags of a pair result taken on its exact value (R95, R143): OVF with INX on an overflow inside, INX when the pair
differs from the exact value, UNF as well when it lies below the smallest normal. -/
def pairFlags (exact : Val) (ovf : Bool) (r : Pair) : FlagWord :=
  if ovf then fOVF ||| fINX
  else
    match exact, pairVal r with
    | .fin n m e, .fin n' m' e' =>
      if Val.eqv (.fin n m e) (.fin n' m' e') then 0
      else if Val.ltFin false m' e' false 1 (-126) then fUNF ||| fINX else fINX
    | _, _ => 0

/-- The end that pair_add and pscale share: `s` with a correction `t`; `o` says that an earlier rounding overflowed, `exact` is
the value the flags are taken on (R95, R143). -/
def pairEnd (sat : Bool) (exact : Val) (s t : W32) (o : Bool) : Pair × FlagWord :=
  if zero32 t then (⟨s, 0⟩, pairFlags exact o ⟨s, 0⟩)
  else
    let (h, o1) := radd sat s t
    if !fin32 h || o1 then (⟨h, 0⟩, fOVF ||| fINX)
    else
      let (x, o2) := rsub sat h s
      let (l, o3) := rsub sat t x
      let r : Pair := ⟨h, if zero32 h then 0#32 else l⟩
      (r, pairFlags exact (o || o2 || o3) r)

/-- The pair addition of R95 with its flags. A rounding inside that overflows gives ±Inf, or the largest finite under SAT_ACC, with
OVF and INX. -/
def pairAdd (sat : Bool) (p1 p2 : Pair) : Pair × FlagWord :=
  let a := readPair p1
  let b := readPair p2
  if !fin32 a.hi || !fin32 b.hi then
    let (h, fl) := fp32Add sat a.hi b.hi
    (⟨h, 0⟩, fl)
  else
    let exact := (Val.add (pairVal a) (pairVal b)).1
    let (s, e, o1) := twoSum sat a.hi b.hi
    if overflows32 (Val.add (f32 a.hi) (f32 b.hi)).1 then (⟨s, 0⟩, fOVF ||| fINX)
    else
      let (ll, o2) := radd sat a.lo b.lo
      let (t, o3) := radd sat ll e
      pairEnd sat exact s t (o1 || o2 || o3)

/-- The error-free product of R143; e is +0 when p is not finite. -/
def twoProd (sat : Bool) (a b : W32) : W32 × W32 :=
  let p := rne sat (Val.mul (f32 a) (f32 b)).1
  if !fin32 p then (p, 0#32)
  else (p, rne sat (Val.add (Val.mul (f32 a) (f32 b)).1 (f32 p).negate).1)

/-- A pair times one FP32 factor (R143), with flags on the exact value. -/
def pscale (sat : Bool) (p0 : Pair) (f : W32) : Pair × FlagWord :=
  let x := readPair p0
  if !fin32 x.hi || !fin32 f then
    let (v, fi) := Val.mul (f32 x.hi) (f32 f)
    let (h, fr) := rne32 sat v
    (⟨h, 0⟩, fi ||| fr)
  else
    let exact := (Val.mul (pairVal x) (f32 f)).1
    let (p, e) := twoProd sat x.hi f
    if overflows32 (Val.mul (f32 x.hi) (f32 f)).1 then (⟨p, 0⟩, fOVF ||| fINX)
    else
      let (q, o) := rneO sat (Val.add (Val.mul (f32 x.lo) (f32 f)).1 (f32 e)).1
      pairEnd sat exact p q o

/-- The random value of R82 for a seed, a 24-bit stream ID and an element index. -/
def srRandom (seed : Word) (stream index : Nat) : Nat :=
  let g : Word := 0x9E3779B97F4A7C15#64
  let m : Word := 0x8F2D6B31E4A75C9D#64
  let x0 : Word := BitVec.ofNat 64 (((stream % 2 ^ 24) <<< 40) ||| (index % 2 ^ 40))
  let rnd (x : Word) (k shift : Nat) : Word :=
    let y := (x ^^^ (seed + BitVec.ofNat 64 k * g)) * m
    y ^^^ (y >>> shift)
  ((rnd (rnd (rnd (rnd x0 0 29) 1 32) 2 27) 3 31).toNat) >>> 32

/-- Saturating integer destination (R78): NaN gives 0 with INV, out of range the nearest end with INV and INX. -/
def toInteger (lo hi : Int) (mode : RMode) (r : Nat) (v : Val) : Int × FlagWord :=
  match v with
  | .nan => (0, fINV)
  | .inf n => (if n then lo else hi, fINV ||| fINX)
  | .fin n m e =>
    let (k, inx) := roundAt mode r m e 0
    let i : Int := if n then -(k : Int) else (k : Int)
    if i < lo then (lo, fINV ||| fINX)
    else if hi < i then (hi, fINV ||| fINX)
    else (i, if inx then fINX else 0)

/-- The FP8 overflow field and the special sources of Table 3.8. -/
def toFp8 (f : FpFmt) (sat : Bool) (mode : RMode) (r : Nat) (v : Val) : Nat × FlagWord :=
  match v with
  | .nan => (nanBits f, 0)
  | .inf n =>
    if f = fpE4M3 then (if sat then (signBit f n + packMax f, fOVF ||| fINX) else (0x7F, fINV))
    else (signBit f n + infBits f, 0)
  | .fin n m e =>
    let pol : OvfPolicy :=
      if sat || mode = .rtz then .toMax else if f = fpE4M3 then .toNan else .toInf
    packFin f mode r pol n m e

/-- A conversion to FP32, BF16 or FP16 (R76). -/
def toFpWide (f : FpFmt) (mode : RMode) (r : Nat) (v : Val) : Nat × FlagWord :=
  match v with
  | .nan => (nanBits f, 0)
  | .inf n => (signBit f n + infBits f, 0)
  | .fin n m e => packFin f mode r (if mode = .rtz then .toMax else .toInf) n m e

/-- One element converted from its exact value into a scalar destination format (R73 to R78); blocks of MX and NB12 are
formed by `mxQuantise` and by Machine/Nb12.lean, and a pair destination by `toPair`. -/
def convElem (dst : Fmt) (mode : RMode) (f8sat : Bool) (r : Nat) (v : Val) : Nat × FlagWord :=
  match dst with
  | .fp32 => toFpWide fpFP32 mode r v
  | .bf16 => toFpWide fpBF16 mode r v
  | .fp16 => toFpWide fpFP16 mode r v
  | .e4m3 => toFp8 fpE4M3 f8sat mode r v
  | .e5m2 => toFp8 fpE5M2 f8sat mode r v
  | .int8 => let (i, fl) := toInteger (-128) 127 mode r v; (wrap 8 i, fl)
  | .uint8 => let (i, fl) := toInteger 0 255 mode r v; (wrap 8 i, fl)
  | .int4 => let (i, fl) := toInteger (-8) 7 mode r v; (wrap 4 i, fl)
  | .int32 => let (i, fl) := toInteger (-(2 ^ 31)) (2 ^ 31 - 1) mode r v; (wrap 32 i, fl)
  | .fp32p | .mxE4m3 | .mxE5m2 | .mxfp4 | .e8m0 | .nb12 => (0, 0)

/-- The element format, its emax and its grid for an MX destination (R79). -/
def mxElem : Fmt → FpFmt × Int
  | .mxE5m2 => (fpE5M2, 15)
  | .mxfp4 => (fpE2M1, 2)
  | _ => (fpE4M3, 8)

/-- Quantise one block of exact values to an MX format (R79); `rs` gives each element's random value. Answers the scale byte,
the element bits and the flags. -/
def mxQuantise (dst : Fmt) (mode : RMode) (rs : Nat → Nat) (xs : List Val) : Nat × List Nat × FlagWord :=
  let (f, emax) := mxElem dst
  if xs.any (fun v => !v.isFinite) then (0xFF, xs.map fun _ => 0, fINV)
  else
    let lg : Option Int := xs.foldl (fun acc v =>
      match v with
      | .fin _ m e =>
        if m = 0 then acc
        else match acc with
          | none => some (log2Floor m e)
          | some a => some (max a (log2Floor m e))
      | _ => acc) none
    let xexp : Int := match lg with
      | none => -127
      | some l => min (max (l - emax) (-127)) 127
    let conv := (xs.zipIdx).map fun (v, i) =>
      match v with
      | .fin n m e => packFin f mode (rs i) .toMax n m (e - xexp)
      | _ => (0, 0)
    ((xexp + 127).toNat, conv.map (·.1), conv.foldl (fun a c => a ||| c.2) 0)

/-- The value of an MX element under its block scale (R63). -/
def mxVal (f : Fmt) (scale : Nat) (x : Nat) : Val :=
  if scale % 256 = 0xFF then .nan
  else
    match unpack f x with
    | .fin n m e => .fin n m (e + ((scale % 256 : Nat) : Int) - 127)
    | v => v

/-- Whether Table 3.7 lists the conversion from `src` to `dst` under a rounding mode (R75). "None needed" rows accept every
mode; MX destinations refuse RTZ; NB12 accepts RNE only. -/
def convAllowed (src dst : Fmt) (mode : RMode) : Bool :=
  match src, dst with
  | .bf16, .fp32 | .fp16, .fp32 | .e4m3, .fp32 | .e5m2, .fp32 | .int8, .fp32 | .uint8, .fp32
  | .int4, .fp32 | .e8m0, .fp32 => true
  | .int32, .fp32 => true
  | .fp32, .bf16 | .fp32, .fp16 | .fp32, .e4m3 | .fp32, .e5m2 => true
  | .bf16, .fp16 | .bf16, .e4m3 | .bf16, .e5m2 | .fp16, .bf16 | .fp16, .e4m3 | .fp16, .e5m2
  | .e4m3, .bf16 | .e4m3, .fp16 | .e4m3, .e5m2 | .e5m2, .bf16 | .e5m2, .fp16 | .e5m2, .e4m3 => true
  | .fp32, .int8 | .fp32, .uint8 | .fp32, .int4 | .fp32, .int32 => true
  | .int32, .int8 | .int32, .uint8 | .int32, .int4 => true
  | .fp32, .mxE4m3 | .fp32, .mxE5m2 | .fp32, .mxfp4 => mode ≠ .rtz
  | .mxE4m3, .fp32 | .mxE5m2, .fp32 | .mxfp4, .fp32 => true
  | .fp32, .fp32p => true
  | .fp32p, .fp32 | .fp32p, .bf16 | .fp32p, .fp16 | .fp32p, .e4m3 | .fp32p, .e5m2 => true
  | .fp32, .nb12 => mode = .rne
  | .nb12, .fp32 => true
  | _, _ => false

/-- Rows of Table 3.7 whose Modes column reads "none needed": the mode is ignored, and rounding never draws (R75). -/
def convModeless (src dst : Fmt) : Bool :=
  match src, dst with
  | .int32, .fp32 => false
  | .int32, _ => true
  | .fp32, .fp32p => true
  | .mxE4m3, .fp32 | .mxE5m2, .fp32 | .mxfp4, .fp32 | .nb12, .fp32 => true
  | .bf16, .fp32 | .fp16, .fp32 | .e4m3, .fp32 | .e5m2, .fp32 | .int8, .fp32 | .uint8, .fp32
  | .int4, .fp32 | .e8m0, .fp32 => true
  | _, _ => false

/-- Formats that Table 3.7 widens to FP32 (R137, R148): everything but FP32P, which is read as a pair. -/
def widens (f : Fmt) : Bool :=
  match f with
  | .fp32p => false
  | _ => true

/-- The operand classes of Table 3.2. -/
inductive OpClass where
  | w | h | f8 | mx | i
deriving DecidableEq, Repr

/-- The class of an operand format (R56). -/
def opClass : Fmt → Option OpClass
  | .fp32 => some .w
  | .bf16 | .fp16 => some .h
  | .e4m3 | .e5m2 => some .f8
  | .mxE4m3 | .mxE5m2 | .mxfp4 => some .mx
  | .int8 | .uint8 | .int4 => some .i
  | _ => none

/-- Streamed operand column of Table 3.1. -/
def streamable : Fmt → Bool
  | .fp32 | .bf16 | .fp16 | .e4m3 | .e5m2 | .mxE4m3 | .mxE5m2 | .int8 | .uint8 => true
  | _ => false

/-- Stationary operand column of Table 3.1. -/
def stationary : Fmt → Bool
  | .mxfp4 | .int4 => true
  | f => streamable f

/-- The E4M3 code of an E2M1 code (Table 3.5, R65). -/
def expandE2M1 (x : Nat) : Nat :=
  [0x00, 0x30, 0x38, 0x3C, 0x40, 0x44, 0x48, 0x4C].getD (x % 8) 0 + (if bit x 3 then 0x80 else 0)

end Sys2Proof.Machine
end

