-- ==== Sys2Proof/Machine/DotProd.lean ====
section
/-! DEFINITION. Dot products (04_dot_products.md): the block sum of each operand class, its rounding, the three accumulators,
the split tree, and the flags of R93. -/
namespace Sys2Proof.Machine

/-- The accumulator formats of Table 3.2. -/
inductive Acc where
  | fp32 | fp32p | int32
deriving DecidableEq, Repr

/-- The accumulator of a format code, if Table 3.1 lets it accumulate. -/
def Acc.ofFmt : Fmt → Option Acc
  | .fp32 => some .fp32
  | .fp32p => some .fp32p
  | .int32 => some .int32
  | _ => none

/-- What enters an accumulator: an FP32 word (lo is +0), a pair, or the bits of an INT32 in `hi`. -/
abbrev AccVal := Pair

/-- The canonical FP32 NaN (Table 3.4). -/
def qnan32 : W32 := 0x7FC00000#32

/-- The infinity of a sign. -/
def inf32 (neg : Bool) : W32 := if neg then 0xFF800000#32 else 0x7F800000#32

/-- The zero of a sign. -/
def zeroW (neg : Bool) : W32 := if neg then 0x80000000#32 else 0#32

/-- Rules 1 and 2 of Table 4.2, on the operand pairs of one block; `nanScale` says that a block scale is 0xFF, which makes every
element under it NaN (R63), so that no product of the block is Inf times 0. -/
def resolveBlock (nanScale : Bool) (ps : List (Val × Val)) : Option (W32 × FlagWord) :=
  let isInf (v : Val) : Bool := match v with | .inf _ => true | _ => false
  let infZero := ps.any fun (a, b) => (isInf a && b.isZero) || (a.isZero && isInf b)
  if nanScale then some (qnan32, 0)
  else if ps.any (fun (a, b) => a = .nan || b = .nan) || infZero then some (qnan32, if infZero then fINV else 0)
  else
    let signs := (ps.filter fun (a, b) => isInf a || isInf b).map fun (a, b) => a.neg? != b.neg?
    match signs with
    | [] => none
    | n :: rest => if rest.all (· = n) then some (inf32 n, 0) else some (qnan32, fINV)

/-- The exact sum of a block's products: `s` units of 2^`e`; `top` is L of R89; `negZero` says that every product present
is -0 (R91). -/
structure ExactSum where
  s       : Int
  e       : Int
  top     : Int
  negZero : Bool
deriving DecidableEq, Repr

/-- The exact product of two finite values, as (sign, magnitude, exponent). -/
def finProduct (a b : Val) : Bool × Nat × Int :=
  match a, b with
  | .fin n1 m1 e1, .fin n2 m2 e2 => (n1 != n2, m1 * m2, e1 + e2)
  | _, _ => (false, 0, 0)

/-- The least of a list of exponents, 0 for none. -/
def minExp : List Int → Int
  | [] => 0
  | e :: es => es.foldl min e

/-- The greatest of a list of exponents, 0 for none. -/
def maxExp : List Int → Int
  | [] => 0
  | e :: es => es.foldl max e

/-- The exact sum of R86 and R89. -/
def exactSum (ps : List (Val × Val)) : ExactSum :=
  let prods := ps.map fun (a, b) => finProduct a b
  let nz := prods.filter fun (_, m, _) => m ≠ 0
  let e0 := minExp (nz.map fun (_, _, e) => e)
  let top := maxExp (nz.map fun (_, m, e) => log2Floor m e)
  let s := nz.foldl (fun acc (n, m, e) => acc + scaledInt n m e e0) 0
  ⟨s, e0, top, prods.all fun (n, m, _) => m = 0 && n⟩

/-- Truncation toward zero of the magnitude `m` units of 2^`e` at weight 2^`cut` (R89). -/
def truncAt (m : Nat) (e cut : Int) : Nat :=
  if cut ≤ e then m else (m >>> (cut - e).toNat) <<< (cut - e).toNat

/-- Round a finite block value (neg, m units of 2^e; exact magnitude mx units of 2^e) once, by R90, with the flags of R93.
A zero takes the sign `neg`. DESIGN CHOICE (log entry 63): bl = RNE(V - bh) as R90 has it, also where it comes out as half an ulp of an
odd bh and R66's hi = RNE(hi + lo) does not hold. -/
def roundBlock (pair sat : Bool) (neg : Bool) (m mx : Nat) (e : Int) : AccVal × FlagWord :=
  let x := roundMag fpFP32 .rne 0 m e
  if x.ovf then (⟨rne sat (.fin neg m e), 0⟩, fOVF ||| fINX)
  else
    let bh := rne sat (.fin neg m e)
    let lo : W32 :=
      if pair && !zero32 bh then
        match Val.add (.fin neg m e) (f32 bh).negate with
        | (.fin n d de, _) => if d = 0 then 0#32 else rne sat (.fin n d de)
        | _ => 0#32
      else 0#32
    let r : Pair := ⟨bh, lo⟩
    (r, pairFlags (.fin neg mx e) false r)

/-- One block of classes F8, MX, I and H: `scale` is eA + eB - 254 for MX and 0 otherwise (R85 to R93). -/
def blockSum (cls : OpClass) (acc : Acc) (sat nanScale : Bool) (scale : Int) (ps : List (Val × Val)) :
    AccVal × FlagWord :=
  match resolveBlock nanScale ps with
  | some (v, fl) => (⟨v, 0⟩, fl)
  | none =>
    let x := exactSum ps
    match acc with
    | .int32 => (⟨BitVec.ofInt 32 (x.s * (pow2 x.e : Nat)), 0⟩, 0)
    | _ =>
      if x.s = 0 then (⟨zeroW x.negZero, 0⟩, 0)
      else
        let m := x.s.natAbs
        let m' := if cls = .h then truncAt m x.e (x.top - 48) else m
        roundBlock (acc = .fp32p) sat (x.s < 0) m' m (x.e + scale)

/-- hi(x) of R97: truncation toward zero to BF16. -/
def splitHi (x : W32) : W32 := x &&& 0xFFFF0000#32

/-- lo(x) of R97 as a BF16 value: the remainder rounded to nearest even on BF16's grid, a zero of the sign of x. -/
def splitLo (x : W32) : Val :=
  let neg := x.msb
  match Val.add (f32 x) (f32 (splitHi x)).negate with
  | (.fin n m e, _) =>
    if m = 0 then .fin neg 0 0
    else unpack .bf16 (packFin fpBF16 .rne 0 .toInf n m e).1
  | _ => .fin neg 0 0

/-- One block of class W: one entry when R98 resolves it, else its three sub-blocks in order (R97, R98). -/
def blockSumW (acc : Acc) (sat : Bool) (ps : List (W32 × W32)) : List (AccVal × FlagWord) :=
  match resolveBlock false (ps.map fun (a, b) => (f32 a, f32 b)) with
  | some (v, fl) => [(⟨v, 0⟩, fl)]
  | none =>
    let sub (g : W32 × W32 → Val × Val) := blockSum .h acc sat false 0 (ps.map g)
    [ sub (fun (a, b) => (f32 (splitHi a), f32 (splitHi b))),
      sub (fun (a, b) => (f32 (splitHi a), splitLo b)),
      sub (fun (a, b) => (splitLo a, f32 (splitHi b))) ]

/-- A signed INT32 from an integer, saturated; OVF on saturation (R96). DESIGN CHOICE (log entry 65): OVF alone, without the INX
that R93 gives with it. -/
def satInt32 (i : Int) : W32 × FlagWord :=
  if i < -(2 ^ 31) then (0x80000000#32, fOVF)
  else if 2 ^ 31 - 1 < i then (0x7FFFFFFF#32, fOVF)
  else (BitVec.ofInt 32 i, 0)

/-- The join of R103: FP32 addition, pair addition or saturating addition, the lower split index on the left. -/
def join (acc : Acc) (sat : Bool) (a b : AccVal) : AccVal × FlagWord :=
  match acc with
  | .fp32 => let (x, fl) := fp32Add sat a.hi b.hi; (⟨x, 0⟩, fl)
  | .fp32p => pairAdd sat a b
  | .int32 => let (x, fl) := satInt32 (a.hi.toInt + b.hi.toInt); (⟨x, 0⟩, fl)

/-- Enter block sums into an accumulator in order (R94 to R96): `prev` is `none` in overwrite mode. -/
def accumulate (acc : Acc) (sat : Bool) (prev : Option AccVal) (bs : List (AccVal × FlagWord)) : Option AccVal × FlagWord :=
  bs.foldl (fun (a, fl) (b, fb) =>
    match a with
    | none => (some b, fl ||| fb)
    | some x => let (y, fy) := join acc sat x b; (some y, fl ||| fb ||| fy)) (prev, 0)

/-- One level of the split tree: neighbours joined, an odd last part passed on (R103). -/
def treeLevel (j : AccVal → AccVal → AccVal × FlagWord) : List AccVal → List AccVal × FlagWord
  | a :: b :: rest =>
    let (x, fl) := j a b
    let (xs, fl') := treeLevel j rest
    (x :: xs, fl ||| fl')
  | l => (l, 0)

/-- Levels of the split tree until one part is left; the fuel bounds the levels. -/
def treeLevels (j : AccVal → AccVal → AccVal × FlagWord) : Nat → List AccVal → Option AccVal × FlagWord
  | _, [] => (none, 0)
  | _, [a] => (some a, 0)
  | 0, a :: _ => (some a, 0)
  | n + 1, l =>
    let (l', fl) := treeLevel j l
    let (r, fl') := treeLevels j n l'
    (r, fl ||| fl')

/-- The tree of R103 over a list of parts. -/
def splitTree (j : AccVal → AccVal → AccVal × FlagWord) (parts : List AccVal) : Option AccVal × FlagWord :=
  treeLevels j parts.length parts

/-- The tile status word of Table 4.3: NB, DEPTH and the four flags. -/
structure TileStatus where
  nb    : Nat
  depth : Bool
  flags : FlagWord
deriving DecidableEq, Repr

/-- A cleared status word. -/
def TileStatus.zero : TileStatus := ⟨0, false, 0⟩

/-- The 32 bits of the word (Table 4.3). -/
def TileStatus.word (t : TileStatus) : Nat := t.nb * 65536 + (if t.depth then 16 else 0) + t.flags.toNat

/-- A status word with its NB as given, saturated with DEPTH (R101). -/
def TileStatus.withNb (depth : Bool) (fl : FlagWord) (nb : Nat) : TileStatus :=
  ⟨min nb 65535, depth || decide (nb > 65535), fl⟩

/-- R101 and R522: the update by an operation of n blocks and these flags. `full` says that an overwrite wrote every element. -/
def TileStatus.update (old : TileStatus) (overwrite full : Bool) (n : Nat) (fl : FlagWord) : TileStatus :=
  if overwrite then
    if full then TileStatus.withNb false fl n
    else TileStatus.withNb old.depth (old.flags ||| fl) (max old.nb n)
  else TileStatus.withNb old.depth (old.flags ||| fl) (old.nb + n)

/-- The merge of a join (R103). -/
def TileStatus.merge (a b : TileStatus) (fl : FlagWord) : TileStatus :=
  TileStatus.withNb (a.depth || b.depth) (a.flags ||| b.flags ||| fl) (a.nb + b.nb)

end Sys2Proof.Machine
end

