-- ==== Sys2Proof/Machine/Nb12.lean ====
section
/-! DEFINITION. NB12 blocks: layout and checksum (R68 to R71), decode (R72), encode (R326, R518), addition and the linear
checksum (R327, R328), the Assayer's check (R71). -/
namespace Sys2Proof.Machine

/-- An NB12 block (Table 3.6). A mantissa `none` is the NaN marker; `rsv` holds FLAGS bits [15:2] as read. -/
structure Nb where
  scale : Int
  bumps : Nat
  nan   : Bool
  pred  : Bool
  rsv   : Nat
  check : Nat
  m     : List (Option Int)
deriving DecidableEq, Repr

/-- The checksum of R71 over mantissas from index `i` on, as an exact integer. -/
def nbSum : Nat → List (Option Int) → Int
  | _, [] => 0
  | i, m :: ms => m.getD (-2048) * (2 * i + 1) + nbSum (i + 1) ms

/-- The checksum of R71. -/
def nbCheck (m : List (Option Int)) : Nat := wrap 32 (nbSum 0 m)

/-- The Assayer's check of R71. -/
def nbValid (b : Nb) : Bool :=
  b.check = nbCheck b.m && b.nan = b.m.any Option.isNone && b.rsv = 0

/-- One 12-bit mantissa field (R69). -/
def nbField (m : Option Int) : Nat := match m with | none => 0x800 | some v => wrap 12 v

/-- Pack mantissas two to a 3-byte group (R69). -/
def nbPackM : List (Option Int) → List Byte
  | a :: b :: rest => toBytes 3 (nbField a + nbField b * 4096) ++ nbPackM rest
  | _ => []

/-- The 104 bytes of a block (Table 3.6). -/
def nbPack (b : Nb) : List Byte :=
  toBytes 1 (wrap 8 b.scale) ++ toBytes 1 b.bumps ++
  toBytes 2 ((if b.nan then 1 else 0) + (if b.pred then 2 else 0) + 4 * b.rsv) ++ toBytes 4 b.check ++ nbPackM b.m

/-- One mantissa from its field. -/
def nbUnfield (x : Nat) : Option Int := if x % 4096 = 0x800 then none else some (signed 12 x)

/-- Unpack `n` groups. -/
def nbUnpackM : Nat → List Byte → List (Option Int)
  | 0, _ => []
  | n + 1, bs =>
    let w := ofBytes (bs.take 3)
    nbUnfield (w % 4096) :: nbUnfield (w / 4096) :: nbUnpackM n (bs.drop 3)

/-- A block from its 104 bytes. -/
def nbUnpack (bs : List Byte) : Nb :=
  let fl := ofBytes ((bs.drop 2).take 2)
  { scale := signed 8 (ofBytes (bs.take 1)), bumps := ofBytes ((bs.drop 1).take 1), nan := bit fl 0, pred := bit fl 1,
    rsv := fl / 4, check := ofBytes ((bs.drop 4).take 4), m := nbUnpackM 32 (bs.drop 8) }

/-- The value of a mantissa under a scale (R70). -/
def nbVal (scale : Int) (m : Option Int) : Val :=
  match m with
  | none => .nan
  | some v => if v = 0 then Val.zero false else Val.ofScaled v (scale - 11)

/-- Decode to FP32, exact (R72). -/
def nbDecode (b : Nb) : List W32 := b.m.map fun m => rne false (nbVal b.scale m)

/-- A signed integer from a magnitude and its sign. -/
def signedOf (neg : Bool) (k : Nat) : Int := if neg then -(k : Int) else (k : Int)

/-- The mantissa of an element at scale `s`, rounded to nearest even (R326). -/
def nbMant (s : Int) (v : Val) : Option Int :=
  match v with
  | .fin n m e => some (signedOf n (roundAt .rne 0 m (e + 11 - s) 0).1)
  | _ => none

/-- A mantissa within range, or a marker. -/
def nbFits (m : Option Int) : Bool := match m with | none => true | some v => v.natAbs ≤ 2047

/-- Markers for mantissas out of range. -/
def nbSat (ms : List (Option Int)) : List (Option Int) := ms.map fun m => if nbFits m then m else none

/-- The search of R326 for the number of bumps. -/
def nbBumps : Nat → Int → Nat → List Val → Nat
  | 0, _, b, _ => b
  | n + 1, s, b, xs =>
    if (xs.map (nbMant (s + b))).all nbFits || s + b = 127 then b else nbBumps n s (b + 1) xs

/-- nb12_encode of R326, without FLAGS.PREDICTED decided: `pred` says whether the scale came from PREDICTED. -/
def nbEncode (pred : Bool) (s : Int) (xs : List Val) : Nb :=
  let b := nbBumps 256 s 0 xs
  let ms := nbSat (xs.map (nbMant (s + b)))
  { scale := s + b, bumps := b, nan := ms.any Option.isNone, pred := pred, rsv := 0, check := nbCheck ms, m := ms }

/-- The largest exponent of the finite non-zero elements, at least -128 (R330, R518). -/
def nbTop (xs : List Val) : Int :=
  xs.foldl (fun a v => match v with | .fin _ m e => if m = 0 then a else max a (log2Floor m e) | _ => a) (-128)

/-- The encode of CONVERT and DMA CONVERT, with its flags (R518). -/
def nbConvert (xs : List Val) : Nb × FlagWord :=
  let blk := nbEncode false (min 127 (max (-128) (nbTop xs + 1))) xs
  let fl := ((xs.zip blk.m).map fun (v, m) =>
    match v, m with
    | .nan, _ => (0 : FlagWord)
    | .inf _, _ => fINV
    | .fin _ _ _, none => fOVF ||| fINX
    | .fin n mm e, some k =>
      if mm = 0 then 0
      else if k = 0 then fUNF ||| fINX
      else if Val.eqv (.fin n mm e) (nbVal blk.scale (some k)) then 0 else fINX).foldl (· ||| ·) 0
  (blk, fl)

/-- Divide mantissas by 2^d, ties to even; markers stay (R327). -/
def nbShift (d : Nat) (ms : List (Option Int)) : List (Option Int) :=
  ms.map fun m => m.map fun v => signedOf (decide (v < 0)) (roundAt .rne 0 v.natAbs 0 (d : Int)).1

/-- Sum of two mantissas; a marker wins (R327). -/
def nbPlus (a b : Option Int) : Option Int :=
  match a, b with
  | some x, some y => some (x + y)
  | _, _ => none

/-- The bump loop of R327. -/
def nbBumpLoop : Nat → Int → Nat → List (Option Int) → List (Option Int) × Int × Nat
  | 0, s, n, ms => (ms, s, n)
  | f + 1, s, n, ms =>
    if ms.all nbFits then (ms, s, n)
    else if s = 127 then (nbSat ms, s, n)
    else nbBumpLoop f (s + 1) (n + 1) (nbShift 1 ms)

/-- nb12_add of R327, with whether the addition was linear (R328): a linear sum carries a.check + b.check, any other is
resealed. -/
def nbAdd (a b : Nb) : Nb × Bool :=
  let s := max a.scale b.scale
  let am := nbShift (s - a.scale).toNat a.m
  let bm := nbShift (s - b.scale).toNat b.m
  let sum := (am.zip bm).map fun (x, y) => nbPlus x y
  let (ms, s', n) := nbBumpLoop 256 s 0 sum
  let linear := a.scale = b.scale && n = 0 && ms.all Option.isSome
  ({ scale := s', bumps := min 255 (max a.bumps b.bumps + n), nan := ms.any Option.isNone, pred := a.pred || b.pred,
     rsv := 0, check := if linear then (a.check + b.check) % 2 ^ 32 else nbCheck ms, m := ms }, linear)

end Sys2Proof.Machine
end

