-- ==== Sys2Proof/Machine/CoreTypes.lean ====
section
/-! DEFINITION. The state of a logical core: threads, cue buffer, scoreboard, hold queue, events, tiles, planes, slots
(05 to 09), and of a site's bench (R160). Data only. -/
namespace Sys2Proof

/-- A logical core 16r + c (R189, R318). -/
abbrev CoreId := Fin 192
/-- A site 16r + c, rows 0 to 12 (Table 1.1). -/
abbrev SiteId := Fin 208
/-- A submission or completion ring (R237). -/
abbrev RingId := Fin 64
/-- A Gehus link L0 to L19 (R272). -/
abbrev LinkId := Fin 20
/-- An event counter of a core (R188). -/
abbrev EventId := Fin 64
/-- A thread T0 or T1. -/
abbrev ThreadId := Fin 2

/-- A thread of a logical core. -/
structure ThRef where
  core : CoreId
  t    : ThreadId
deriving DecidableEq, Repr

namespace Machine

/-- A byte-addressed memory: cells of strictly rising address, none zero; an unlisted byte reads 0 (R413). -/
abbrev Memory := List Host.Cell

/-- The faults of Table 8.11, in their order. -/
inductive IFault where
  | illegalOpcode | reservedField | markMissing | fieldRange | formatIllegal | tileOwnership | benchLane
  | tileRange | transposeIllegal | planeEmpty | benchRange | branchRange | vecRange | topkRange | dmaDesc
  | dmaRange | bufState | passTileOrder | passHoldFull | vvLogFull | heldResult | eventRange | anchorOrder | streamEnd
deriving DecidableEq, Repr

/-- A unit that holds scoreboard entries (R128) or that WAIT names (R200). -/
inductive ExecUnit where
  | array (a : Fin 4) | vector | dma
deriving DecidableEq, Repr

/-- What an open operation is, as far as leaving the scoreboard goes (R118, R123, R138, R142, R177). -/
inductive OpKind where
  | load | matrix | readout | vec
  | transfer (convert : Bool) (flags : FlagWord)
  /-- a GATHER into a buffer entry, with its number among those that fill it -/
  | gather (entry fill : Nat) (counted : Bool)
deriving DecidableEq, Repr

/-- A scoreboard entry: the arrays it spans (or the vector or DMA engine) and its kind. -/
structure SbEntry where
  units : List ExecUnit
  kind  : OpKind
  index : Nat
deriving DecidableEq, Repr

/-- The span word of Table 8.2. -/
structure SpanW where
  base : Nat
  len  : Nat
deriving DecidableEq, Repr

/-- The destination word of Table 8.2. -/
structure DestW where
  addr : Nat
  col  : Nat
  row  : Nat
  chip : Nat
deriving DecidableEq, Repr

/-- A DMA descriptor (Table 7.4). -/
structure DmaDesc where
  op : Nat
  fmt : Nat
  ctl : Nat
  buf : Nat
  seedReg : Nat
  stream : Nat
  src : Nat
  dst : Nat
  rowElems : Nat
  rows : Nat
  srcStride : Nat
  dstStride : Nat
  indexBase : Nat
  scaleOff : Nat
deriving DecidableEq, Repr

/-- A held effect of a pass (R40, R179, R211), with the index of its instruction. -/
inductive Held where
  | send (index : Nat) (span : SpanW) (dest : DestW) (ev : EventId) (target : Nat)
  | post (index : Nat) (dest : DestW) (ev : EventId)
  | grdy (index : Nat) (span : SpanW) (ev : EventId) (group bucket : Nat) (deadline : Option Word)
  | atomicAdd (index : Nat) (d : DmaDesc)
  | fadd (index : Nat) (addr : Nat) (addend : Word) (dest : Fin 32)
  | release (index : Nat) (buf : Nat)
deriving DecidableEq, Repr

/-- A released effect whose acknowledgement is still to come (R213): the flags of an ATOMIC_ADD, or an FADD's old value, its
register and its index. -/
inductive Ack where
  | add (flags : FlagWord)
  | fadd (value : Word) (dest : Fin 32) (index : Nat)
deriving DecidableEq, Repr

/-- One row of a sequence slot (R150). -/
structure SlotRow where
  m : W32
  l : Pair
  a : W32
deriving DecidableEq, Repr

/-- The initial row of R150: m = -Inf, l = (+0, +0), a = 1.0. -/
def slotRow0 : SlotRow := ⟨0xFF800000#32, ⟨0, 0⟩, 0x3F800000#32⟩

/-- A slot of 32 rows. -/
abbrev Slot := Vector SlotRow 32

/-- A tile of 32 x 32 elements of 32 bits (R120). -/
abbrev Tile := Vector (Vector W32 32) 32

/-- What a weight plane holds: a slice by rows, its stationary format and scale bytes (R107, R519); `lo` marks the lo(B)
half of a class W slice (R108). -/
structure Slice where
  fmt    : Fmt
  rows   : List (List Nat)
  scales : List Nat
  lo     : Bool
deriving DecidableEq, Repr

/-- The weight side of one array: two planes, the plane the next load goes to, the plane of the latest load (R108, R110). -/
structure Planes where
  p0     : Option Slice
  p1     : Option Slice
  next   : Fin 2
  latest : Option (Fin 2)
deriving DecidableEq, Repr

/-- Empty planes (R122). -/
def planes0 : Planes := ⟨none, none, 0, none⟩

/-- The architectural registers of a thread (R188). -/
structure Regs where
  s   : Vector Word 32
  p   : BitVec 8
  lc  : Vector W32 4
  vfl : FlagWord
deriving DecidableEq, Repr

/-- All registers zero; p0 reads 1 through its accessor. -/
def regs0 : Regs := ⟨Vector.replicate 32 0, 0, Vector.replicate 4 0, 0⟩

/-- A checkpoint (R213): the registers, and the model's cursors that go back with them; `pos` is the instruction after the
COMMIT. -/
structure Checkpoint where
  regs   : Regs
  sendIx : Nat
  pos    : Nat
  vvPos  : Nat
  relCnt : Nat
  passed : Bool
  steps  : Nat
deriving DecidableEq, Repr

/-- A stream a thread runs: its device address and its instruction count (Table 2.2). -/
structure Stream where
  base  : Nat
  count : Nat
deriving DecidableEq, Repr

/-- A resident line of the cue buffer: its number in the stream and its 512 words (R190). -/
structure CueLine where
  line  : Nat
  words : List Word
deriving DecidableEq, Repr

/-- What a committing thread does after its COMMIT (R213, R216, R218, R226). -/
inductive CommitKind where
  | commit
  | anchor (n : Nat) (live : Word)
  | ended
  | leaveWindow
deriving DecidableEq, Repr

/-- What a thread is doing. -/
inductive ThState where
  | absent
  | loading
  | running
  | awaiting (e : EventId) (count : Nat)
  | awaitingAny (d : Fin 32) (mask : Word)
  | committing (k : CommitKind)
  | atAnchor (n : Nat) (live : Word)
  | inWindowWait (window : Nat)
  | ended
  | halted
deriving DecidableEq, Repr

/-- Elements of one tile that the open pass has written: rows and columns as bit masks (R131). -/
structure Touched where
  tile : Nat
  rows : BitVec 32
  cols : BitVec 32
deriving DecidableEq, Repr

/-- A status word saved at the first write of a pass (R131). -/
structure StatusSnap where
  tile : Nat
  old  : TileStatus
deriving DecidableEq, Repr

/-- A slot saved at the first write of a pass (R154). -/
structure SlotSnap where
  slot : Fin 32
  old  : Slot
deriving DecidableEq, Repr

/-- An event amount consumed in the open pass (R213, R214). -/
structure Consumed where
  ev     : EventId
  amount : Nat
deriving DecidableEq, Repr

/-- A thread of a logical core (R188), with its pass, commit and replay records. -/
structure Thread where
  st        : ThState
  stream    : Option Stream
  pos       : Nat
  regs      : Regs
  cue       : List CueLine
  sb        : List SbEntry
  hold      : List Held
  /-- effects released by the COMMIT under way whose acknowledgement is still to come -/
  acks      : List Ack
  /-- registers an FADD of the open pass will write (R211) -/
  faddRegs  : List (Fin 32)
  written   : BitVec 32
  touched   : List Touched
  statusSn  : List StatusSnap
  slotSn    : List SlotSnap
  consumed  : List Consumed
  ckpt      : Checkpoint
  mainCkpt  : Option Checkpoint
  window    : Option Nat
  mainStream : Option Stream
  /-- the window that opens at the issue position has been run and left (R226) -/
  passed    : Bool
  anchorNo  : Nat
  detections : Nat
  /-- value-varying log entries of this thread already taken since the anchor -/
  vvPos     : Nat
  /-- held effects released since launch start, and the release mark of a replay (R350, R352) -/
  relCnt    : Nat
  relMark   : Nat
  /-- instructions issued since the anchor, and the stop position of a replay: its stream's window, its index, and how many
  instructions it lies after the anchor (R350, R354) -/
  steps     : Nat
  stopPos   : Option (Option Nat × Nat × Nat)
  cycles    : Nat
  /-- instructions executed since the checkpoint: the place of an instruction in its pass (R212) -/
  stepNo    : Nat
  /-- the weight planes of each array at the start of the open pass (R131) -/
  planesAt  : Vector Planes 4
  /-- the column's clock was stretched or stopped since this thread's last trace record (R468) -/
  stretched : Bool
  /-- the Tally count at the entry of the window, and the window's BUDGET (R225) -/
  winAt     : Nat
  winBudget : Nat
  /-- the first index of its stream that the scan for load notices has not announced (R392) -/
  noticed   : Nat
  /-- a jump to a line that was not resident waits for its line and the next (R190) -/
  refill    : Bool
  /-- the tick, as `Align.ticks` counts, since which an entry of the buffer table holds the thread up (R179), or up to which
  its wait at a window is counted (R224) -/
  waitAt    : Option Nat := none
deriving DecidableEq, Repr

/-- The checkpoint of a thread that runs nothing. -/
def ckpt0 : Checkpoint := ⟨regs0, 0, 0, 0, 0, false, 0⟩

/-- A thread that takes no part in a launch. -/
def thread0 : Thread :=
  { st := .absent, stream := none, pos := 0, regs := regs0, cue := [], sb := [], hold := [], acks := [], faddRegs := [],
    written := 0, touched := [], statusSn := [], slotSn := [], consumed := [], ckpt := ckpt0, mainCkpt := none,
    window := none, mainStream := none, passed := false, anchorNo := 0, detections := 0, vvPos := 0, relCnt := 0, relMark := 0, steps := 0,
    stopPos := none, cycles := 0, stepNo := 0, planesAt := Vector.replicate 4 planes0,
    stretched := false, winAt := 0, winBudget := 0, noticed := 0, refill := false }

/-- The scope P launch counters of Table 17.1, in the order of their IDs 0x10 to 0x17. -/
structure CoreCtrs where
  sbFull : Nat
  cueMiss : Nat
  bankStall : Nat
  awaitCycles : Nat
  windowWait : Nat
  windowOverrun : Nat
  entropyWait : Nat
  issued : Nat
deriving DecidableEq, Repr

/-- All counters zero (R457). -/
def coreCtrs0 : CoreCtrs := ⟨0, 0, 0, 0, 0, 0, 0, 0⟩

/-- Fault registers of a core: FAULT_INFO's fields and FAULT_WORD (R220, R487). -/
structure FaultRegs where
  valid  : Bool
  code   : Nat
  thread : Nat
  window : Nat
  index  : Nat
  word   : Word
deriving DecidableEq, Repr

/-- Empty fault registers. -/
def faultRegs0 : FaultRegs := ⟨false, 0, 0, 0, 0, 0⟩

/-- Sleep state of a core (R386): `toS1` and `toS2` are entries, with the wake event that came meanwhile; the waking states are
exits (R390). -/
inductive Sleep where
  | s0 | toS1 (wake : Bool) | s1 | toS2 (wake : Bool) | s2 | waking1 | waking2
deriving DecidableEq, Repr

/-- A place of a core that the stored rule of R184 covers: a 64-byte half of its bench, an element of a tile, a row entry of a
slot. -/
inductive CorePlace where
  | half (addr : Nat)
  | tile (t row col : Fin 32)
  | slot (slot row : Fin 32)
deriving DecidableEq, Repr

/-- What R347 counts finds by: a bench row, a tile element, a slot row entry. -/
def CorePlace.key : CorePlace → CorePlace
  | .half a => .half (a / 128 * 128)
  | p => p

/-- A logical core. The two threads are T0 and T1. -/
structure Core where
  threads : Vector Thread 2
  split   : Bool
  ev      : Vector W32 64
  sendIx  : Nat
  tiles   : Vector Tile 32
  status  : Vector TileStatus 32
  planes  : Vector Planes 4
  slots   : Vector Slot 32
  fault   : FaultRegs
  live    : CoreCtrs
  shadow  : CoreCtrs
  /-- detections attributed since the last anchor (R347) -/
  detections : Nat
  /-- places where a stored error was found in this launch (R347) -/
  storedAt : List CorePlace
  sleep   : Sleep
  /-- Tally count since which the core has been idle, if it is (R387) -/
  idleSince : Option Nat
  /-- arrays that each thread's RISE notices have announced since its last FALL (R392) -/
  risen : Vector Nat 2
deriving DecidableEq, Repr

/-- A tile of +0 (R122). -/
def tile0 : Tile := Vector.replicate 32 (Vector.replicate 32 0)

/-- A core right after reset (R413: everything wiped). -/
def core0 : Core :=
  { threads := Vector.replicate 2 thread0, split := false, ev := Vector.replicate 64 0, sendIx := 0,
    tiles := Vector.replicate 32 tile0, status := Vector.replicate 32 TileStatus.zero,
    planes := Vector.replicate 4 planes0, slots := Vector.replicate 32 (Vector.replicate 32 slotRow0),
    fault := faultRegs0, live := coreCtrs0, shadow := coreCtrs0, detections := 0, storedAt := [], sleep := .s0,
    idleSince := none, risen := Vector.replicate 2 0 }

/-- A site: its bench, the 64-byte halves of it whose code is known to fail (R183, R520), and the row each bank's scrub reads
next (R160, R164). -/
structure Site where
  bench : Memory
  bad   : List Nat
  scrub : Vector (Fin 512) 24
deriving DecidableEq, Repr

/-- A site right after reset. -/
def site0 : Site := ⟨[], [], Vector.replicate 24 0⟩

/-- State of a use-count buffer (Table 7.7). -/
inductive BufSt where
  | free | filling | ready
deriving DecidableEq, Repr

/-- A GATHER that fills an entry: its number among the entry's, its thread, index, place in its pass while that pass is open,
descriptor and whether it has been counted (R180, R212). -/
structure Fill where
  no    : Nat
  th    : ThRef
  index : Nat
  step  : Option Nat
  desc  : DmaDesc
  done  : Bool
deriving DecidableEq, Repr

/-- An entry of the buffer table (R178, R212). -/
structure BufEntry where
  st    : BufSt
  base  : Nat
  size  : Nat
  uses  : Nat
  parts : Nat
  /-- the defining core, on which the event increments (R210) -/
  core  : CoreId
  ev    : EventId
  /-- who defined it, by thread, index and place in its pass, while that pass is open (R212) -/
  owner : Option (ThRef × Nat × Nat)
  /-- USES and PARTS as defined, for the repeat of R212 -/
  defn  : Nat × Nat
  fills : List Fill
  /-- READY at the anchor and gathered again by a replay (R180) -/
  again : Bool
deriving DecidableEq, Repr

/-- A FREE entry. -/
def bufEntry0 : BufEntry := ⟨.free, 0, 0, 0, 0, 0, 0, none, (0, 0), [], false⟩

/-- An entry of the value-varying log (R42); the thread is the model's own note of which of the core's threads made it. -/
structure VvEntry where
  value : Word
  index : Nat
  th    : ThRef
  /-- a reduction's mask of inputs (R336), which no instruction reads back -/
  red   : Bool
deriving DecidableEq, Repr

/-- What an anchor holds for one core (R217): the live map's parts as whole values. -/
structure AnchorCore where
  banks   : List (Nat × Memory)
  tiles   : List (Nat × Tile × TileStatus)
  slots   : Option (Vector Slot 32)
  ckpts   : Vector Checkpoint 2
  states  : Vector ThState 2
  windows : Vector (Option Nat) 2
  anchors : Vector Nat 2
  ev      : Vector W32 64
  sendIx  : Nat
deriving DecidableEq, Repr

/-- An anchor (R217): its number, its 64-byte header, the record of each core, the buffer table, the accepted local send indices
(R353). -/
structure AnchorRec where
  number : Nat
  header : List Byte
  cores  : List (CoreId × AnchorCore)
  bufs   : Vector BufEntry 256
  localAccepted : List (CoreId × Nat)
deriving DecidableEq, Repr

/-- A section of an image (Table 2.2). -/
structure Section where
  th     : ThRef
  stream : Stream
deriving DecidableEq, Repr

/-- An entry of a window table (Table 9.1). -/
structure WindowEntry where
  th     : ThRef
  window : Nat
  openIx : Nat
  budget : Nat
deriving DecidableEq, Repr

/-- Whose descriptor a record answers: its ring, TAG, OPC, SLOT and IRQ flag, and its first eight bytes (Table 10.7). -/
structure DHead where
  sq   : RingId
  tag  : Nat
  opc  : Nat
  slot : Nat
  irq  : Bool
  word : Word
deriving DecidableEq, Repr

/-- A backlog item bound to a window (R228, R230): its sections (none for the empty item), argument and descriptor. -/
structure BoundItem where
  window   : Nat
  sections : Option (List Section)
  arg      : Word
  h        : DHead
deriving DecidableEq, Repr

/-- Why a launch stopped before its threads ended. -/
inductive Halt where
  | fault (f : IFault) (th : ThRef) (index : Nat) (word : Word) (window : Option Nat)
  | checksum
  | spare
  | security
  | internal
deriving DecidableEq, Repr

/-- Where a launch stands. -/
inductive LaunchSt where
  | queued | starting | active | halting | done
deriving DecidableEq, Repr

end Machine
end Sys2Proof
end

