-- ==== Sys2Proof/Machine/HostTypes.lean ====
section
/-! DEFINITION. The state of the host interface (10_host_interface.md), of launches (02, 09, 13), of durable regions (R181), of
counters, trace and telemetry (17_observability.md), and what the device sends out. Data only. -/
namespace Sys2Proof

/-- A 64-byte descriptor as eight little-endian words: word 0 holds OPC, FLAGS, TAG and PARAM, words 1 to 7 the BODY
(Table 10.7). -/
structure Desc where
  w : Vector Word 8
deriving DecidableEq, Repr

namespace Machine

/-- A submission ring: its registers (Table 10.3), the TAIL last seen, the doorbell line's state (R242), the reads that are
outstanding and the descriptors read and not yet taken. -/
structure SubRing where
  base    : Word
  db      : Word
  cq      : RingId
  prio    : Fin 4
  polled  : Bool
  ty      : Fin 4
  log2    : Nat
  enable  : Bool
  headPos : Nat
  err     : Nat
  stopped : Bool
  active  : Bool
  tail    : Nat
  lineHeld : Bool
  lineReading : Bool
  lineAgain : Bool
  fetching : Nat
  fetched : List Desc
deriving DecidableEq, Repr

/-- A submission ring after reset (Table 10.3). -/
def subRing0 : SubRing :=
  { base := 0, db := 0, cq := 0, prio := 0, polled := false, ty := 0, log2 := 6, enable := false, headPos := 0, err := 0,
    stopped := false, active := false, tail := 0, lineHeld := false, lineReading := false, lineAgain := false, fetching := 0,
    fetched := [] }

/-- A completion record (Table 10.11); `body` is bytes 0x08 to 0x1E. PHASE is added as the record is written (R259). -/
structure Rec where
  tag    : Nat
  opc    : Nat
  status : Nat
  sq     : Nat
  kind   : Nat
  slot   : Nat
  body   : BitVec 184
  more   : Bool
  irq    : Bool
  /-- the open work item that closes when this record has been written (R247) -/
  closes : Option Nat
  /-- open work items whose records are written before this one (R230) -/
  after  : List Nat := []
deriving DecidableEq, Repr

/-- A completion ring: its registers (Table 10.4), the HEAD last seen, its head line's state and the records that wait. -/
structure CompRing where
  base    : Word
  hl      : Word
  holdoff : Nat
  vector  : Fin 64
  irqAll  : Bool
  telemetry : Bool
  polled  : Bool
  log2    : Nat
  enable  : Bool
  tailPos : Nat
  dropped : Nat
  err     : Nat
  stopped : Bool
  full    : Bool
  active  : Bool
  headSeen : Nat
  lineHeld : Bool
  /-- the first read of the head line is outstanding (R242) -/
  lineReading : Bool
  waiting : List Rec
deriving DecidableEq, Repr

/-- A completion ring after reset (Table 10.4). -/
def compRing0 : CompRing :=
  { base := 0, hl := 0, holdoff := 0, vector := 0, irqAll := false, telemetry := false, polled := false, log2 := 6,
    enable := false, tailPos := 0, dropped := 0, err := 0, stopped := false, full := false, active := false, headSeen := 0,
    lineHeld := false, lineReading := false, waiting := [] }

/-- An MSI-X table entry, its pending bit, and the Tally count before which no further message goes out, with the note that
a record called for one in that time (R267). -/
structure MsixVec where
  addr    : Word
  data    : W32
  ctrl    : W32
  pend    : Bool
  holdTill : Nat
  owed    : Bool
  /-- HOLDOFF of the ring whose record is owed a message -/
  gap     : Nat
deriving DecidableEq, Repr

/-- A vector after reset: masked, as MSI-X has it. -/
def msixVec0 : MsixVec := ⟨0, 0, 1, false, 0, false, 0⟩

/-- Restore source of a durable region (R181). -/
inductive RegionSrc where
  | mirror (base : Nat) | peer (chip : Nat) | host
deriving DecidableEq, Repr

/-- A durable region (R181). -/
structure Region where
  base : Nat
  size : Nat
  src  : RegionSrc
deriving DecidableEq, Repr

/-- A delivery from outside a core (R208, R323): bytes for its bench, its event, and whether it is the part that
increments the event. -/
structure Delivery where
  core   : CoreId
  addr   : Nat
  data   : List Byte
  ev     : EventId
  counts : Bool
deriving DecidableEq, Repr

/-- A journal entry (R358): a delivery, whether it has been applied since the last anchor or replay, and the reduction round
whose total it is. -/
structure JEntry where
  d       : Delivery
  applied : Bool
  total   : Option (Nat × Nat × Nat)
deriving DecidableEq, Repr

/-- The parameters of an accepted LAUNCH (R28, R29, R223). -/
structure LaunchDesc where
  image      : Nat
  start      : Nat
  arg        : Word
  rangeBase  : Nat
  rangeBytes : Nat
  anchorBase : Nat
  anchorBytes : Nat
  multi      : Bool
  backlog    : Bool
  vvCap      : Nat
  sections   : List Section
  windows    : List WindowEntry
  windowCount : Nat
deriving DecidableEq, Repr

/-- The LAUNCH that runs: its descriptor's tag and ring, its record of Table 10.12, and what R42, R216, R230, R350 and
R358 keep for it. -/
structure Launch where
  d       : LaunchDesc
  h       : DHead
  item    : Nat
  seq     : Nat
  st      : LaunchSt
  exc     : BitVec 8
  vvx     : Bool
  /-- the launch level (R47, R385) -/
  level   : Fin 5
  late    : Bool
  lateTicks : Nat
  depth   : Bool
  waited  : Bool
  short   : Bool
  firstTick : Option Nat
  halt    : Option Halt
  otherFaults : Nat
  /-- the tick of the reported fault, and the threads that were running in it with what they held (R221) -/
  faultTick : Nat
  sameCycle : List (ThRef × List Held)
  vvLog   : List VvEntry
  anchors : List AnchorRec
  anchorNo : Nat
  attempts : Nat
  replay  : Bool
  replayFrom : Nat
  journal : List JEntry
  /-- restore requests outstanding: sector and the Tally count of the request (R264) -/
  restoreReq : List (Nat × Nat)
  /-- sectors outside durable regions whose stored error has already cost a replay (Table 7.9) -/
  replayedFor : List Nat
  /-- GATHERs whose RESULT 2 has already cost a replay (R293) -/
  replayedGather : List (ThRef × Nat)
  /-- PEER sectors that requesters wait for, each since a Tally count (Table 7.9) -/
  peerWait : List (Nat × Nat)
  /-- buffers being gathered again after a replay (R180) -/
  regather : Nat
deriving DecidableEq, Repr

/-- What an open work item is (R247, R248). -/
inductive ItemKind where
  | launch (d : LaunchDesc)
  | backlog (window : Nat)
  | copy (srcHost dstHost : Bool) (src dst bytes : Nat)
  | fill (dst bytes : Nat) (pattern : Word)
  | wipe (base bytes : Nat)
  | mirror (slot : Fin 64) (r : Region)
  | fwLoad
  | epochSwitch (epoch : Fin 2) (tick : Nat)
  | reinstate (site : SiteId)
  | groupClose (group gen : Nat)
  | tallyAlign
  | traceStop
  | quiesce
  /-- `waiting`: it waits for the active launch or for a change under way (R385) -/
  | setLevel (waiting : Bool)
  /-- a descriptor that is done, whose record waits -/
  | answered
deriving DecidableEq, Repr

/-- An open work item: an accepted descriptor whose last record has not been written (R247). -/
structure Item where
  id    : Nat
  h     : DHead
  ordered : Bool
  kind  : ItemKind
  /-- its last record waits for space on its completion ring -/
  closing : Bool
deriving DecidableEq, Repr

/-- The scope C launch counters of Table 17.1 (IDs 0x01 to 0x0A and 0x20 to 0x23). -/
structure ChipCtrs where
  refStall : Nat
  rtyPackets : Nat
  recCount : Nat
  recCycles : Nat
  repCount : Nat
  repTicks : Nat
  strCycles : Nat
  thrTicks : Nat
  detCycles : Nat
  hdmAccesses : Nat
  e2eFull : Nat
  journalFull : Nat
  repeatDiscards : Nat
  traceDropped : Nat
deriving DecidableEq, Repr

/-- All zero. -/
def chipCtrs0 : ChipCtrs := ⟨0, 0, 0, 0, 0, 0, 0, 0, 0, 0, 0, 0, 0, 0⟩

/-- The running counters of Table 17.1 (IDs 0x100 to 0x116). -/
structure RunCtrs where
  recomputes : Nat
  fences : Nat
  replays : Nat
  restores : Nat
  laneRepairs : Nat
  pcRetired : Nat
  phasesLost : Nat
  pktDiscards : Nat
  linkChanges : Nat
  transient : Nat
  stored : Nat
  stackCorrected : Nat
  assayerFails : Nat
  traceLost : Nat
deriving DecidableEq, Repr

/-- All zero. -/
def runCtrs0 : RunCtrs := ⟨0, 0, 0, 0, 0, 0, 0, 0, 0, 0, 0, 0, 0, 0⟩

/-- A trace record's content (Table 17.4). -/
structure TraceRec where
  ty     : Nat
  stretch : Bool
  rep    : Bool
  src    : Nat
  thread : Nat
  window : Nat
  index  : Nat
  tally  : Nat
  cycles : Nat
  word   : Word
deriving DecidableEq, Repr

/-- The Scrivener (R462 to R465): the sink, what is traced, the records queued at sites and dispatchers or staged in the
SRAM, and the losses not yet reported. -/
structure Trace where
  enabled : Bool
  draining : Bool
  sink    : Nat
  bytes   : Nat
  cols    : BitVec 16
  rows    : BitVec 12
  disp    : Bool
  written : Nat
  queue   : List (Nat × TraceRec)
  lost    : List (Nat × Nat)
deriving DecidableEq, Repr

/-- Tracing off, nothing staged. -/
def trace0 : Trace := ⟨false, false, 0, 0, 0, 0, false, 0, [], []⟩

/-- Observation registers (Table 17.3). -/
structure Obs where
  shadow : Bool
  core   : Nat
  ctrId  : Nat
  /-- the last latch of CTR_DATA (R459) -/
  data   : Word
  tag    : Nat
  telPeriod : Nat
  telCount : Nat
  /-- the count of the last telemetry record, or of the last change of the period -/
  telLast : Nat
  /-- the last latch of TALLY_NOW (R474) -/
  tallyNow : Word
deriving DecidableEq, Repr

/-- Reset values of Table 17.3. -/
def obs0 : Obs := ⟨false, 0xFF, 0, 0, 0, 0x000802C8, 0, 0, 0⟩

end Machine
end Sys2Proof
end

