-- ==== Sys2Proof/Machine/FabricTypes.lean ====
section
/-! DEFINITION. The state of the Gehus fabric (11_gehus_fabric.md): packets, links, routes, end-to-end delivery, the Tally and
its alignment. Data only. -/
namespace Sys2Proof

/-- A Gehus packet (Tables 11.3 to 11.6): the common header's fields, the type-specific bytes from 0x10 on (`ext`: 8 bytes of
a control packet, 16 of a data packet), the payload, and the trailer (R282). `rsv` holds byte 0x01 bits [7:5]. -/
structure Packet where
  ty      : Nat
  vc      : Nat
  epoch   : Fin 2
  sec     : Bool
  hops    : Nat
  rsv     : Nat
  dst     : Nat
  src     : Nat
  dstCore : Nat
  srcCore : Nat
  index   : Nat
  sent    : Nat
  ext     : BitVec 128
  payload : List Byte
  crc     : Nat
  lseq    : Nat
  lack    : Nat
deriving DecidableEq, Repr

/-- A link mode (Table 11.1). -/
inductive LinkMode where
  | g4 | g2 | h4 | h2
deriving DecidableEq, Repr

namespace Machine

/-- A link's state (R273 to R277). -/
inductive LinkSt where
  | down | training | up | miswired
deriving DecidableEq, Repr

/-- Credit units of the four virtual channels C, D0, D1, E (Table 11.7). -/
structure Credits where
  c  : Nat
  d0 : Nat
  d1 : Nat
  e  : Nat
deriving DecidableEq, Repr

/-- No units. -/
def credits0 : Credits := ⟨0, 0, 0, 0⟩
/-- The whole buffer of a receiving port (Table 11.7). -/
def creditsFull : Credits := ⟨256, 1280, 1280, 1280⟩

/-- One Gehus link. -/
structure Link where
  st      : LinkSt
  mode    : Option LinkMode
  failed  : BitVec 4
  /-- a two-lane mode uses lanes 2 and 3 (R273) -/
  upper   : Bool
  degraded : Bool
  partner : Option Nat
  changes : Nat
  txSeq   : Nat
  rxSeq   : Nat
  resend  : List Packet
  replays : Nat
  /-- the tick, as `Align.ticks` counts, since which LACK has made no progress (R287) -/
  stuckAt : Nat
  credit  : Credits
  freed   : Credits
  txq     : List Packet
  turn    : Fin 3
  /-- stamp t1 of the TALLY exchange in flight on this link (R306) -/
  tallyT1 : Option Nat
  /-- the tick of the latest exchange begun on this link since it trained -/
  exchAt  : Option Nat
deriving DecidableEq, Repr

/-- A link that has never trained. -/
def link0 : Link :=
  { st := .down, mode := none, failed := 0, upper := false, degraded := false, partner := none, changes := 0, txSeq := 0, rxSeq := 0,
    resend := [], replays := 0, stuckAt := 0, credit := credits0, freed := credits0, txq := [], turn := 0, tallyT1 := none,
    exchAt := none }

/-- What an epoch routes by (R294): nothing, the dimension-order mode, or a table of 32,768 entries. -/
inductive Routes where
  | none | algo | table (entries : List Nat)
deriving DecidableEq, Repr

/-- A tracked packet at its source (R288, R291). -/
structure Tracked where
  pkt     : Packet
  members : Nat
  acked   : List Nat
  sentAt  : Nat
  resends : Nat
  /-- the dimension of the line along which a RED_DATA total goes (R322) -/
  line    : Option Nat := none
deriving DecidableEq, Repr

/-- An acceptance record (R290). -/
structure Accepted where
  src     : Nat
  srcCore : Nat
  launch  : Nat
  index   : Nat
  seg     : Nat
  tick    : Nat
deriving DecidableEq, Repr

/-- Packets of a SEND written so far (R283). -/
structure Assembly where
  src     : Nat
  srcCore : Nat
  index   : Nat
  got     : Nat
deriving DecidableEq, Repr

/-- What an open READ_REQ serves (R293): bytes `skip` to `skip + take - 1` of the answer for a GATHER, which is fill `fill` of
its entry, with their destination, or a sector to restore (Table 7.9). -/
inductive ReadFor where
  | gather (th : ThRef) (index : Nat) (entry fill : Nat) (dst skip take : Nat)
  | sector (addr : Nat)
deriving DecidableEq, Repr

/-- A request of a GATHER. -/
def ReadFor.isGather : ReadFor → Bool
  | .gather _ _ _ _ _ _ _ => true
  | .sector _ => false

/-- An open READ_REQ of this chip: its request ID, its range, its use, whether it has been sent yet, and the Tally count at which
it was asked for. -/
structure ReadReq where
  id   : Nat
  chip : Nat
  addr : Nat
  len  : Nat
  use  : ReadFor
  sent : Bool
  since : Nat
deriving DecidableEq, Repr

/-- The Tally's alignment (R305 to R309). `d2` values are offsets in half ticks. -/
structure Align where
  role    : Option (Fin 3)
  grand   : Nat
  initial : Word
  /-- the tick, as `ticks` counts, of the latest TALLY_ALIGN (R308) -/
  begun   : Nat
  parent  : Option LinkId
  stepped : Bool
  integ   : Int
  rate    : Int
  acc     : Nat
  good    : Nat
  bad     : Nat
  aligned : Bool
  /-- the latest TALLY_ALIGN since the reset has completed OK (R409) -/
  okDone  : Bool
  lastD2  : Int
  refOut  : Bool
  /-- Tally ticks since the Tally started, and where the count did not just advance by one: the new count and its tick, latest first, from
  the start or the latest setting of the Tally on (R46) -/
  ticks   : Nat
  runs    : List (Nat × Nat)
deriving DecidableEq, Repr

/-- No role set. -/
def align0 : Align :=
  { role := none, grand := 0, initial := 0, begun := 0, parent := none, stepped := false, integ := 0, rate := 0, acc := 0, good := 0,
    bad := 0, aligned := false, okDone := false, lastD2 := 0, refOut := false, ticks := 0, runs := [(0, 0)] }

/-- FAB_ID (R276, R482): node coordinates and torus sizes, and whether it has been written. -/
structure FabId where
  x : Nat
  y : Nat
  z : Nat
  dx : Nat
  dy : Nat
  dz : Nat
  written : Bool
deriving DecidableEq, Repr

/-- FAB_ID at reset. -/
def fabId0 : FabId := ⟨0, 0, 0, 1, 1, 1, false⟩

/-- The fabric. -/
structure Fabric where
  fabId   : FabId
  links   : Vector Link 20
  routes  : Vector Routes 2
  fresh   : Vector Bool 2
  inUse   : Option (Fin 2)
  switch  : Option (Fin 2 × Nat)
  /-- AT of the last EPOCH_SWITCH accepted -/
  switchAt : Nat
  draining : Option (Fin 2 × Nat)
  tracked : List Tracked
  accepted : List Accepted
  assembly : List Assembly
  localAccepted : List (CoreId × Nat)
  reads   : List ReadReq
  nextReq : Nat
  held    : List (LinkId × Packet)
deriving DecidableEq, Repr

/-- The fabric after reset. -/
def fabric0 : Fabric :=
  { fabId := fabId0, links := Vector.replicate 20 link0, routes := Vector.replicate 2 .none,
    fresh := Vector.replicate 2 false, inUse := none, switch := none, switchAt := 0, draining := none, tracked := [], accepted := [],
    assembly := [], localAccepted := [], reads := [], nextReq := 0, held := [] }

end Machine
end Sys2Proof
end

