-- ==== Sys2Proof/Machine/RedTypes.lean ====
section
/-! DEFINITION. The state of gradient reduction (12_gradient_reduction.md): groups, buckets, segments, rounds and the
partials kept in the reduction windows. Data only. -/
namespace Sys2Proof.Machine

/-- A partial of R319, named as the order names it; a node is a chip ID without its slot. -/
inductive PKey where
  | v (chip : Nat) | p (node i : Nat) | q (node j : Nat) | o (node : Nat) | a (y z : Nat) | b (z : Nat) | total
deriving DecidableEq, Repr

/-- A chunk under thinning (Table 12.6): its number, the indices of a sparse chunk (none when dense), its blocks. -/
structure Chunk where
  no     : Nat
  idx    : Option (List Nat)
  blocks : List Nb
deriving DecidableEq, Repr

/-- What a partial carries: FP32 or pair elements, NB12 blocks, thinned chunks, or the prepass exponents (R330). -/
inductive PData where
  | fp (xs : List AccVal) | nb (bs : List Nb) | thin (cs : List Chunk) | exps (es : List Int) | none
deriving DecidableEq, Repr

/-- A partial with its counts and summary flags (R319, R344). -/
structure Partial where
  count : Nat
  nans  : Nat
  excluded : Bool
  bumped : Bool
  dense : Bool
  data  : PData
deriving DecidableEq, Repr

/-- A partial kept in the window: whose it is, which phase it belongs to, from which chip it came and under which send index (R325). -/
structure Kept where
  key   : PKey
  prepass : Bool
  chip  : Nat
  part  : Partial
  index : Nat := 0
deriving DecidableEq, Repr

/-- An input of a combining point: still awaited, absent (R319), or there. -/
inductive Ready where
  | waiting | absent | present (p : Partial)
deriving DecidableEq, Repr

/-- A partial or total whose packets are still arriving (R342): its source's chip and index, and the packet with LAST. -/
structure Arriving where
  src   : Nat
  index : Nat
  level : Nat
  prepass : Bool
  total : Bool
  last  : Option Nat
  pkts  : List (Nat × List Byte)
deriving DecidableEq, Repr

/-- A released GRDY of one core (R316, R317): the instruction's index, its elements as they stood at the release, the tick of
the release as `Align.ticks` counts. -/
structure Contribution where
  core : CoreId
  t    : ThreadId
  span : SpanW
  ev   : EventId
  index : Nat
  deadline : Option Nat
  tick : Nat
  data : List AccVal
deriving DecidableEq, Repr

/-- What the last completed round of a segment left for the bucket's entry (Table 12.3). -/
structure SegRes where
  n     : Nat
  eff   : Nat
  nanM  : Nat
  nanE  : Nat
  rflags : BitVec 8
  fp    : FlagWord
deriving DecidableEq, Repr

/-- A segment (Table 12.4), with the rounds of it completed on this chip, the GRDYs each core has released for it, and its
last result. -/
structure Seg where
  offset : Nat
  count  : Nat
  cores  : List CoreId
  rounds : Nat
  counts : List (CoreId × Nat)
  res    : Option SegRes
deriving DecidableEq, Repr

/-- A bucket: its entry's host fields (Table 12.3). -/
structure Bucket where
  elements : Nat
  segs     : List Seg
  resOff   : Nat
  scaleOff : Nat
deriving DecidableEq, Repr

/-- Where a round stands. -/
inductive InstSt where
  | gathering | prepass | main | done
deriving DecidableEq, Repr

/-- One round of a segment on this chip (R317). -/
structure RInst where
  gen     : Nat
  bucket  : Nat
  seg     : Nat
  n       : Nat
  st      : InstSt
  contribs : List Contribution
  /-- the chip value v, by element (R318) -/
  own     : List AccVal
  ownMissing : Bool
  excluded : Bool
  nanElems : Nat
  /-- flags of the joins and the mean (FPFLAGS) -/
  fp      : FlagWord
  /-- what this chip sent of each element of v: none where thinning left it out (R339) -/
  sentVals : List (Option AccVal)
  bumped  : Bool
  arriving : List Arriving
  kept    : List Kept
  absent  : List PKey
  /-- phases whose output this chip has formed: true for the prepass -/
  formed  : List Bool
  /-- packets sent for this round (R325, R329) -/
  sent    : List Packet
  /-- a total that waits for room to be passed on and written: its phase, its level -/
  got     : Option (Bool × Nat × Partial)
  /-- the bytes written over each span (R323) -/
  result  : List Byte
  missed  : Bool
  /-- this chip took its own output as the total (R340) -/
  staleOut : Bool
  stale   : Bool
  resent  : Bool
  /-- inputs asked for again, and the partials, by asking chip and level, that go out again once they are there (R329) -/
  again   : List PKey := []
  redo    : List (Nat × Nat) := []
deriving DecidableEq, Repr

/-- A reduce group's open generation (R311, R314). -/
structure Group where
  gen     : Nat
  policy  : BitVec 8
  fmt     : Fmt
  members : List Nat
  rootSlot : Nat
  margin  : Nat
  stageTicks : Nat
  redBase : Nat
  redLen  : Nat
  resBase : Nat
  resBytes : Nat
  tableAt : Nat
  buckets : List Bucket
  stale   : Nat
  closing : Bool
deriving DecidableEq, Repr

/-- A segment of an open group, as the reduction works on it. -/
structure RX where
  no     : Nat
  g      : Group
  bucket : Nat
  bk     : Bucket
  seg    : Nat
  sg     : Seg
deriving DecidableEq, Repr

/-- The reduction machinery: the groups by number and the rounds of each. -/
structure Reduction where
  groups : Vector (Option Group) 256
  insts  : List (Fin 256 × RInst)
  /-- failures of the Assayer's check: source chip and core, index, packet (65,536 for a whole partial) (R329) -/
  fails  : List (Nat × Nat × Nat × Nat)
deriving DecidableEq, Repr

/-- No group open. -/
def reduction0 : Reduction := ⟨Vector.replicate 256 none, [], []⟩

end Sys2Proof.Machine
end

