-- ==== Sys2Proof/Machine/PowerTypes.lean ====
section
/-! DEFINITION. The state of power, clocks and thermal control (14_power_clocks.md), of the start and the resets (15), of HBM
repair (07, 13), of security (16), of the set-up registers and of the sideband ports (18, 19). Data only. -/
namespace Sys2Proof

/-- The rails of Table 14.1. -/
inductive Rail where
  | column (c : Fin 16)
  /-- a rail beside the column rails, numbered as RAIL_OTHER numbers them: intermediate, mesh, SerDes core, SerDes I/O, HBM VPP,
  HBM VDD, HBM VDDQ (Table 18.5) -/
  | other (k : Fin 7)
deriving DecidableEq, Repr

/-- A sensor of Table 14.6. -/
inductive Sensor where
  | site (s : SiteId) | stack (k : Fin 8) | reg (k : Fin 4) | pu
deriving DecidableEq, Repr

namespace Machine

/-- Device states (Table 15.1); `none` of an Option stands for the time before configuration space is ready. -/
inductive DevState where
  | safe | memory | compute | ready | quiesced | degraded | halted
deriving DecidableEq, Repr

/-- The code of a state (Table 15.1). -/
def DevState.code : DevState → Nat
  | .safe => 1 | .memory => 2 | .compute => 3 | .ready => 4 | .quiesced => 5 | .degraded => 6 | .halted => 7

/-- A column domain's clock (R394): running, stretched, or stopped; `since` is the count of a stop. -/
inductive DomClock where
  | run | stretched | stopped
deriving DecidableEq, Repr

/-- A column domain: its seven phases (set: working), the clock's droop response, whether the domain is lost (R374, R375). -/
structure Domain where
  phases  : BitVec 7
  clock   : DomClock
  stopAt  : Nat
  /-- root-clock periods, 24 to a Tally clock tick, up to which the STR measure has counted a stretch or stop of this domain (R395) -/
  slowAt  : Nat
  lost    : Bool
  /-- arrays announced by RISE notices not yet shed by a FALL (R393) -/
  notices : Nat
  /-- the tick of the latest RISE (R393) -/
  roseAt  : Nat
  /-- a stretch or stop since the last telemetry record (R468) -/
  marked  : Bool
deriving DecidableEq, Repr

/-- A domain with every phase working. -/
def domain0 : Domain := ⟨0x7F, .run, 0, 0, false, 0, 0, false⟩

/-- A sensor's latest reading, its failed self-checks in a row, and whether it is excluded (R397). -/
structure SensorSt where
  reading : Option Int
  fails   : Nat
  excluded : Bool
deriving DecidableEq, Repr

/-- A sensor not yet read. -/
def sensor0 : SensorSt := ⟨none, 0, false⟩

/-- The chip's S3 state (R388, R390); `wake` notes a wake event that came during entry. -/
inductive ChipSleep where
  | awake | entering (wake : Bool) | asleep | leaving
deriving DecidableEq, Repr

/-- The power stage, clocks and thermal control, with the pins they drive (a signal named with # is held as `true` when it is
asserted). -/
structure Power where
  pwrGood   : Bool
  /-- the 42 V input is in range (R378) -/
  inRange   : Bool
  /-- the phase test of an application of the input that is still to be run: the phases that fail it (R381) -/
  tests     : Option (List (Rail × Fin 12))
  perst     : Bool
  /-- the rail sequence of Table 14.2 runs -/
  sequencing : Bool
  /-- how many events of the sequence have come (Table 14.2) -/
  railStep  : Nat
  /-- every rail is good: the sequence has completed, and the mesh and SerDes rails have stayed on -/
  rails     : Bool
  hbmRails  : Bool
  colRails  : Bool
  pll       : Bool
  /-- a shutdown keeps the rails off (R378) -/
  shutdown  : Bool
  /-- a warm reset that came during the rail sequence (R515) -/
  warmOwed  : Bool
  faultN    : Bool
  tripN     : Bool
  /-- the present start followed a thermal trip (R401) -/
  afterTrip : Bool
  tripHold  : Bool
  /-- Tally-clock ticks since the last cold or warm reset -/
  upTicks   : Nat
  /-- the level whose divider is in force, and the level whose voltage, bias and assists are (R382, R384) -/
  level     : Fin 5
  settings  : Fin 5
  requested : Fin 5
  throttle  : Fin 5
  changing  : Option (Fin 5)
  pendingLevel : Option (Fin 5)
  domains   : Vector Domain 16
  otherPhases : Vector (BitVec 12) 7
  /-- the Power Unit holds the input at its limit (R394) -/
  limited   : Bool
  guardBand : Nat
  guardOwed : Nat
  /-- the trims applied, in mV (R383) -/
  trims     : Vector (BitVec 8) 16
  sites     : Vector SensorSt 208
  hbmStacks    : Vector SensorSt 8
  regs      : Vector SensorSt 4
  pu        : SensorSt
  /-- evaluations in a row that found every reading at or below its release threshold (R398) -/
  releases  : Nat
  /-- throttled since the last telemetry record (Table 17.6) -/
  throttledSince : Bool
  timers    : Nat × Nat × Nat
  pendingTimers : Option (Nat × Nat × Nat)
  chip      : ChipSleep
  /-- Tally count since which the chip has been eligible for S3, if it is (R388) -/
  eligible  : Option Nat
  linkL2    : Bool
  wakeN     : Bool
  clkreq    : Bool
deriving DecidableEq, Repr

/-- The settings of a performance level: the nominal core voltage, the body bias, the SRAM read and write assists, in mV (Table 14.3). -/
structure LevelSettings where
  volts : Nat
  bias  : Int
  read  : Nat
  write : Nat
deriving DecidableEq, Repr

/-- Table 14.3. -/
def levelSettings (l : Fin 5) : LevelSettings :=
  if l = 0 then ⟨820, 0, 40, 0⟩ else if l = 1 then ⟨750, 0, 20, 0⟩ else if l = 2 then ⟨700, 50, 0, 0⟩
  else if l = 3 then ⟨640, 100, 0, 60⟩ else ⟨580, 150, 0, 100⟩

/-- Phases fitted and needed of the rails beside the column rails, in the order of RAIL_OTHER (Table 14.1). -/
def otherFitted : Vector Nat 7 := #v[12, 8, 4, 4, 4, 4, 4]
def otherNeeded : Vector Nat 7 := #v[10, 6, 3, 3, 3, 3, 3]

/-- Power right after cold reset: AUX in range, everything else off. -/
def power0 : Power :=
  { pwrGood := false, inRange := false, tests := none, perst := true, sequencing := false, railStep := 0, rails := false, hbmRails := false, colRails := false, pll := false,
    shutdown := false, warmOwed := false, faultN := false, tripN := false, afterTrip := false, tripHold := false, upTicks := 0,
    level := 0, settings := 4, requested := 0, throttle := 0, changing := none, pendingLevel := none, domains := Vector.replicate 16 domain0,
    otherPhases := otherFitted.map fun n => BitVec.ofNat 12 (2 ^ n - 1), limited := false, guardBand := 0, guardOwed := 0, trims := Vector.replicate 16 0,
    sites := Vector.replicate 208 sensor0, hbmStacks := Vector.replicate 8 sensor0, regs := Vector.replicate 4 sensor0, pu := sensor0,
    releases := 0, throttledSince := false, timers := (26250, 5250000, 2625000000), pendingTimers := none, chip := .awake,
    eligible := none, linkL2 := false, wakeN := false, clkreq := false }

/-- The firmware image in force (R405, R406, R438): its bytes, its header digest and its security version. -/
structure Firmware where
  bytes   : List Byte
  digest  : List Byte
  version : Nat
deriving DecidableEq, Repr

/-- What the start has reached (R403 to R410). -/
structure Life where
  state    : Option DevState
  /-- the state that REINSTATE leaves DEGRADED for (R368) -/
  before   : DevState
  quiescePending : Bool
  slotId   : Fin 8
  /-- bytes staged in the benches of sites 0 to 63, under verification (R405) -/
  staged   : Option Nat
  image    : Option Firmware
  failCode : Nat
  /-- the stage being reached and the step in progress toward it (R410, Table 18.4) -/
  stage    : Nat
  step     : Nat
  wipeLeft : Nat
  locks    : BitVec 6
  masks    : Vector (BitVec 13) 16
  slide    : Vector (Fin 16) 16
  /-- the slide entries before the latest fence in service (R304, R363) -/
  slideWas : Vector (Fin 16) 16
  bistFail : List SiteId
deriving DecidableEq, Repr

/-- HBM sector bytes wiped by R413. -/
def hbmTotal : Nat := 206158430208

/-- The device before configuration space is ready. -/
def life0 : Life :=
  { state := none, before := .safe, quiescePending := false, slotId := 0, staged := none, image := none,
    failCode := 0, stage := 0, step := 0, wipeLeft := hbmTotal, locks := 0, masks := Vector.replicate 16 0,
    slide := Vector.replicate 16 15, slideWas := Vector.replicate 16 15, bistFail := [] }

/-- What the device area of HBM holds (Table 7.3, R407): the firmware image and the master copies of the route tables, slide
entries, region table and buffer table. -/
structure DevArea where
  image   : List Byte
  routes  : Vector Routes 2
  slide   : Vector (Fin 16) 16
  regions : Vector (Option Region) 64
  bufs    : Vector BufEntry 256
deriving DecidableEq, Repr

/-- The tables after a reset. -/
def devArea0 : DevArea :=
  { image := [], routes := Vector.replicate 2 .none, slide := Vector.replicate 16 15, regions := Vector.replicate 64 none,
    bufs := Vector.replicate 256 bufEntry0 }

/-- The two reads of a sector that fails (R168, R184): its data and its stored code. -/
structure SectorRead where
  data : List Byte
  code : Nat
deriving DecidableEq, Repr

/-- A data lane that a restore found at fault (R370): its channel, the lane, the Tally count, the sector. -/
structure LaneFault where
  chan   : Nat
  lane   : Nat
  tick   : Nat
  sector : Nat
deriving DecidableEq, Repr

/-- HBM beside its bytes: failing sectors, retired pseudo-channels by slot, lane and sector histories, refresh and scrub
positions (R166 to R172, R370, R371). -/
structure HbmSt where
  mem      : Memory
  bad      : List Nat
  retired  : List Nat
  /-- the latest failed read of a sector, until the sector is restored -/
  failed   : List (Nat × SectorRead)
  lanes    : List LaneFault
  repaired : List (Nat × Nat)
  badHist  : List (Nat × Nat × Nat)
  exhausted : BitVec 8
  hot      : BitVec 8
  /-- refreshes since the start, and what they have brought the patrol scrub, in units of 10 ns times granules (R170, R172) -/
  refreshes : Vector Nat 256
  credit   : Vector Nat 256
  slotFree : Vector Bool 256
  scrubAt  : Vector Nat 256
  calDue   : BitVec 256
  /-- patrol scrub periods in force, in hours, by pseudo-channel (R172, R485) -/
  scrubHrs : Vector Nat 256
  scrubHours : Nat
  /-- complete scrub passes of each pseudo-channel since reset (Table 18.9) -/
  passes   : Vector Nat 256
  trained  : Bool
  /-- the two copies of the device area, as last written (R165, R249) -/
  dev      : Vector DevArea 2
deriving DecidableEq, Repr

/-- HBM after a wipe. -/
def hbmSt0 : HbmSt :=
  { mem := [], bad := [], retired := [], failed := [], lanes := [], repaired := [], badHist := [], exhausted := 0, hot := 0,
    refreshes := Vector.replicate 256 0, credit := Vector.replicate 256 0, slotFree := Vector.replicate 256 false, scrubAt := Vector.replicate 256 0,
    calDue := 0, scrubHrs := Vector.replicate 256 0x18, scrubHours := 0x18,
    passes := Vector.replicate 256 0, trained := false, dev := Vector.replicate 2 devArea0 }

/-- A mailbox: its registers (Table 18.11), its request and response areas, and what the Enclave holds for it (R435, R489). -/
structure Mailbox where
  busy    : Bool
  done    : Bool
  irqEn   : Bool
  irqVec  : Fin 64
  status  : Nat
  reqLen  : Nat
  respLen : Nat
  req     : List Byte
  resp    : List Byte
  /-- the request passed to the Enclave and not yet answered -/
  current : Option (List Byte)
  /-- what the Enclave will answer: a status and the response's bytes -/
  answer  : Option (Nat × List Byte)
  /-- the mailbox's nonce (R435) -/
  nonce   : Option (List Byte)
deriving DecidableEq, Repr

/-- A mailbox after reset. -/
def mailbox0 : Mailbox :=
  { busy := false, done := false, irqEn := false, irqVec := 0, status := 0, reqLen := 0, respLen := 0,
    req := [], resp := [], current := none, answer := none, nonce := none }

/-- A key set of an IDE stream (R444): whether each direction's key has been written. -/
structure IdeKeys where
  rx : Bool
  tx : Bool
deriving DecidableEq, Repr

/-- A selective IDE stream (R444): its two key sets, the one in use, and whether it is Secure. -/
structure IdeStream where
  sets   : Vector IdeKeys 2
  active : Option (Fin 2)
  secure : Bool
  /-- the SPDM session that wrote its keys -/
  session : Option Nat
deriving DecidableEq, Repr

/-- A stream without keys. -/
def ideStream0 : IdeStream := ⟨Vector.replicate 2 ⟨false, false⟩, none, false, none⟩

/-- Security (16_security.md). -/
structure Sec where
  otp       : Memory
  mail      : Vector Mailbox 2
  /-- mailboxes whose request waits or is served, in order of arrival (R435) -/
  queue     : List (Fin 2)
  /-- the self-tests have run since the last cold or warm reset (R433) -/
  enclaveUp : Bool
  /-- every test has passed (R433) -/
  tested    : Bool
  error     : Bool
  /-- error-state entries since cold reset (R443) -/
  errors    : Nat
  /-- the identity public key; the private key is derived with it (R440) -/
  idKey     : Option (List Byte)
  debugOpen : Bool
  /-- a debug unlock since the last reset, and its signer: 0 vendor, 1 owner (R448) -/
  debugBy   : Option (Fin 2)
  /-- SPDM sessions, and whether each is established (R442) -/
  sessions  : List (Nat × Bool)
  /-- the chain served as certificate slot 0, the one being loaded and its length (R441) -/
  chain     : List Byte
  chainPart : List Byte
  chainLen  : Nat
  ide       : Vector IdeStream 4
  /-- DRBG outputs buffered for ENTROPY (R447) -/
  drbg      : List Word
  policy    : BitVec 3
  /-- bytes taken from UART_RX in MANUFACTURE (R503) -/
  uartRx    : List Byte
deriving DecidableEq, Repr

/-- Security right after cold reset, with a blank OTP store. -/
def sec0 : Sec :=
  { otp := [], mail := Vector.replicate 2 mailbox0, queue := [], enclaveUp := false, tested := false, error := false, errors := 0,
    idKey := none, debugOpen := false, debugBy := none, sessions := [], chain := [], chainPart := [], chainLen := 0,
    ide := Vector.replicate 4 ideStream0, drbg := [], policy := 0, uartRx := [] }

/-- What the SPDM responder answers (R441 to R443), without the encodings and signatures of the SPDM standard. -/
inductive SpdmAns where
  | error
  | algorithms
  | digests (chain : List Byte)
  | certificate (part : List Byte)
  | challenged (nonce : List Byte)
  /-- measurement blocks: index and content (Table 16.6) -/
  | measurements (blocks : List (Nat × List Byte))
  | session (id : Nat)
  | finished (id : Nat)
  | alive (id : Nat)
  | ended (id : Nat)
deriving DecidableEq, Repr

/-- A port of the Reeve's sideband (R502): the read offset, the I3C mode and address. -/
structure Sideband where
  readOff  : Nat
  i3c      : Option (BitVec 7)
deriving DecidableEq, Repr

/-- The sideband at reset. -/
def sideband0 : Sideband := ⟨0, none⟩

end Machine
end Sys2Proof
end

