-- ==== Sys2Proof/Syntax.lean ====
section
/-! DEFINITION. The commands of the block: one constructor per row of spec/opcode_table.json, in the table's order. A command
names what happens next from outside the model's order (a thread's next issue, an arrival, a timer, a host action) and
carries what the outside supplies with it. In the rows of register accesses, `secure` says that the access arrived inside a
Secure selective IDE stream (R452); `stall` counts the core cycles an operation waited for banks (R162), `stalled` the HBM
controller cycles that accesses of the schedule waited (R50, R171). -/
namespace Sys2Proof

/-- How a 64-bit register is read: whole, or by its two 32-bit halves (R474). -/
inductive ReadHalf where
  | whole | low | high
deriving DecidableEq, Repr

/-- A load notice (R392). -/
inductive Notice where
  | rise (arrays : Nat) | fall
deriving DecidableEq, Repr

/-- What calls for a pass recompute (Table 7.8). -/
inductive PassCause where
  /-- an error in what is worked out again: registers, planes, multipliers, adders, the vector and DMA engines -/
  | logic
  /-- a place under the stored rule whose second read passes (R184) -/
  | transient (p : Machine.CorePlace)
  /-- an instruction of a line of the cue buffer: the line is fetched again -/
  | cueLine (line : Nat)
deriving DecidableEq, Repr

/-- What calls for an anchor replay (R350). -/
inductive ReplayCause where
  /-- a detection that Table 7.8 answers so, with the core whose structure it was found in, if it was a core's -/
  | detected (core : Option CoreId)
  /-- a place of a core under the stored rule whose second read fails too (R184) -/
  | stored (core : CoreId) (p : Machine.CorePlace)
  /-- the old half under a write from the router local port; `again` says that its second read failed too (R520) -/
  | port (core : CoreId) (half : Nat) (again : Bool)
  /-- an entry of the route, slide, buffer or region tables: it is loaded again from the device area -/
  | tableEntry
  /-- a core to be fenced (R346, R347) -/
  | fence (core : CoreId)
  /-- a pseudo-channel to be retired (R371) -/
  | retire (pc : Fin 256)
deriving DecidableEq, Repr

/-- Who reads the sector that fails (R184 to R186). -/
inductive SectorReader where
  | launch | scrub | hdm | descriptor
deriving DecidableEq, Repr

/-- What a scrub read of a bench row finds (R184); a stored error lies in one half of the row. -/
inductive ScrubResult where
  | good | transient (lost : Nat) | stored (upper : Bool)
deriving DecidableEq, Repr

/-- A scrub read of a bench row: what it finds, and the core cycles for which the scrub and the requesters of the bench whose rows carry
no wait of their own have waited since the last one (R162). -/
structure ScrubRead where
  result : ScrubResult
  waited : Nat
deriving DecidableEq, Repr

/-- A detection in a pass: the core cycles lost to it, and what it was. -/
structure PassDetection where
  lost  : Nat
  cause : PassCause
deriving DecidableEq, Repr

/-- Failed attempts of one join (R348), or of one addition that the Assayer's linear check found wrong (R329). -/
inductive JoinFailures where
  | residue (n : Nat) | linear (n : Nat)
deriving DecidableEq, Repr

/-- What the access of a refresh-adjacent slot costs: the HBM controller cycles that accesses of the schedule waited for it, and the trace
records it finds with bad parity (Table 7.8). -/
structure SlotCost where
  stalled : Nat
  lost    : Nat
deriving DecidableEq, Repr

/-- A packet that deliveries follow; `early` says that its members were resolved before the latest fence in service (R304). -/
structure Arrival where
  pkt   : Packet
  early : Bool
deriving DecidableEq, Repr

/-- A RESEND, with the chips whose retained inputs fail their check (R329). -/
structure Resend where
  pkt : Packet
  bad : List Nat
deriving DecidableEq, Repr

/-- What stands as PERST# deasserts: the slot straps, and whether the host enables CXL.cache as it sets configuration space up (R244). -/
structure SlotSetUp where
  slotStraps : Fin 8
  cacheOn    : Bool
deriving DecidableEq, Repr

/-- SPDM requests the responder answers (R441 to R443). `offers` says that the requester offers the ExtAsym entry of Table 16.5,
`secured` that the request comes inside a secured session. -/
inductive SpdmReq where
  | negotiate (offers : Bool)
  | digests
  | certificate (off len : Nat)
  | challenge (secured : Bool) (nonce : List Byte)
  | measurements (secured : Bool) (index : Nat)
  | keyExchange (id : Nat)
  | finish (id : Nat) (verified : Bool)
  | heartbeat (id : Nat)
  | keyUpdate (id : Nat)
  | endSession (id : Nat)
  | unsupported
deriving DecidableEq, Repr

/-- What the host's side of a completion ring brings: a read of its head line (none when it failed), or the failure of a record's
write (R242, R243). -/
inductive HeadAnswer where
  | line (head : Option (BitVec 32))
  | writeError
deriving DecidableEq, Repr

/-- The commands. -/
inductive Instr where
  /-- NOP (R251): Host NOP descriptor completes with OK and has no other effect. -/
  | nop (sq : RingId)
  /-- LAUNCH (R29): Dispatcher checks a LAUNCH descriptor, its image header, section table and window table, and accepts or completes it. -/
  | launch (sq : RingId)
  /-- BACKLOG_ITEM (R228): A backlog-ring descriptor is checked and bound to a window of the active BACKLOG launch, or refused. -/
  | backlogItem (sq : RingId)
  /-- COPY (R257): COPY descriptor moves data between host memory and HBM or within HBM. -/
  | copy (sq : RingId)
  /-- FILL (R254): FILL descriptor writes an 8-byte pattern repeatedly over an HBM range. -/
  | fill (sq : RingId)
  /-- WIPE (R416): WIPE without STATUS writes zero data with valid codes over a range or the whole general area. -/
  | wipe (sq : RingId)
  /-- WIPE_STATUS (R257): WIPE with STATUS reports the HBM bytes still to be wiped and writes nothing. -/
  | wipeStatus (sq : RingId)
  /-- FW_LOAD (R405): FW_LOAD wipes the staging benches, reads the image from host memory and passes it to the Enclave for verification. -/
  | fwLoad (sq : RingId) (image : Option (List Byte))
  /-- FW_VERIFY_DONE (R439): Enclave verification of a staged firmware image finishes and FW_LOAD completes with OK or a refusal. -/
  | fwVerifyDone (vendorSigOk ownerSigOk : Bool)
  /-- ROUTE_LOAD (R294): ROUTE_LOAD checks and loads a route table, or dimension-order mode, into one epoch. -/
  | routeLoad (sq : RingId) (table : Option (List Nat))
  /-- EPOCH_SWITCH (R298): EPOCH_SWITCH is accepted and schedules a change of transmitted epoch at Tally count AT. -/
  | epochSwitch (sq : RingId)
  /-- EPOCH_SWITCH_EFFECT (R298): At the tick of AT new source transmissions carry the new epoch and EPOCH_SWITCH completes with RESULT AT. -/
  | epochSwitchEffect
  /-- FENCE (R366): FENCE descriptor sets a site's fence bit, refusing or forcing when the column would be exhausted. -/
  | fence (sq : RingId)
  /-- REINSTATE (R366): REINSTATE starts core BIST on a fenced site and clears its fence bit if BIST passes. -/
  | reinstate (sq : RingId)
  /-- SET_LEVEL (R385): SET_LEVEL requests a performance level and sets idle timers, acting at once or at the active launch's completion. -/
  | setLevel (sq : RingId)
  /-- GROUP_OPEN (R313): GROUP_OPEN checks and copies a reduce group's bitmap, bucket table and segment lists and zeroes its round counters. -/
  | groupOpen (sq : RingId)
  /-- GROUP_CLOSE (R341): GROUP_CLOSE closes a generation on acceptance and completes when its last begun round has written its spans. -/
  | groupClose (sq : RingId)
  /-- SNAPSHOT (R493): SNAPSHOT writes the report of state, telemetry and the BAR0 image to host memory. -/
  | snapshot (sq : RingId) (watts centivolts cycles : Nat) (writeOk : Bool)
  /-- QUERY (R491): QUERY writes one 4,096-byte information page to host memory. -/
  | query (sq : RingId) (writeOk : Bool)
  /-- TALLY_ALIGN (R305): TALLY_ALIGN sets the chip's Tally role and begins alignment, completing once the chip is aligned. -/
  | tallyAlign (sq : RingId)
  /-- TALLY_ALIGN_TIMEOUT (R308): TALLY_ALIGN not aligned within 2.5 s completes with INTERNAL. -/
  | tallyAlignTimeout
  /-- TRACE_CTL_ENABLE (R462): TRACE_CTL with ENABLE set names a sink and masks and starts tracing. -/
  | traceCtlEnable (sq : RingId)
  /-- TRACE_CTL_DISABLE (R465): TRACE_CTL with ENABLE clear stops recording and lets queued records drain. -/
  | traceCtlDisable (sq : RingId)
  /-- TRACE_DRAIN_DONE (R465): Trace queues and SRAM become empty after a disable, and the disabling descriptor completes. -/
  | traceDrainDone
  /-- REGION_DECLARE (R181): REGION_DECLARE declares or replaces a durable region with a MIRROR, PEER or HOST source, copying the primary into a mirror. -/
  | regionDeclare (sq : RingId)
  /-- REGION_REMOVE (R181): REGION_DECLARE with SOURCE 0 removes the region held in a slot. -/
  | regionRemove (sq : RingId)
  /-- QUIESCE (R257): QUIESCE entry refuses further LAUNCHes and enters QUIESCED once accepted launches finish. -/
  | quiesce (sq : RingId)
  /-- QUIESCE_LEAVE (R257): QUIESCE with LEAVE returns the device to DEGRADED, READY or Compute and applies deferred changes. -/
  | quiesceLeave (sq : RingId)
  /-- LAUNCH_START (R248): An accepted LAUNCH starts once earlier launches and memory descriptors have completed, posting work items and closing launch counters. -/
  | launchStart
  /-- LAUNCH_FIRST_ISSUE (R44): Participating threads issue their first instruction in the tick of S, or at once when late. -/
  | launchFirstIssue
  /-- LAUNCH_COMPLETE (R218): When every thread has ended and every effect is delivered, the launch completes and its records are written. -/
  | launchComplete (writeOk : Bool)
  /-- DOORBELL_STORE (R242): A host store invalidates the device's copy of a doorbell line; the device answers the snoop and issues RdShared. -/
  | doorbellStore (sq : RingId)
  /-- DOORBELL_LINE_FILL (R242): A RdShared of a doorbell line returns and the device takes the new TAIL and begins reading descriptors. -/
  | doorbellLineFill (sq : RingId) (tail : Option (BitVec 32))
  /-- DESCRIPTOR_FETCH_DONE (R246): A descriptor read from a submission ring returns and the dispatcher checks and accepts descriptors in ring order. -/
  | descriptorFetchDone (sq : RingId) (descs : Option (List Desc))
  /-- RING_POLL (R244): At each poll period the device reads a polled ring's line by CXL.io. -/
  | ringPoll (isCq : Bool) (n : RingId) (line : Option (BitVec 32))
  /-- HEAD_LINE_STORE (R242): A host store to a completion ring's head line is snooped and the new HEAD frees space for waiting records. -/
  | headLineStore (cq : RingId) (a : HeadAnswer)
  /-- MSIX_HOLDOFF_EXPIRE (R267): A vector's holdoff ends and one message covers records that arrived during it. -/
  | msixHoldoffExpire (vec : Fin 64)
  /-- SQ_ENABLE_SET (R242): Setting SQ_CFG.ENABLE resets HEAD, checks its CQ and acquires or polls the doorbell line. -/
  | sqEnableSet (sq : RingId) (v : Word) (secure : Bool)
  /-- SQ_ENABLE_CLEAR (R241): Clearing SQ_CFG.ENABLE stops fetching and releases the doorbell line. -/
  | sqEnableClear (sq : RingId) (secure : Bool)
  /-- CQ_ENABLE_SET (R242): Setting CQ_CFG.ENABLE resets TAIL and DROPPED and acquires the head line. -/
  | cqEnableSet (cq : RingId) (v : Word) (line : Option (BitVec 32)) (secure : Bool)
  /-- CQ_ENABLE_CLEAR (R241): Clearing CQ_CFG.ENABLE stops the completion ring from accepting records. -/
  | cqEnableClear (cq : RingId) (secure : Bool)
  /-- HDM_MAP_ENABLE (R269): A write setting HDM_MAP.ENABLE opens the HDM window only when it lies in one MIRROR region. -/
  | hdmMapEnable (v : Word) (secure : Bool)
  /-- HDM_READ (R270): A host CXL.mem read through the HDM window is served with sector checks and sets HDM on an active launch. -/
  | hdmRead (off : Nat) (secure : Bool)
  /-- HDM_WRITE (R268): A host CXL.mem write through the HDM window reaches HBM and sets HDM on an active launch. -/
  | hdmWrite (off : Nat) (data : List Byte) (secure : Bool)
  /-- FAB_ID_WRITE (R483): A write to FAB_ID sets coordinates and torus size, takes links down on change, or is discarded during a launch. -/
  | fabIdWrite (v : Word) (secure : Bool)
  /-- LOCKS_WRITE (R429): A write to LOCKS sets lock bits and applies their effects at the moment of setting. -/
  | locksWrite (v : Word) (secure : Bool)
  /-- SCRUB_CTL_WRITE (R485): A write to SCRUB_CTL sets a new patrol scrub period that takes effect at each pseudo-channel's next scrub read. -/
  | scrubCtlWrite (v : Word) (secure : Bool)
  /-- TEL_CTL_WRITE (R470): A write to TEL_CTL sets the telemetry period, taking effect at its first multiple. -/
  | telCtlWrite (v : Word) (secure : Bool)
  /-- CTR_DATA_READ (R459): A read of CTR_DATA latches the selected counter and its tag. -/
  | ctrDataRead (half : ReadHalf) (secure : Bool)
  /-- TALLY_NOW_READ (R474): A read of TALLY_NOW or its low half latches the whole Tally. -/
  | tallyNowRead (half : ReadHalf) (secure : Bool)
  /-- FAULT_INFO_CLEAR (R487): Writing 1 to FAULT_INFO.VALID clears a core's latched fault so it can latch another. -/
  | faultInfoClear (core : CoreId) (secure : Bool)
  /-- MB_SUBMIT (R489): Writing SUBMIT passes the mailbox request to the Enclave and sets BUSY. -/
  | mbSubmit (mb : Fin 2) (v : Word) (secure : Bool)
  /-- MB_DONE_CLEAR (R489): Writing 1 to MB_STATUS.DONE clears it unless the Enclave sets it in the same cycle. -/
  | mbDoneClear (mb : Fin 2) (setNow : Bool) (secure : Bool)
  /-- MB_RESPONSE (R489): The Enclave completes a request, writes MB_RESP and sets RESP_BYTES, STATUS and DONE. -/
  | mbResponse (mb : Fin 2)
  /-- REGISTER_WRITE (R473): A write to a register with no behaviour of its own stores its writable fields under the access codes. -/
  | registerWrite (off size : Nat) (v : Word) (secure : Bool)
  /-- SMB_WRITE (R502): Sideband command 0x10 performs one 64-bit register write. -/
  | smbWrite (port : Fin 2) (bytes : List Byte) (pecOk : Bool)
  /-- SMB_ADDRESS (R502): Sideband command 0x11 sets the port's read offset. -/
  | smbAddress (port : Fin 2) (bytes : List Byte) (pecOk : Bool)
  /-- SMB_READ (R502): Sideband command 0x12 returns one 64-bit read and advances the offset by 8. -/
  | smbRead (port : Fin 2)
  /-- I3C_ADDRESS_ASSIGN (R502): An I3C dynamic address assignment turns a sideband port into an I3C SDR target. -/
  | i3cAddressAssign (port : Fin 2) (addr : BitVec 7)
  /-- UART_RX_INPUT (R503): Input on UART_RX is taken for vendor use in MANUFACTURE and ignored otherwise. -/
  | uartRxInput (b : Byte)
  /-- GET_NONCE (R435): Enclave request returning a fresh nonce that replaces the mailbox's earlier one. -/
  | getNonce (mb : Fin 2) (random : List Byte)
  /-- NONCE_EXPIRE (R435): An unused nonce expires 60 s after issue. -/
  | nonceExpire (mb : Fin 2)
  /-- GET_IDENTITY (R440): Enclave request returning the identity public key and its hash. -/
  | getIdentity (mb : Fin 2)
  /-- CERT_LOAD (R441): Enclave request supplying part of a certificate chain, accepted when the leaf matches the identity key. -/
  | certLoad (mb : Fin 2) (leafMatches : Bool)
  /-- OTP_PROGRAM (R421): Authorised request programming a thermometer or the next slot of an OTP field. -/
  | otpProgram (mb : Fin 2) (sigOk readBackOk : Bool)
  /-- LIFECYCLE_MOVE (R426): Authorised request moving the life-cycle state forward, zeroising keys, halting and starting the wipe. -/
  | lifecycleMove (mb : Fin 2) (sigOk readBackOk : Bool)
  /-- DEBUG_CHALLENGE (R448): Enclave request returning a nonce for debug unlock. -/
  | debugChallenge (mb : Fin 2) (random : List Byte)
  /-- DEBUG_UNLOCK (R448): Authorised request ending sessions, zeroising IDE keys, clearing approved mode and opening the debug chains. -/
  | debugUnlock (mb : Fin 2) (sigOk : Bool)
  /-- ZEROISE (R450): Enclave request destroying every key-store item and entering the error-state behaviour. -/
  | zeroise (mb : Fin 2)
  /-- SELF_TEST (R433): Enclave request rerunning the known-answer and entropy start-up tests. -/
  | selfTest (mb : Fin 2) (pass : Bool)
  /-- ENCLAVE_SELF_TESTS (R433): After a cold or warm reset the Enclave runs its pre-operational self-tests and derives the identity key. -/
  | enclaveSelfTests (pass : Bool) (publicKey : List Byte)
  /-- ENCLAVE_ERROR_STATE (R434): A failed self-test or health test zeroises keys, makes IDE streams Insecure and ends sessions. -/
  | enclaveErrorState
  /-- ENCLAVE_ENV_FAULT (R432): Enclave temperature or rail out of range for 10 µs zeroises and enters the error state. -/
  | enclaveEnvFault
  /-- SPDM_REQUEST (R442): An SPDM request over DOE is answered by the Enclave responder. -/
  | spdmRequest (req : SpdmReq)
  /-- IDE_KM_KEY_PROG (R444): IDE_KM KEY_PROG in a secured session writes a key and IV into an IDE engine. -/
  | ideKmKeyProg (session : Nat) (stream : Fin 4) (set : Fin 2) (rx : Bool)
  /-- IDE_KM_K_SET_GO (R444): IDE_KM K_SET_GO switches a stream to a key set. -/
  | ideKmKSetGo (session : Nat) (stream : Fin 4) (set : Fin 2)
  /-- IDE_INTEGRITY_FAIL (R444): An integrity failure moves an IDE stream to Insecure and is reported through AER. -/
  | ideIntegrityFail (stream : Fin 4)
  /-- NOP_INSTR (R194): Sequencer NOP takes its issue cycle. -/
  | nopInstr (th : ThRef)
  /-- END (R218): END acts as a COMMIT and ends the thread. -/
  | endThread (th : ThRef)
  /-- COMMIT (R213): COMMIT waits for the pass's operations, releases held effects, saves the checkpoint and clears pass state. -/
  | commit (th : ThRef)
  /-- ANCHOR (R216): ANCHOR commits and holds the thread until every thread reaches the same anchor number. -/
  | anchor (th : ThRef)
  /-- ANCHOR_SPILL (R217): Once all threads are held the anchor state is written, the log cleared and threads released together. -/
  | anchorSpill
  /-- WAIT (R200): WAIT holds issue until earlier operations of masked units leave the scoreboard. -/
  | wait (th : ThRef)
  /-- BR (R195): BR branches to own index plus IMM. -/
  | br (th : ThRef)
  /-- LOOP (R195): LOOP decrements a loop counter and branches while it is non-zero. -/
  | loop (th : ThRef)
  /-- LCSET (R195): LCSET loads a loop counter. -/
  | lcset (th : ThRef)
  /-- LCRD (R195): LCRD reads a loop counter into a register. -/
  | lcrd (th : ThRef)
  /-- ADD (R195): Scalar add. -/
  | add (th : ThRef)
  /-- SUB (R195): Scalar subtract. -/
  | sub (th : ThRef)
  /-- MUL (R195): Scalar multiply keeping the low 64 bits. -/
  | mul (th : ThRef)
  /-- AND (R195): Scalar bitwise AND. -/
  | and (th : ThRef)
  /-- OR (R195): Scalar bitwise OR. -/
  | or (th : ThRef)
  /-- XOR (R195): Scalar bitwise XOR. -/
  | xor (th : ThRef)
  /-- SHL (R195): Scalar shift left. -/
  | shl (th : ThRef)
  /-- SHR (R195): Scalar logical shift right. -/
  | shr (th : ThRef)
  /-- SAR (R195): Scalar arithmetic shift right. -/
  | sar (th : ThRef)
  /-- MIN (R195): Scalar signed minimum. -/
  | min (th : ThRef)
  /-- MAX (R195): Scalar signed maximum. -/
  | max (th : ThRef)
  /-- MINU (R195): Scalar unsigned minimum. -/
  | minu (th : ThRef)
  /-- MAXU (R195): Scalar unsigned maximum. -/
  | maxu (th : ThRef)
  /-- MOVHI (R195): MOVHI places IMM in the high half of a register. -/
  | movhi (th : ThRef)
  /-- CMP (R195): CMP compares registers and writes a predicate. -/
  | cmp (th : ThRef)
  /-- PLOG (R195): PLOG combines two predicates. -/
  | plog (th : ThRef)
  /-- LD (R197): LD loads a bench value into a register through the vector engine. -/
  | ld (th : ThRef)
  /-- ST (R197): ST stores a register's low bits to the bench. -/
  | st (th : ThRef)
  /-- TALLYRD (R34): Marked TALLYRD reads the Tally, logging or replaying the value. -/
  | tallyrd (th : ThRef)
  /-- ENTROPY (R447): Marked ENTROPY reads 64 bits from the DRBG buffer, waiting when empty. -/
  | entropy (th : ThRef) (waited : Nat)
  /-- CTRRD (R460): Marked CTRRD reads the live copy of a counter. -/
  | ctrrd (th : ThRef)
  /-- FLAGRD (R198): FLAGRD reads the thread's vector flag word. -/
  | flagrd (th : ThRef)
  /-- FLAGCLR (R199): FLAGCLR clears selected flag-word bits after earlier vector operations leave. -/
  | flagclr (th : ThRef)
  /-- WLD (R109): WLD loads a weight slice into an array's next plane. -/
  | wld (th : ThRef)
  /-- MMA (R115): MMA streams rows past the stationary slice and writes or adds results into tiles. -/
  | mma (th : ThRef)
  /-- TRD (R123): TRD reads tile rows out to the bench with conversion. -/
  | trd (th : ThRef)
  /-- TJN (R124): TJN joins one tile into another on the same array. -/
  | tjn (th : ThRef)
  /-- TSR (R100): TSR reads a tile status word into a register. -/
  | tsr (th : ThRef)
  /-- VOP_ADD (R140): Vector FP32 addition. -/
  | vopAdd (th : ThRef)
  /-- VOP_SUB (R140): Vector FP32 subtraction. -/
  | vopSub (th : ThRef)
  /-- VOP_MUL (R140): Vector FP32 multiplication. -/
  | vopMul (th : ThRef)
  /-- VOP_FMA (R140): Vector fused multiply-add. -/
  | vopFma (th : ThRef)
  /-- VOP_MIN (R141): Vector minimum. -/
  | vopMin (th : ThRef)
  /-- VOP_MAX (R141): Vector maximum. -/
  | vopMax (th : ThRef)
  /-- VOP_ABS (R140): Vector absolute value. -/
  | vopAbs (th : ThRef)
  /-- VOP_NEG (R140): Vector negation. -/
  | vopNeg (th : ThRef)
  /-- VOP_CMPEQ (R141): Vector equal comparison. -/
  | vopCmpeq (th : ThRef)
  /-- VOP_CMPNE (R141): Vector not-equal comparison. -/
  | vopCmpne (th : ThRef)
  /-- VOP_CMPLT (R141): Vector less-than comparison. -/
  | vopCmplt (th : ThRef)
  /-- VOP_CMPLE (R141): Vector less-or-equal comparison. -/
  | vopCmple (th : ThRef)
  /-- VOP_SELECT (R141): Vector select by mask. -/
  | vopSelect (th : ThRef)
  /-- VOP_IADD (R141): Vector saturating INT32 add. -/
  | vopIadd (th : ThRef)
  /-- VOP_ISUB (R141): Vector saturating INT32 subtract. -/
  | vopIsub (th : ThRef)
  /-- VOP_IMIN (R141): Vector INT32 minimum. -/
  | vopImin (th : ThRef)
  /-- VOP_IMAX (R141): Vector INT32 maximum. -/
  | vopImax (th : ThRef)
  /-- VOP_CONVERT (R155): Vector format conversion. -/
  | vopConvert (th : ThRef)
  /-- VOP_TWOSUM (R143): Vector error-free sum. -/
  | vopTwosum (th : ThRef)
  /-- VOP_TWOPROD (R143): Vector error-free product. -/
  | vopTwoprod (th : ThRef)
  /-- VOP_PADD (R143): Vector pair addition. -/
  | vopPadd (th : ThRef)
  /-- VOP_PADDF (R143): Vector pair plus FP32 addition. -/
  | vopPaddf (th : ThRef)
  /-- VOP_PSCALE (R143): Vector pair scaling. -/
  | vopPscale (th : ThRef)
  /-- VOP_RCP (R144): Correctly rounded reciprocal. -/
  | vopRcp (th : ThRef)
  /-- VOP_SQRT (R144): Correctly rounded square root. -/
  | vopSqrt (th : ThRef)
  /-- VOP_RSQRT (R144): Correctly rounded reciprocal square root. -/
  | vopRsqrt (th : ThRef)
  /-- VOP_EXP2 (R144): Correctly rounded base-2 exponential. -/
  | vopExp2 (th : ThRef)
  /-- VOP_EXP (R144): Correctly rounded exponential. -/
  | vopExp (th : ThRef)
  /-- VOP_LOG2 (R144): Correctly rounded base-2 logarithm. -/
  | vopLog2 (th : ThRef)
  /-- VOP_LOG (R144): Correctly rounded natural logarithm. -/
  | vopLog (th : ThRef)
  /-- VOP_TANH (R144): Correctly rounded hyperbolic tangent. -/
  | vopTanh (th : ThRef)
  /-- VOP_SIGMOID (R144): Correctly rounded sigmoid. -/
  | vopSigmoid (th : ThRef)
  /-- VOP_GELU (R145): GELU built from correctly rounded steps. -/
  | vopGelu (th : ThRef)
  /-- VOP_SILU (R145): SILU built from correctly rounded steps. -/
  | vopSilu (th : ThRef)
  /-- VOP_SIN (R144): Correctly rounded sine. -/
  | vopSin (th : ThRef)
  /-- VOP_COS (R144): Correctly rounded cosine. -/
  | vopCos (th : ThRef)
  /-- VOP_VSUM (R147): Vector sum by the fixed split tree. -/
  | vopVsum (th : ThRef)
  /-- VOP_VMAX (R147): Vector maximum reduction. -/
  | vopVmax (th : ThRef)
  /-- VOP_VMIN (R147): Vector minimum reduction. -/
  | vopVmin (th : ThRef)
  /-- VOP_VARGMAX (R147): Index of the largest element. -/
  | vopVargmax (th : ThRef)
  /-- TOPK (R148): TOPK selects the k highest-ranked elements of a chunk. -/
  | topk (th : ThRef)
  /-- SMAX (R151): SOFTMAX_STEP updates a sequence slot from a score block and writes probabilities and factors. -/
  | smax (th : ThRef)
  /-- TSCALE (R152): TSCALE multiplies tile rows by per-row factors. -/
  | tscale (th : ThRef)
  /-- SLOTINIT (R150): SLOTINIT resets a sequence slot to its initial state. -/
  | slotinit (th : ThRef)
  /-- SLOTFINAL (R153): SLOT_FINAL writes reciprocals and log-sum-exp and stores the reciprocals as factors. -/
  | slotfinal (th : ThRef)
  /-- TACC (R156): TACC joins a bench block of partial sums into a tile. -/
  | tacc (th : ThRef)
  /-- DMA_COPY (R174): DMA descriptor COPY moves rows between bench and HBM. -/
  | dmaCopy (th : ThRef)
  /-- DMA_CONVERT (R174): DMA descriptor CONVERT converts elements between formats. -/
  | dmaConvert (th : ThRef)
  /-- DMA_TRANSPOSE (R174): DMA descriptor TRANSPOSE exchanges rows and columns at half rate. -/
  | dmaTranspose (th : ThRef)
  /-- DMA_GATHER (R174): DMA descriptor GATHER reads from a chip's HBM into a use-count buffer by READ_REQs. -/
  | dmaGather (th : ThRef)
  /-- DMA_ATOMIC_ADD (R176): DMA descriptor ATOMIC_ADD is held and adds bench elements into HBM at the pass's COMMIT. -/
  | dmaAtomicAdd (th : ThRef)
  /-- DMA_FILL (R521): DMA descriptor FILL writes an 8-byte pattern over rows. -/
  | dmaFill (th : ThRef)
  /-- DMA_TRANSFER_DONE (R177): A DMA transfer makes its last write or acknowledgement and leaves the scoreboard. -/
  | dmaTransferDone (th : ThRef) (entry stall : Nat)
  /-- BUFDEF (R210): BUFDEF defines a buffer entry, waiting until it is FREE. -/
  | bufdef (th : ThRef)
  /-- GATHER_COMPLETE (R178): A GATHER's responses are all written and acknowledged, decrementing the buffer's PARTS. -/
  | gatherComplete (th : ThRef) (entry : Nat)
  /-- FADD (R211): FADD is held and adds to an HBM word at the next COMMIT, returning the old value. -/
  | fadd (th : ThRef)
  /-- SEND (R208): SEND is held and at release sends a payload by unicast or multicast with the next send index. -/
  | send (th : ThRef)
  /-- POST (R208): POST is held and at release increments an event at the destination. -/
  | post (th : ThRef)
  /-- AWAIT (R207): AWAIT holds issue until an event counter reaches its count. -/
  | await (th : ThRef)
  /-- AWAIT_RELEASE (R207): The awaited counter reaches the count, the thread is released and the count subtracted. -/
  | awaitRelease (th : ThRef) (waited : Nat)
  /-- AWAITANY (R207): Marked AWAITANY holds issue until any masked counter is non-zero. -/
  | awaitany (th : ThRef)
  /-- AWAITANY_RELEASE (R207): A masked counter becomes non-zero; the lowest such event is written and decremented. -/
  | awaitanyRelease (th : ThRef) (waited : Nat)
  /-- GRDY (R209): GRDY is held and at release posts gradient-ready for a bucket contribution. -/
  | grdy (th : ThRef)
  /-- WINDOW_WAIT (R224): A thread reaching a window's OPEN_INDEX waits for the window to be bound. -/
  | windowWait (th : ThRef)
  /-- WINDOW_ENTER (R225): A bound window is entered, saving the main checkpoint and issuing the item's stream. -/
  | windowEnter (th : ThRef) (waited : Nat)
  /-- LOAD_NOTICE (R392): The cue scan sends a RISE or FALL load notice to the column's regulator controller. -/
  | loadNotice (th : ThRef) (kind : Notice)
  /-- CUE_LINE_FETCH (R190): A cue line arrives in the buffer and a thread waiting on a miss resumes. -/
  | cueLineFetch (th : ThRef) (line missCycles : Nat)
  /-- PASS_RECOMPUTE (R214): A detected error aborts the pass, restores the checkpoint and state and repeats the pass. -/
  | passRecompute (th : ThRef) (found : PassDetection)
  /-- ANCHOR_REPLAY (R350): The chip stops, restores the last anchor and re-enters replay mode. -/
  | anchorReplay (why : ReplayCause)
  /-- REPLAY_MODE_END (R354): Every thread passes its stop position and the journal is drained, ending replay mode. -/
  | replayModeEnd
  /-- REDUCTION_JOIN_REPEAT (R348): A detection in reduction work repeats the join from the same inputs. -/
  | reductionJoinRepeat (core : CoreId) (failures : JoinFailures)
  /-- HBM_SECTOR_ERROR (R184): An HBM sector fails its code; a second read classes it transient or stored and the response follows. -/
  | hbmSectorError (addr : Nat) (first second : Machine.SectorRead) (reader : SectorReader) (lost : Nat)
  /-- PEER_RESTORE_REPLY (R185): A peer's reply to a sector restore request delivers good data or halts the launch. -/
  | peerRestoreReply (addr : Nat) (result : Fin 3) (data : List Byte)
  /-- PEER_RESTORE_TIMEOUT (R185): No peer restore reply within 1,048,576 ticks halts the launch with CHECKSUM_FAIL. -/
  | peerRestoreTimeout (addr : Nat)
  /-- LANE_REPAIR (R370): A failing HBM data lane is steered onto a redundant lane in a refresh-adjacent slot. -/
  | laneRepair (chan lane stalled : Nat)
  /-- PC_RETIRE (R371): A failing pseudo-channel takes a retirement slot and its granules are moved. -/
  | pcRetire (pc : Fin 256)
  /-- REFRESH (R170): An HBM controller refreshes a pseudo-channel every tREFI. -/
  | refresh (pc : Fin 256) (stalled corrected : Nat)
  /-- REFRESH_SLOT_ACCESS (R171): After a refresh the slot issues one calibration step, device-area write, scrub read or trace-sink write. -/
  | refreshSlotAccess (pc : Fin 256) (cost : SlotCost)
  /-- BENCH_SCRUB_READ (R164): Bench scrub reads and checks one row in an idle bank cycle. -/
  | benchScrubRead (site : SiteId) (bank : Fin 24) (found : ScrubRead)
  /-- PHASE_FAIL (R374): The Reeve disables a failed regulator phase and updates the level cap, possibly losing the column domain. -/
  | phaseFail (rail : Rail) (phase : Fin 12)
  /-- LINK_TRAINING (R273): A link starts training once Compute is reached and FAB_ID is valid. -/
  | linkTraining (l : LinkId)
  /-- LINK_TRAINED (R277): A link finishes training and exchanges chip IDs, becoming UP or MISWIRED. -/
  | linkTrained (l : LinkId) (mode : Option LinkMode) (failed : BitVec 4) (partner : Option Nat)
  /-- LINK_LANE_LOSS (R274): A link losing a lane retrains in two-lane mode or goes DOWN. -/
  | linkLaneLoss (l : LinkId) (lane : Fin 4)
  /-- LINK_PACKET_RECEIVE (R284): A received LINK packet returns credits and may carry a NAK that triggers resending. -/
  | linkPacketReceive (l : LinkId) (pkt : Packet)
  /-- LINK_CREDIT_RETURN (R284): A LINK packet is sent within 64 mesh cycles of freeing credits and at least every 4,096. -/
  | linkCreditReturn (l : LinkId)
  /-- LINK_REPLAY_TIMEOUT (R287): No LACK progress for 1,050 ticks replays the link buffer; 16 replays take the link down. -/
  | linkReplayTimeout (l : LinkId)
  /-- PACKET_FORWARD (R295): A routed packet not for this chip is forwarded by its epoch's route entry or discarded. -/
  | packetForward (l : LinkId) (pkt : Packet)
  /-- SEND_RECEIVE (R283): A SEND packet is journaled, accepted once, written to the bench and acknowledged. -/
  | sendReceive (l : LinkId) (arr : Arrival)
  /-- POST_RECEIVE (R289): A POST packet is accepted once, increments its event and is acknowledged. -/
  | postReceive (l : LinkId) (arr : Arrival)
  /-- ACK_RECEIVE (R288): An ACK retires a tracked packet once every member has acknowledged. -/
  | ackReceive (l : LinkId) (pkt : Packet)
  /-- READ_REQ_RECEIVE (R293): A READ_REQ is served by reading HBM and answering with one READ_RESP. -/
  | readReqReceive (l : LinkId) (pkt : Packet)
  /-- READ_RESP_RECEIVE (R293): A READ_RESP writes gathered bytes or raises DMA_RANGE or a replay by its RESULT. -/
  | readRespReceive (l : LinkId) (pkt : Packet)
  /-- RED_DATA_RECEIVE (R328): A RED_DATA packet is checked by the Assayer and enters the reduction window of its combining point. -/
  | redDataReceive (l : LinkId) (pkt : Packet)
  /-- RED_CTL_MISSED (R335): RED_CTL MISSED is passed to feeding points and sets MISSED with residual update. -/
  | redCtlMissed (l : LinkId) (pkt : Packet)
  /-- RED_CTL_STALE (R340): RED_CTL STALE makes the point take its output as the total and return it. -/
  | redCtlStale (l : LinkId) (pkt : Packet)
  /-- RED_CTL_RESEND (R329): RED_CTL RESEND makes the source verify and form a partial again and transmit it. -/
  | redCtlResend (l : LinkId) (ask : Resend)
  /-- TALLY_EXCHANGE (R306): Every 32,768 ticks a TALLY packet is sent on each trained link. -/
  | tallyExchange (l : LinkId)
  /-- TALLY_PACKET_RECEIVE (R307): A TALLY packet gives the offset d, and the Tally steps once or adjusts its rate. -/
  | tallyPacketReceive (l : LinkId) (pkt : Packet) (stamp : Word)
  /-- TALLY_REF_EDGE (R309): A rising TALLY_REF input edge acts as an exchange for a ROLE 2 chip. -/
  | tallyRefEdge
  /-- E2E_RESEND (R291): A tracked packet unacknowledged for 10,500 ticks is resent; after 16 the launch halts with INTERNAL. -/
  | e2eResend (k : Nat)
  /-- ACCEPT_RECORD_EXPIRE (R290): An acceptance record expires after 1,048,576 ticks, freeing room in the record store. -/
  | acceptRecordExpire (k : Nat)
  /-- EPOCH_DRAINED (R299): The old epoch is declared drained and event 0x05 is reported. -/
  | epochDrained
  /-- SEGMENT_INSTANCE_BEGIN (R317): A segment round begins once every contributing core has released its GRDY, and the root forms the chip value. -/
  | segmentInstanceBegin (group : Fin 256) (bucket seg : Nat)
  /-- REDUCTION_STAGE_DEADLINE (R334): A combining point's stage limit expires and it proceeds without missing inputs. -/
  | reductionStageDeadline (group : Fin 256) (bucket seg : Nat)
  /-- REDUCTION_WINDOW_SPACE (R325): Consumers acknowledge a partial, freeing window space so a held RED_DATA packet is taken. -/
  | reductionWindowSpace (k : Nat)
  /-- COLD_RESET (R411): AUX entering range or dropping below 3.0 V for 1 ms restarts the Reeve and Enclave and leads to Safe. -/
  | coldReset
  /-- PERST_ASSERT (R411): PERST# asserted causes a warm reset. -/
  | perstAssert
  /-- PERST_DEASSERT (R403): PERST# deasserts; SLOT_ID is sampled and configuration space becomes ready in Safe. -/
  | perstDeassert (setUp : SlotSetUp)
  /-- CXL_HOT_RESET (R411): A CXL hot reset resets the device keeping links and the Tally. -/
  | cxlHotReset
  /-- FUNCTION_LEVEL_RESET (R411): A host FLR resets the device keeping links and the Tally. -/
  | functionLevelReset
  /-- PWR_GOOD_ASSERT (R380): PWR_GOOD asserted starts the rail sequence with phase tests. -/
  | pwrGoodAssert (failedPhases : List (Rail × Fin 12))
  /-- RAIL_SEQUENCE_DONE (R380): Every rail reaches regulation and the Reeve reports rails good. -/
  | railSequenceDone
  /-- RAIL_TIMEOUT (R380): A rail not in regulation within 1 ms stops the sequence and halts the device. -/
  | railTimeout (rail : Rail)
  /-- PWR_GOOD_DEASSERT (R514): PWR_GOOD deasserted removes the rails as an orderly power-down or a shutdown. -/
  | pwrGoodDeassert (orderly : Bool)
  /-- INPUT_SHUTDOWN (R378): A 42 V or intermediate-rail fault shuts the device down, asserts FAULT# and enters HALTED. -/
  | inputShutdown
  /-- CORE_REF_LOSS (R508): The core reference absent for 10 µs loses PLL lock and shuts the device down. -/
  | coreRefLoss
  /-- MEMORY_STAGE (R407): After a successful FW_LOAD the device trains, repairs and wipes HBM and enters Memory. -/
  | memoryStage (stackFails : Bool) (lanes : List (Nat × Nat)) (badPcs : List (Fin 256))
  /-- COMPUTE_STAGE (R408): From Memory the device wipes, runs BIST, builds fence masks, calibrates and enters Compute. -/
  | computeStage (bistFails : List SiteId) (calibrated : Bool) (guard : Nat)
  /-- REINSTATE_BIST_DONE (R366): Core BIST for REINSTATE finishes and the fence bit is cleared or left. -/
  | reinstateBistDone (pass : Bool)
  /-- LEVEL_CHANGE_COMPLETE (R384): Rails finish slewing and the core-clock divider steps in every column domain. -/
  | levelChangeComplete
  /-- DROOP_STRETCH (R394): A rail droop of 45 mV stretches the column clock, or 70 mV stops it. -/
  | droopStretch (col : Fin 16) (stop : Bool)
  /-- STRETCH_END (R394): The rail stays within 30 mV for 64 root periods and the stretch ends. -/
  | stretchEnd (col : Fin 16) (roots : Fin 24)
  /-- CLOCK_STOP_CHECK (R396): A clock stop lasting 10 µs makes the Reeve check the domain's phases. -/
  | clockStopCheck (col : Fin 16) (failedPhase : Option (Fin 7))
  /-- SENSOR_READ (R397): Every 100 µs the Reeve reads every sensor and excludes failing ones. -/
  | sensorRead (readings : List (Sensor × Option Int))
  /-- THERMAL_EVALUATE (R398): Every 1 ms the Reeve lowers or raises the throttle level by one step. -/
  | thermalEvaluate
  /-- S1_ENTRY (R387): A core idle for the S1 timer gates its clocks. -/
  | s1Entry (core : CoreId)
  /-- S2_ENTRY (R387): A core idle for the S2 timer is power-gated with bench retention. -/
  | s2Entry (core : CoreId)
  /-- S3_ENTRY (R388): A chip eligible for the S3 timer switches off column and mesh domains. -/
  | s3Entry
  /-- S3_ENTRY_COMPLETE (R390): S3 entry finishes, and a pending wake begins the exit in the next tick. -/
  | s3EntryComplete
  /-- CORE_WAKE (R390): A wake event brings a sleeping core out of S1 or S2. -/
  | coreWake (core : CoreId)
  /-- S3_WAKE (R390): A wake event starts the chip's exit from S3. -/
  | s3Wake
  /-- S3_EXIT_COMPLETE (R391): S3 exit finishes with domains on and benches zeroed, and waiting launches proceed. -/
  | s3ExitComplete
  /-- TELEMETRY_RECORD (R469): At each multiple of the period a telemetry record is written to the telemetry ring. -/
  | telemetryRecord (watts centivolts cycles : Nat)
  /-- ARRAY_OPERATION_DONE (R118): A weight load leaves the scoreboard after its last bench read, and an array operation or read-out leaves it after its last tile or bench write. -/
  | arrayOperationDone (th : ThRef) (entry stall : Nat)
  /-- VECTOR_OPERATION_DONE (R139): A vector operation writes its last element and leaves the vector scoreboard entry. -/
  | vectorOperationDone (th : ThRef) (entry stall : Nat)
  /-- ATOMIC_ACKNOWLEDGE (R213): The HBM controller acknowledges a released ATOMIC_ADD or FADD, writing the FADD result or ORing the add's flags, and lets a waiting COMMIT proceed. -/
  | atomicAcknowledge (th : ThRef)
  /-- MEMORY_DESCRIPTOR_COMPLETE (R248): A COPY, FILL, WIPE or MIRROR REGION_DECLARE finishes its data movement and completes, letting waiting LAUNCHes start and releasing a waiting HOST restore. -/
  | memoryDescriptorComplete (item : Nat) (host : Option (List Byte))
  /-- RECEIVED_PACKET_DISCARD (R287): A received packet failing its CRC, out of LSEQ order, or with a reserved TYPE or bit is discarded, with a NAK for a CRC failure. -/
  | receivedPacketDiscard (l : LinkId) (pkt : Packet)
  /-- CURRENT_LIMIT_STRETCH (R376): While the Power Unit holds the input at its 48 A limit the Reeve stretches every column domain, and ends the stretch when the limit releases. -/
  | currentLimitStretch (on : Bool) (roots : Fin 24)
  /-- CLOCK_STOP_END (R394): A stopped column domain's rail rises to within 45 mV and its clock resumes, stretched. -/
  | clockStopEnd (col : Fin 16) (roots : Fin 24)
  /-- AGEING_GUARD_BAND_RAISE (R383): An ageing monitor raises the core-voltage guard band by 5 mV, applied only while no launch is active. -/
  | ageingGuardBandRaise
  /-- ENTROPY_BUFFER_REFILL (R447): The Enclave places a new DRBG output in the ENTROPY buffer, releasing an ENTROPY that waits on an empty buffer. -/
  | entropyBufferRefill (v : Word)
  /-- CORE_WAKE_COMPLETE (R390): A core's exit from S1 or S2 finishes after its wake time, or its entry finishes and a pending wake begins the exit, and delayed threads may issue. -/
  | coreWakeComplete (core : CoreId)
  /-- CXL_LINK_POWER_STATE (R505): The CXL link enters L2 or returns to L0, asserting WAKE# when a record waits in L2 and releasing it at L0. -/
  | cxlLinkPowerState (l2 : Bool)
deriving DecidableEq, Repr

end Sys2Proof
end

