-- ==== Sys2Proof/Config.lean ====
section
/-! DEFINITION. The figures of the part that the spec fixes (sizes, address ranges, limits), and the free values: constants that
the spec leaves open, without a body. -/
namespace Sys2Proof.Config

/-- First address above a bench (R160). -/
def benchEnd : Nat := 0x180000
/-- First bench address of lane B's banks in split mode (R160, R132). -/
def laneB : Nat := 0xC0000
/-- General area of HBM (Table 7.3). -/
def generalBase : Nat := 0x10000000
/-- First address above the general area (Table 7.3). -/
def generalEnd : Nat := 0x2E80000000
/-- First address above HBM (R165). -/
def hbmEnd : Nat := 0x3000000000
/-- Held effects of one pass (R40). -/
def holdDepth : Nat := 64
/-- Tracked packets a source can hold (R288). -/
def trackedDepth : Nat := 16384
/-- Acceptance records (R290). -/
def acceptDepth : Nat := 262144
/-- Open work items, and those only ring 0 may take (R247). -/
def workItems : Nat := 256
def ring0Items : Nat := 8
/-- Records the trace SRAM stages: 16 MiB of 32 bytes (R464). -/
def traceRecords : Nat := 524288
/-- Bytes of one anchor half (R359). -/
def anchorHalf : Nat := 330780672
/-- Bytes of the OTP store (R418). -/
def otpBytes : Nat := 2048

/-! What the capability structures of configuration space advertise (R234, R235, Table 10.1). -/

/-- Objects of the Data Object Exchange. -/
inductive DoeObject where
  | discovery | cmaSpdm | securedCmaSpdm | cdat
deriving DecidableEq, Repr

/-- A feature of Table 10.1 that a capability structure shows. -/
inductive Capability where
  /-- link rates in GT/s and widths in lanes, fastest first -/
  | link (rates widths : List Nat)
  /-- flit sizes in bytes -/
  | flits (bytes : List Nat)
  | cxlIo
  /-- CXL.cache, with the lines it may hold -/
  | cxlCache (lines : Nat)
  /-- CXL.mem: HDM decoders, the largest window in bytes, host-only coherent -/
  | cxlMem (decoders window : Nat)
  | doe (objects : List DoeObject)
  /-- selective IDE streams -/
  | ide (streams : Nat)
  | msix (vectors : Nat)
  | functionLevelReset
  | aer
  | aspmL1
  /-- BAR0: 64-bit, non-prefetchable, its size in bytes -/
  | bar0 (bytes : Nat)
deriving DecidableEq, Repr

/-- Exactly the features of Table 10.1: no MSI, INTx, L0s, link IDE, SR-IOV, ATS, PRI, PASID or expansion ROM. -/
def capabilities : List Capability :=
  [.link [64, 32, 16, 8] [8, 4, 2], .flits [256, 68], .cxlIo, .cxlCache 128, .cxlMem 1 0x1000000000,
   .doe [.discovery, .cmaSpdm, .securedCmaSpdm, .cdat], .ide 4, .msix 64, .functionLevelReset, .aer, .aspmL1, .bar0 0x1000000]

/-- Free value (log entry 30): is a calibration step of this pseudo-channel due after its n-th refresh (R171)? -/
opaque calibrationDue : Nat → Nat → Bool
/-- Free value (log entry 31): redundant data lanes of a channel beyond the first. -/
opaque moreRedundantLanes : Nat
/-- Redundant data lanes of a channel: a channel has one (R370), and how many more is not said. -/
def redundantLanes : Nat := moreRedundantLanes + 1

/-- Free value (log entry 75): the data lane of its channel that carries a bit of a sector's 512 data bits and 32 code bits
(R370). -/
opaque laneOfBit : Nat → Nat

/-- Free value (log entry 33): the trim of a column in mV, signed, as the content of the TRIMS field holds it (R383, R418). -/
opaque columnTrim : List Byte → Nat → BitVec 8
/-- Free value (log entry 34): SHA3-384 of the Enclave and Reeve ROMs (Table 16.6). -/
opaque romDigest : List Byte

end Sys2Proof.Config
end

