-- ==== Sys2Proof/Machine/State.lean ====
section
/-! DEFINITION. The state of the block, its reset value, and the reasons a command can stop. -/
namespace Sys2Proof.Machine

/-- What the device sends to the outside, oldest first: reads it issues, records and messages it writes, packets it sends. -/
inductive Output where
  /-- RdShared of a line, or a CXL.io read of a polled line (R242, R244) -/
  | lineRead (addr : Word)
  /-- a read of `n` descriptors from count `first` of a ring (R242) -/
  | descRead (sq : RingId) (first n : Nat)
  /-- a completion record at a host address with its PHASE (R258, R259) -/
  | record (cq : RingId) (addr : Nat) (r : Rec) (phase : Bool)
  /-- an MSI-X message (R267) -/
  | msix (vec : Fin 64)
  /-- other bytes written to host memory (R257, R491, R493) -/
  | hostWrite (addr : Nat) (data : List Byte)
  /-- bytes read from host memory were asked for (R257, R405, R462) -/
  | hostRead (addr bytes : Nat)
  /-- an answer to a register or sideband read -/
  | readData (data : Word)
  /-- an answer to a CXL.mem read of one sector (R268) -/
  | memData (data : List Byte)
  /-- a packet onto a link (R284) -/
  | packet (l : LinkId) (p : Packet)
  /-- a rising edge of the TALLY_REF output (R309) -/
  | refEdge
  /-- a load notice to a column's regulator controller (R392) -/
  | notice (col : Fin 16) (n : Notice)
  /-- an answer of the SPDM responder (R442) -/
  | spdm (a : SpdmAns)
  /-- an integrity failure of an IDE stream reported through AER (R444) -/
  | aer (stream : Fin 4)
  /-- a line of UART text that begins with this Tally count (R503) -/
  | uart (tally : Word)
  /-- a trace record written to the sink, with its number (R463) -/
  | trace (n : Nat)
deriving DecidableEq, Repr

/-- The state of the block. Every field is plain data. -/
structure State where
  /-- commands that wait, first in, first out -/
  pending  : List Instr
  tally    : Word
  tallyPrev : Word
  align    : Align
  life     : Life
  power    : Power
  cores    : Vector Core 192
  sites    : Vector Site 208
  bufs     : Vector BufEntry 256
  hbm      : HbmSt
  regions  : Vector (Option Region) 64
  subs     : Vector SubRing 64
  comps    : Vector CompRing 64
  msix     : Vector MsixVec 64
  hifPoll  : Nat
  /-- the host has enabled CXL.cache (R244) -/
  cacheOn  : Bool
  hdmOn    : Bool
  hdmBase  : Nat
  hdmSize  : Nat
  hdmDecoder : Bool
  lastRing : Vector (Option RingId) 4
  items    : List Item
  nextItem : Nat
  seq      : Nat
  launch   : Option Launch
  bound    : List BoundItem
  fabric   : Fabric
  red      : Reduction
  ctrs     : ChipCtrs
  ctrsOld  : ChipCtrs
  ctrSeq   : Nat
  ctrSeqOld : Nat
  run      : RunCtrs
  trace    : Trace
  obs      : Obs
  sec      : Sec
  side     : Vector Sideband 2
  out      : List Output
deriving DecidableEq, Repr

/-- Faults. A command of this block never stops on ordinary data; this one names an operand that names nothing on the part
(WellFormed refuses it). Raised by no meaning of the model; safe. -/
inductive Fault where
  | noSuchCommand
deriving DecidableEq, Repr

/-- Refusals. -/
inductive Refusal where
  /-- a command whose meaning is not written yet, by its mnemonic; raised by exec's arms only; safe -/
  | notModelled (mnemonic : String)
deriving DecidableEq, Repr

/-- The machine right after a cold reset (R411): AUX in range, rails off, PERST# asserted. -/
def State.reset : State :=
  { pending := [], tally := 0, tallyPrev := 0, align := align0, life := life0, power := power0,
    cores := Vector.replicate 192 core0, sites := Vector.replicate 208 site0, bufs := Vector.replicate 256 bufEntry0,
    hbm := hbmSt0, regions := Vector.replicate 64 none, subs := Vector.replicate 64 subRing0,
    comps := Vector.replicate 64 compRing0, msix := Vector.replicate 64 msixVec0, hifPoll := 0x41A, cacheOn := true, hdmOn := false,
    hdmBase := 0, hdmSize := 0, hdmDecoder := true, lastRing := Vector.replicate 4 none, items := [], nextItem := 0, seq := 0,
    launch := none, bound := [], fabric := fabric0, red := reduction0, ctrs := chipCtrs0, ctrsOld := chipCtrs0, ctrSeq := 0,
    ctrSeqOld := 0, run := runCtrs0, trace := trace0, obs := obs0, sec := sec0, side := Vector.replicate 2 sideband0,
    out := [] }

end Sys2Proof.Machine
end

