-- ==== Sys2Proof/Machine/Ops.lean ====
section
/-! DEFINITION. Named operations on memory, benches, HBM, threads and cores; events; trace records; the halt of a launch by
a fault (R220). -/
namespace Sys2Proof.Machine

/-- What a command answers. -/
abbrev Res := Host.Outcome State Fault Refusal

/-- Replace one entry of a vector. -/
def vset {α : Type} {n : Nat} (v : Vector α n) (i : Fin n) (x : α) : Vector α n := v.set i.1 x i.2

/-- Change one entry of a vector. -/
def vmod {α : Type} {n : Nat} (v : Vector α n) (i : Fin n) (f : α → α) : Vector α n := vset v i (f v[i])

/-! Memories. -/

/-- The byte at an address. -/
def Memory.get (m : Memory) (a : Nat) : Byte := (m.lookup a).getD 0

/-- The cells that bytes from an address on make: none for a zero byte. -/
def Memory.cells : Nat → List Byte → Memory
  | _, [] => []
  | a, b :: bs => if b = 0 then Memory.cells (a + 1) bs else (a, b) :: Memory.cells (a + 1) bs

/-- The cells of `n` addresses from `a`. -/
def Memory.window (m : Memory) (a n : Nat) : Memory := (m.dropWhile (·.1 < a)).takeWhile (·.1 < a + n)

/-- Put `cells`, whose addresses lie in the `n` addresses from `a`, in place of what was there. -/
def Memory.place (m : Memory) (a n : Nat) (cells : Memory) : Memory :=
  m.takeWhile (·.1 < a) ++ cells ++ m.dropWhile (·.1 < a + n)

/-- Write bytes. -/
def Memory.write (m : Memory) (a : Nat) (bs : List Byte) : Memory := m.place a bs.length (Memory.cells a bs)

/-- Zero `n` bytes. -/
def Memory.clear (m : Memory) (a n : Nat) : Memory := m.place a n []

/-- Copy `n` bytes within a memory. -/
def Memory.copy (m : Memory) (src dst n : Nat) : Memory :=
  m.place dst n ((m.window src n).map fun (k, b) => (k - src + dst, b))

/-- `n` bytes from `a`, from cells none of which lies below `a`. -/
def Memory.expand : Nat → Nat → Memory → List Byte
  | 0, _, _ => []
  | n + 1, a, [] => 0 :: Memory.expand n (a + 1) []
  | n + 1, a, (k, b) :: m => if k = a then b :: Memory.expand n (a + 1) m else 0 :: Memory.expand n (a + 1) ((k, b) :: m)

/-- Read `n` bytes. -/
def Memory.read (m : Memory) (a n : Nat) : List Byte := Memory.expand n a (m.dropWhile (·.1 < a))

/-- The canonical form: addresses strictly rising, no byte zero. -/
abbrev Memory.wf (m : Memory) : Prop := m.Pairwise (fun x y => x.1 < y.1) ∧ ∀ c ∈ m, c.2 ≠ 0

/-! Cores, threads and sites. -/

/-- Logical row and column of a core (R189). -/
def coreRow (c : CoreId) : Nat := c.1 / 16
def coreCol (c : CoreId) : Fin 16 := Fin.ofNat 16 c.1

/-- The core of a logical row and column. -/
def coreOf (row col : Nat) : CoreId := Fin.ofNat 192 (16 * row + col)

/-- site_row of R16. -/
def siteRow (slide : Fin 16) (row : Nat) : Nat := if slide = 15 || decide (row < slide.1) then row else row + 1

/-- The site of a logical core (R16). -/
def siteOf (s : State) (c : CoreId) : SiteId :=
  Fin.ofNat 208 (16 * siteRow s.life.slide[coreCol c] (coreRow c) + (coreCol c).1)

def State.core (s : State) (c : CoreId) : Core := s.cores[c]
def State.setCore (s : State) (c : CoreId) (k : Core) : State := { s with cores := vset s.cores c k }
def State.modCore (s : State) (c : CoreId) (f : Core → Core) : State := s.setCore c (f (s.core c))
def State.th (s : State) (r : ThRef) : Thread := (s.core r.core).threads[r.t]
def State.setTh (s : State) (r : ThRef) (t : Thread) : State :=
  s.modCore r.core fun k => { k with threads := vset k.threads r.t t }
def State.modTh (s : State) (r : ThRef) (f : Thread → Thread) : State := s.setTh r (f (s.th r))
def State.modRegs (s : State) (r : ThRef) (f : Regs → Regs) : State := s.modTh r fun t => { t with regs := f t.regs }
/-- Change the launch, if there is one. -/
def State.modLaunch (s : State) (f : Launch → Launch) : State := { s with launch := s.launch.map f }
def State.emit (s : State) (o : Output) : State := { s with out := s.out ++ [o] }

/-- All threads, in the order of cores, T0 before T1. -/
def allThreads : List ThRef := (List.finRange 192).flatMap fun c => [⟨c, 0⟩, ⟨c, 1⟩]

/-- Does this thread take part in the launch? -/
def Thread.takesPart (t : Thread) : Bool := decide (t.st ≠ .absent)

/-- The threads that take part in the launch. -/
def State.participants (s : State) : List ThRef := allThreads.filter fun r => (s.th r).takesPart

/-- A launch is active: started and not complete (R248). -/
def State.launchActive (s : State) : Bool :=
  match s.launch with
  | some l => decide (l.st = .active || l.st = .starting || l.st = .halting)
  | none => false

/-- This chip's ID (R8, R276). -/
def State.chipId (s : State) : Nat :=
  s.fabric.fabId.x * 2048 + s.fabric.fabId.y * 128 + s.fabric.fabId.z * 8 + s.life.slotId.1

/-- Read and write the bench of a logical core at its site. -/
def benchRead (s : State) (c : CoreId) (a n : Nat) : List Byte := s.sites[siteOf s c].bench.read a n

/-- Halves or sectors wholly inside a range, dropped from a list: a write of the whole unit gives it a good code (R169, R520). -/
def dropSectors (l : List Nat) (a n : Nat) : List Nat := l.filter fun x => ! (a ≤ x && x + 64 ≤ a + n)

def benchWrite (s : State) (c : CoreId) (a : Nat) (bs : List Byte) : State :=
  { s with sites := vmod s.sites (siteOf s c) fun x =>
      { x with bench := x.bench.write a bs, bad := dropSectors x.bad a bs.length } }

/-- Ranges (address, length) of which some byte lies in the 64-byte unit at `h`. -/
def touch64 (h : Nat) (sp : List (Nat × Nat)) : Bool := sp.any fun (a, n) => decide (a < h + 64 ∧ h < a + n)
/-- Some range covers a part of the unit, but not the whole of it. -/
def part64 (h : Nat) (sp : List (Nat × Nat)) : Bool :=
  sp.any fun (a, n) => decide (a < h + 64 ∧ h < a + n) && !decide (a ≤ h ∧ h + 64 ≤ a + n)

/-- An operation of a core meets a bench half whose code is known to fail: it reads it, or writes a part of it (R183, R520).
DEDUCED (log entry 76): it waits there for the response, which is ANCHOR_REPLAY's. -/
def benchHeld (s : State) (c : CoreId) (reads writes : List (Nat × Nat)) : Bool :=
  s.sites[siteOf s c].bad.any fun h => touch64 h reads || part64 h writes

/-! HBM. -/

def hbmRead (s : State) (a n : Nat) : List Byte := s.hbm.mem.read a n

/-- The mirror regions that a write of `n` bytes at `a` reaches: first address in the region, its mirror, its length. -/
def mirrorParts (s : State) (a n : Nat) : List (Nat × Nat × Nat) :=
  s.regions.toList.filterMap fun r =>
    match r with
    | some ⟨b, sz, .mirror m⟩ =>
      let lo := max a b
      let hi := min (a + n) (b + sz)
      if lo < hi then some (lo, m + (lo - b), hi - lo) else none
    | _ => none

/-- Put cells over a range of HBM and over its mirrors (R169, R181). -/
def hbmPlace (s : State) (a n : Nat) (cells : Memory) : State :=
  let ms := mirrorParts s a n
  let m0 := s.hbm.mem.place a n cells
  let m1 := ms.foldl (fun m (lo, dst, len) =>
    m.place dst len ((Memory.window cells lo len).map fun (k, b) => (k - lo + dst, b))) m0
  let bad := ms.foldl (fun l (_, dst, len) => dropSectors l dst len) (dropSectors s.hbm.bad a n)
  ({ s with hbm := { s.hbm with mem := m1, bad := bad } }).modLaunch fun l =>
    { l with replayedFor := dropSectors l.replayedFor a n }

/-- An access of HBM meets a sector known to fail: it reads it, or writes a part of it (R169, R183). -/
def hbmHeld (s : State) (reads writes : List (Nat × Nat)) : Bool := s.hbm.bad.any fun x => touch64 x reads || part64 x writes

/-- The detection code of a sector (R168). -/
def sectorCode (a : Nat) (data : List Byte) : Nat := crc32c (toBytes 8 (a / 64 % 2 ^ 32) ++ data)

/-- A read of a sector passes its code (R168). -/
def SectorRead.passes (x : SectorRead) (a : Nat) : Bool := decide (x.code = sectorCode a x.data)

/-- Write bytes to HBM (R169, R181). -/
def hbmWrite (s : State) (a : Nat) (bs : List Byte) : State := hbmPlace s a bs.length (Memory.cells a bs)

/-- A range inside the general area of Table 7.3. -/
def inGeneral (a n : Nat) : Bool := decide (Config.generalBase ≤ a ∧ a + n ≤ Config.generalEnd)

/-- A range inside the range granted to the launch (R255). -/
def Launch.grants (l : Launch) (a n : Nat) : Bool :=
  decide (l.d.rangeBase ≤ a ∧ a + n ≤ l.d.rangeBase + l.d.rangeBytes)
def State.granted (s : State) (a n : Nat) : Bool :=
  match s.launch with
  | some l => l.grants a n
  | none => false

/-! Ticks of the Tally (R46). -/

/-- The tick, counted as `Align.ticks` counts, in which the Tally first stood at or above a count, among ticks up to `e`. -/
def tickIn : List (Nat × Nat) → Nat → Nat → Option Nat
  | [], _, _ => none
  | (a, t) :: rest, e, c =>
    match tickIn rest (t - 1) c with
    | some x => some x
    | none => if c ≤ a + (e - t) then some (t + (c - a)) else none

/-- The tick of a count, once the Tally has reached it. -/
def tickOf (s : State) (c : Nat) : Option Nat := tickIn s.align.runs s.align.ticks c

/-- Tally ticks from the tick of a count to the present one. -/
def ticksSince (s : State) (c : Nat) : Nat := s.align.ticks - (tickOf s c).getD s.align.ticks

/-- Set the Tally (R305, R307). -/
def setTally (s : State) (v : Word) : State :=
  { s with tally := v, tallyPrev := v, align := { s.align with runs := [(v.toNat, s.align.ticks)] } }

/-! Counters (17_observability.md). -/

/-- Saturating 64-bit count (R455). -/
def sat64 (a b : Nat) : Nat := satAdd 64 a b

/-- The launch's counters run: from its first issue on (R455, R457). -/
def State.counting (s : State) : Bool :=
  match s.launch with
  | some l => decide (l.st = .active || l.st = .halting)
  | none => false

/-- Change the chip's live launch counters; they count only during a launch (R455). -/
def State.count (s : State) (f : ChipCtrs → ChipCtrs) : State := if s.counting then { s with ctrs := f s.ctrs } else s
/-- Change a core's live launch counters. -/
def State.countCore (s : State) (c : CoreId) (f : CoreCtrs → CoreCtrs) : State :=
  if s.counting then s.modCore c fun k => { k with live := f k.live } else s
def State.countRun (s : State) (f : RunCtrs → RunCtrs) : State := { s with run := f s.run }

/-- A wake event of a sleeping core (R390): one that comes during entry is noted. -/
def Sleep.woken : Sleep → Sleep
  | .toS1 _ => .toS1 true | .s1 => .waking1 | .toS2 _ => .toS2 true | .s2 => .waking2
  | .s0 => .s0 | .waking1 => .waking1 | .waking2 => .waking2

/-- Set a timing exception flag of Table 2.6 on the active launch (R50). -/
def State.flagExc (s : State) (b : BitVec 8) : State :=
  if s.launchActive then s.modLaunch fun l => { l with exc := l.exc ||| b } else s
def excREF : BitVec 8 := 1
def excRTY : BitVec 8 := 2
def excREC : BitVec 8 := 4
def excREP : BitVec 8 := 8
def excSTR : BitVec 8 := 16
def excTHR : BitVec 8 := 32
def excDET : BitVec 8 := 64
def excHDM : BitVec 8 := 128

/-- Core-clock divider of a level (Table 1.7), and the core cycles of a span of Tally ticks at the level in force. -/
def coreDiv (l : Fin 5) : Nat := if l = 0 then 6 else if l = 1 then 7 else if l = 2 then 8 else if l = 3 then 10 else 15
def coreCycles (s : State) (ticks : Nat) : Nat := ticks * 24 / coreDiv s.power.level

/-- A column domain is stretched or stopped (R394). -/
def clockSlow (s : State) (c : Fin 16) : Bool := s.power.limited || decide ((s.power.domains[c]).clock ≠ .run)

/-- The divider of a column domain's core clock: the level's, d + 2 while stretched, none while stopped (R394). -/
def domainDiv (s : State) (c : Fin 16) : Option Nat :=
  if (s.power.domains[c]).clock = .stopped then none
  else some (coreDiv s.power.level + if clockSlow s c then 2 else 0)

/-- Core cycles of a column domain that the STR measure has not counted yet (R395): those stretched, at divider d + 2 of R394, or
those that the stopped time would have held at the launch level. DEDUCED (log entry 81): the time is taken in root-clock periods, 24 to
a Tally tick, `roots` of them into the tick under way. -/
def strOwed (s : State) (c : Fin 16) (roots : Nat) : Nat :=
  let d := s.power.domains[c]
  let n := 24 * s.power.upTicks + roots - d.slowAt
  match domainDiv s c with
  | none => n / coreDiv (match s.launch with | some l => l.level | none => s.power.level)
  | some k => if clockSlow s c then n / k else 0

/-- Count what a domain owes the STR measure up to now (R50, R395). -/
def settleStr (s : State) (c : Fin 16) (roots : Nat) : State :=
  let n := strOwed s c roots
  let s := s.count fun k => { k with strCycles := sat64 k.strCycles n }
  { s with power := { s.power with domains := vmod s.power.domains c fun d => { d with slowAt := max d.slowAt (24 * s.power.upTicks + roots) } } }

/-- Every domain's. -/
def settleStrs (s : State) (roots : Nat) : State := (List.finRange 16).foldl (fun s c => settleStr s c roots) s

/-- REC with core cycles lost (R349, R369). -/
def loseCycles (s : State) (n : Nat) : State := (s.count fun c => { c with recCycles := sat64 c.recCycles n }).flagExc excREC

/-! Trace records (R462 to R468). -/

/-- Record losses at the Scrivener (R464). -/
def traceDrop (s : State) : State :=
  let s := s.count fun c => { c with traceDropped := sat64 c.traceDropped 1 }
  let s := s.countRun fun c => { c with traceLost := sat64 c.traceLost 1 }
  { s with trace := { s.trace with lost := match s.trace.lost with
      | [] => [(0, 1)]
      | (k, n) :: rest => (k, n + 1) :: rest } }

/-- The LOSS record of R464. -/
def lossRec (s : State) (n : Nat) : TraceRec := ⟨9, false, false, 0, 0, 0xFFFF, n, s.tally.toNat, 0, 0⟩

/-- Stage a record, or drop it (R464). -/
def tracePush (s : State) (r : TraceRec) : State :=
  match s.trace.lost with
  | [] =>
    if s.trace.queue.length < Config.traceRecords then { s with trace := { s.trace with queue := s.trace.queue ++ [(0, r)] } }
    else traceDrop s
  | (_, n) :: _ =>
    if s.trace.queue.length + 1 < Config.traceRecords then
      { s with trace := { s.trace with queue := s.trace.queue ++ [(0, lossRec s n), (0, r)], lost := [] } }
    else traceDrop s

/-- A logical core is traced when its row and its column are selected (R462). -/
def traced (s : State) (c : CoreId) : Bool :=
  s.trace.enabled && s.trace.rows.getLsbD (coreRow c) && s.trace.cols.getLsbD (coreCol c).1

/-- A record about a thread (Table 17.4). -/
def traceThread (s : State) (r : ThRef) (ty index : Nat) (word : Word) : State :=
  if traced s r.core then
    let t := s.th r
    let still := clockSlow s (coreCol r.core)
    let again := t.detections ≠ 0 || (match s.launch with | some l => l.replay | none => false)
    let s := tracePush s ⟨ty, t.stretched || still, again, r.core.1, r.t.1, t.window.getD 0xFFFF, index, s.tally.toNat, t.cycles, word⟩
    s.modTh r fun t => { t with stretched := still }
  else s

/-- A record about a dispatcher: a descriptor accepted or completed (Table 17.5). -/
def traceDispatch (s : State) (sq : RingId) (slot : Nat) (word : Word) : State :=
  if s.trace.enabled && s.trace.disp then
    tracePush s ⟨8, false, false, sq.1 % 4, 0, 0xFFFF, slot, s.tally.toNat, 0, word⟩
  else s

/-! Faults of a launch (R220). -/

/-- Code of a fault (Table 8.11). -/
def IFault.code : IFault → Nat
  | .illegalOpcode => 0x01 | .reservedField => 0x02 | .markMissing => 0x03 | .fieldRange => 0x04
  | .formatIllegal => 0x05 | .tileOwnership => 0x06 | .benchLane => 0x07 | .tileRange => 0x08
  | .transposeIllegal => 0x09 | .planeEmpty => 0x0A | .benchRange => 0x0B | .branchRange => 0x0C
  | .vecRange => 0x0D | .topkRange => 0x0E | .dmaDesc => 0x0F | .dmaRange => 0x10 | .bufState => 0x11
  | .passTileOrder => 0x12 | .passHoldFull => 0x13 | .vvLogFull => 0x14 | .heldResult => 0x15
  | .eventRange => 0x16 | .anchorOrder => 0x17 | .streamEnd => 0x18

/-- A thread stopped by a halt: its held effects are discarded (R220 steps 1 to 3). -/
def Thread.halt (t : Thread) : Thread :=
  match t.st with
  | .absent => t
  | .ended => t
  | _ => { t with st := .halted, hold := [], acks := [] }

/-- Core cycles that the window a thread is in has run beyond its BUDGET (R225). -/
def overrun (s : State) (t : Thread) : Nat :=
  if t.window.isNone || t.winBudget = 0 then 0 else coreCycles s (s.tally.toNat - t.winAt) - t.winBudget

/-- Core cycles that a thread has waited at a window and WINDOW_WAIT_CYCLES does not hold yet (R224; log entry 14). -/
def windowOwed (s : State) (t : Thread) : Nat :=
  match t.st, t.waitAt with
  | .inWindowWait _, some n => coreCycles s (s.align.ticks - n)
  | _, _ => 0

/-- The launch counters of a core whose threads leave their windows, or stop to wait at one, now (R224, R225). -/
def leftWindows (s : State) (k : Core) : CoreCtrs :=
  { k.live with
    windowOverrun := k.threads.toList.foldl (fun n t => sat64 n (overrun s t)) k.live.windowOverrun
    windowWait := k.threads.toList.foldl (fun n t => sat64 n (windowOwed s t)) k.live.windowWait }

/-- The REP measure of a launch that stops in replay mode (R50, R357). -/
def haltReplay (s : State) : State :=
  match s.launch with
  | some l => if l.replay then s.count fun c => { c with repTicks := sat64 c.repTicks (s.tally.toNat - l.replayFrom) } else s
  | none => s

/-- Stop every thread of the launch on the chip. -/
def haltCores (s : State) : State :=
  let s := haltReplay s
  { s with cores := s.cores.map fun k => { k with threads := k.threads.map Thread.halt, live := leftWindows s k } }

/-- End the active launch for a reason other than a fault, under the steps of R220. -/
def haltLaunch (s : State) (h : Halt) : State :=
  match s.launch with
  | some l =>
    if l.halt = none then haltCores { s with launch := some { l with st := .halting, halt := some h } } else s
  | none => s

/-- A thread comes before another in the order of R221: the lower logical core, T0 before T1. -/
def thBefore (a b : ThRef) : Bool := decide (a.core < b.core ∨ (a.core = b.core ∧ a.t < b.t))

/-- A fault's EXC trace record, and the core's fault registers unless they hold one (R220, R487). -/
def latchFault (s : State) (r : ThRef) (f : IFault) (index : Nat) (word : Word) : State :=
  (traceThread s r 6 index word).modCore r.core fun k =>
    if k.fault.valid then k else { k with fault := ⟨true, f.code, r.t.1, ((k.threads[r.t]).window).getD 0xFFFF, index, word⟩ }

/-- R220, R221: a fault latches and halts the launch. One of the same cycle is counted, and is the one reported when its thread comes
first. DEDUCED (log entry 82): a cycle's faults are those of its Tally tick. -/
def raiseFault (s : State) (r : ThRef) (f : IFault) (index : Nat) (word : Word) : State :=
  match s.launch with
  | none => s
  | some l =>
    let halt := Halt.fault f r index word (s.th r).window
    match l.halt with
    | none =>
      let running := (allThreads.filter fun x => decide (x ≠ r ∧ (s.th x).st = .running)).map fun x => (x, (s.th x).hold)
      haltCores ((latchFault s r f index word).modLaunch fun l =>
        { l with st := .halting, halt := some halt, faultTick := s.align.ticks, sameCycle := running })
    | some (.fault _ r0 _ _ _) =>
      if l.faultTick = s.align.ticks then
        (latchFault s r f index word).modLaunch fun l =>
          { l with otherFaults := min (l.otherFaults + 1) 0xFFFF, halt := if thBefore r r0 then some halt else l.halt }
      else s
    | some _ => s

/-- The thread to whose lane an event belongs (R206). -/
def eventThread (k : Core) (c : CoreId) (e : EventId) : ThRef := ⟨c, if k.split && decide (32 ≤ e.1) then 1 else 0⟩

/-- The stream a thread issues from and its word at an index, if the line is resident (R190). -/
def wordAt (t : Thread) (ix : Nat) : Option Word :=
  (t.cue.find? fun l => l.line = ix / 512).map fun l => l.words.getD (ix % 512) 0

/-- One increment of an event counter; past the top it raises EVENT_RANGE on the receiving core (R206). -/
def incEvent (s : State) (c : CoreId) (e : EventId) : State :=
  let k := s.core c
  if k.ev[e] = 0xFFFFFFFF#32 then
    let r := eventThread k c e
    let t := s.th r
    raiseFault s r .eventRange t.pos ((wordAt t t.pos).getD 0)
  else s.setCore c { k with ev := vset k.ev e (k.ev[e] + 1) }

/-- Take an amount from an event counter, noting it for the pass (R207, R214). -/
def consume (s : State) (r : ThRef) (e : EventId) (n : Nat) : State :=
  let s := s.modCore r.core fun k => { k with ev := vset k.ev e (k.ev[e] - BitVec.ofNat 32 n) }
  s.modTh r fun t => { t with consumed := t.consumed ++ [⟨e, n⟩] }

end Sys2Proof.Machine
end

