-- ==== Sys2Proof/Machine/Records.lean ====
section
/-! DEFINITION. Completion records, events, interrupts and the device state (R258 to R267, R402). -/
namespace Sys2Proof.Machine

/-! MSI-X (R267). -/

/-- A message of a vector, or its pending bit while it is masked, or one message owed at the end of the holdoff. -/
def raiseVector (s : State) (v : Fin 64) (holdoff : Nat) : State :=
  let m := s.msix[v]
  if m.ctrl.getLsbD 0 then { s with msix := vset s.msix v { m with pend := true, gap := holdoff } }
  else if s.tally.toNat < m.holdTill then { s with msix := vset s.msix v { m with owed := true, gap := holdoff } }
  else
    ({ s with msix := vset s.msix v { m with pend := false, owed := false, holdTill := s.tally.toNat + 64 * holdoff } }).emit
      (.msix v)

/-- A wake event of the chip in S3 (R390): it is noted during entry and begins the exit afterwards. -/
def wakeChip (s : State) : State :=
  match s.power.chip with
  | .entering _ => { s with power := { s.power with chip := .entering true } }
  | .asleep => { s with power := { s.power with chip := .leaving } }
  | _ => s

/-- The chip is not in S3, nor entering or leaving it. -/
def isAwake (s : State) : Bool := decide (s.power.chip = .awake)

/-! Records. -/

/-- Does the record call for a message (R267)? -/
def recordCalls (q : CompRing) (r : Rec) : Bool := r.irq || q.irqAll || r.kind = 2 || r.kind = 4

/-- Slots free on a completion ring (R260). -/
def ringFree (q : CompRing) : Nat :=
  let used := (q.tailPos + 2 ^ 32 - q.headSeen % 2 ^ 32) % 2 ^ 32
  2 ^ q.log2 - used

/-- Write record TAIL of a ring at its slot with its PHASE, then raise its vector; the item it closes closes (R247, R259). -/
def putRecord (s : State) (cq : RingId) (r : Rec) : State :=
  let q := s.comps[cq]
  let phase := (q.tailPos >>> q.log2) % 2 = 0
  let at_ := q.base.toNat + 32 * (q.tailPos % 2 ^ q.log2)
  let s := { s with
    comps := vset s.comps cq { q with tailPos := (q.tailPos + 1) % 2 ^ 32 },
    items := s.items.filter fun i => decide (r.closes ≠ some i.id) }
  let s := s.emit (.record cq at_ r phase)
  if recordCalls q r then raiseVector s q.vector q.holdoff else s

/-- Write the waiting records that fit, in order; one with MORE set needs two slots (R260), and a LAUNCH's follows its items' (R230). While the link is in L2 they wait, and a
record of Table 10.13 asserts WAKE# (R505). The fuel is the number waiting. -/
def drainRing : Nat → State → RingId → State
  | 0, s, _ => s
  | n + 1, s, cq =>
    let q := s.comps[cq]
    match q.waiting with
    | [] => { s with comps := vset s.comps cq { q with full := false } }
    | r :: rest =>
      if s.power.linkL2 then
        if (r :: rest).any fun x => decide (x.kind = 4) then { s with power := { s.power with wakeN := true } } else s
      else if r.after.any fun i => s.items.any fun j => decide (j.id = i) then s
      else if (if r.more then 2 else 1) ≤ ringFree q then
        drainRing n (putRecord { s with comps := vset s.comps cq { q with waiting := rest, full := decide (rest ≠ []) } } cq r) cq
      else { s with comps := vset s.comps cq { q with full := true } }

/-- A record for a ring: discarded and counted when the ring is not ACTIVE (R241), else behind those that wait (R260). -/
def writeRecord (s : State) (cq : RingId) (r : Rec) : State :=
  let q := s.comps[cq]
  if ! q.active then
    { s with comps := vset s.comps cq { q with dropped := min (q.dropped + 1) 0xFFFF },
             items := s.items.filter fun i => decide (r.closes ≠ some i.id) }
  else
    let s := { s with
      comps := vset s.comps cq { q with waiting := q.waiting ++ [r] },
      items := s.items.map fun i => if r.closes = some i.id then { i with closing := true } else i }
    drainRing (q.waiting.length + 1) s cq

/-- A telemetry record never waits (R260). -/
def writeTelemetry (s : State) (cq : RingId) (r : Rec) : State :=
  let q := s.comps[cq]
  if q.active && !s.power.linkL2 && decide (1 ≤ ringFree q) then putRecord s cq r
  else { s with comps := vset s.comps cq { q with dropped := min (q.dropped + 1) 0xFFFF } }

/-- A record's body from fields (offset, bytes, value) (Table 10.11). -/
def recBody (fs : List (Nat × Nat × Nat)) : BitVec 184 :=
  BitVec.ofNat 184 (fs.foldl (fun x (o, n, v) => x + (v % 2 ^ (8 * n)) <<< (8 * (o - 8))) 0)

/-- The bytes of a record (Table 10.11). -/
def recBytes (r : Rec) (phase : Bool) : List Byte :=
  toBytes 2 r.tag ++ toBytes 1 r.opc ++ toBytes 1 r.status ++ toBytes 1 r.sq ++ toBytes 1 r.kind ++ toBytes 2 r.slot ++
    toBytes 23 r.body.toNat ++ [if phase then (if r.more then 0xC0#8 else 0x80#8) else (if r.more then 0x40#8 else 0#8)]

/-- An asynchronous event on completion ring 0 (R266): `details` are fields from offset 0x09 to 0x17. The
Reeve writes a line for it (R503). -/
def eventRecord (s : State) (ev status : Nat) (details : List (Nat × Nat × Nat)) : State :=
  writeRecord (s.emit (.uart s.tally)) 0
    { tag := 0, opc := 0, status := status, sq := 0, kind := 4, slot := 0,
      body := recBody ((8, 1, ev) :: (0x18, 7, s.tally.toNat) :: details), more := false, irq := false, closes := none }

/-- The ring that receives a submission ring's records. -/
def cqOf (s : State) (sq : RingId) : RingId := s.subs[sq].cq

/-- The KIND 0 record of a descriptor other than LAUNCH, with its RESULT (R261). -/
def completeDesc (s : State) (h : DHead) (status result : Nat) (closes : Option Nat) : State :=
  let s := traceDispatch s h.sq h.slot h.word
  writeRecord s (cqOf s h.sq)
    { tag := h.tag, opc := h.opc, status := status, sq := h.sq.1, kind := 0, slot := h.slot,
      body := recBody [(8, 8, result)], more := false, irq := h.irq, closes := closes }

/-- Answer an accepted descriptor that is done at once: it stays an open work item until its record has been written (R247). -/
def answerDesc (s : State) (h : DHead) (status result : Nat) : State :=
  completeDesc { s with
    items := s.items ++ [{ id := s.nextItem, h := h, ordered := false, kind := .answered, closing := true }],
    nextItem := s.nextItem + 1 } h status result (some s.nextItem)

/-- Complete an open work item with its last record. -/
def completeItem (s : State) (i : Item) (status result : Nat) : State :=
  completeDesc s i.h status result (some i.id)

/-- Status codes (Table 10.9). -/
def stOK : Nat := 0x00
def stFlagged : Nat := 0x01
def stLate : Nat := 0x02
def stMalformed : Nat := 0x10
def stUnsupported : Nat := 0x11
def stBadAddress : Nat := 0x12
def stRefused : Nat := 0x21
def stLocked : Nat := 0x22
def stStale : Nat := 0x23
def stFenced : Nat := 0x40
def stSpare : Nat := 0x41
def stChecksum : Nat := 0x50
def stSecurity : Nat := 0x60
def stInternal : Nat := 0x7F

/-! Rings that stop (R243). -/

/-- Stop a submission ring with an error and report event 0x03. -/
def stopSub (s : State) (sq : RingId) (err : Nat) : State :=
  let q := { s.subs[sq] with stopped := true, err := err, active := false, lineHeld := false, lineReading := false,
                             lineAgain := false, fetching := 0, fetched := [] }
  eventRecord { s with subs := vset s.subs sq q } 3 0 [(9, 1, sq.1), (10, 1, err)]

/-- Stop a completion ring with an error and report event 0x03. -/
def stopComp (s : State) (cq : RingId) (err : Nat) : State :=
  let q := s.comps[cq]
  let gone := q.waiting.filterMap (·.closes)
  let q' := { q with stopped := true, err := err, active := false, lineHeld := false, lineReading := false, waiting := [],
                     full := false,
                     dropped := min (q.dropped + q.waiting.length) 0xFFFF }
  let s := { s with
    comps := vset s.comps cq q',
    items := s.items.filter fun i => ! gone.contains i.id }
  eventRecord s 3 0 [(9, 1, 128 + cq.1), (10, 1, err)]

/-! The device state (R402). -/

/-- The device's state, or 0 before configuration space is ready. -/
def stateCode (s : State) : Nat := match s.life.state with | some d => d.code | none => 0

/-- Change the device state and report event 0x01 (R402, R266). -/
def setState (s : State) (d : DevState) : State :=
  if s.life.state = some d then s
  else
    let old := stateCode s
    eventRecord { s with life := { s.life with state := some d } } 1 (if d = .degraded then stSpare else 0)
      [(9, 1, d.code), (10, 1, old)]

/-- Columns exhausted under R362, domains lost under R375. -/
def maskExhausted (m : BitVec 13) : Bool := decide (2 ≤ ((List.range 13).filter fun i => m.getLsbD i).length)
def anyExhausted (s : State) : Bool :=
  (List.finRange 16).any fun c => maskExhausted s.life.masks[c] || s.power.domains[c].lost

/-- The slide entry a fence mask gives (R362). -/
def slideOf (m : BitVec 13) : Fin 16 :=
  match (List.range 13).find? fun i => m.getLsbD i with
  | none => 15
  | some i => Fin.ofNat 16 i

/-- READY's conditions (R409): the Tally is aligned, or this chip is the grand tally or follows TALLY_REF, and an epoch is in
use. -/
def readyConditions (s : State) : Bool := s.align.okDone && s.fabric.inUse.isSome

end Sys2Proof.Machine
end

