-- ==== Sys2Proof/Machine/Packets.lean ====
section
/-! DEFINITION. Gehus packets: their fields and bytes, the choice of a link, transmission under credits, delivery to cores of
this chip and the journal (R278 to R304, R352 to R361). -/
namespace Sys2Proof.Machine

/-! Fields (Tables 11.3 to 11.6). -/

def tyLINK : Nat := 0x0
def tyPOST : Nat := 0x1
def tyACK : Nat := 0x2
def tyREADREQ : Nat := 0x3
def tyTALLY : Nat := 0x4
def tyREDCTL : Nat := 0x6
def tySEND : Nat := 0x8
def tyREADRESP : Nat := 0x9
def tyREDDATA : Nat := 0xA

end Sys2Proof.Machine

namespace Sys2Proof
open Machine

/-- Bits of the type-specific bytes. -/
def Packet.ex (p : Packet) (lo len : Nat) : Nat := field p.ext.toNat lo len
/-- A data packet (R278). -/
def Packet.isData (p : Packet) : Bool := decide (8 ≤ p.ty)
/-- Tracked end to end (Table 11.4). -/
def Packet.isTracked (p : Packet) : Bool :=
  p.ty = tyPOST || p.ty = tyREADREQ || p.ty = tySEND || p.ty = tyREDDATA || p.ty = tyREDCTL
/-- Link-local packets (Table 11.4). -/
def Packet.isLocal (p : Packet) : Bool := p.ty = tyLINK || p.ty = tyTALLY
/-- SEG of a SEND, PKT of a RED_DATA (R342); other packets count as packet 0. -/
def Packet.seg (p : Packet) : Nat := if p.ty = tySEND then p.ex 48 16 else if p.ty = tyREDDATA then p.ex 64 16 else 0
/-- LAUNCH (R281); RED_CTL carries none (Table 12.8). -/
def Packet.launch (p : Packet) : Nat := if p.isData then p.ex 96 32 else if p.ty = tyREDCTL then 0 else p.ex 0 32
/-- TARGET of a SEND (R208). -/
def Packet.target (p : Packet) : Nat := if p.ty = tySEND then p.ex 27 3 else 0

/-- The bytes the CRC covers (R282). -/
def Packet.bytes (p : Packet) : List Byte :=
  [BitVec.ofNat 8 (p.ty + p.vc * 16 + p.epoch.1 * 64 + (if p.sec then 128 else 0)), BitVec.ofNat 8 (p.hops + p.rsv * 32)] ++
    toBytes 2 p.dst ++ toBytes 2 p.src ++ toBytes 1 p.dstCore ++ toBytes 1 p.srcCore ++ toBytes 4 p.index ++
    toBytes 4 p.sent ++ toBytes (if p.isData then 16 else 8) p.ext.toNat ++ (if p.isData then p.payload else [])

/-- Bytes on the link (R278) and credit units (R284). -/
def Packet.size (p : Packet) : Nat := if p.isData then 40 + p.payload.length else 32
def Packet.units (p : Packet) : Nat := if p.isLocal then 0 else ceilDiv p.size 32

/-- The type's own reserved bits and encodings, clear (R279, Tables 11.5, 11.6). -/
def Packet.typeOk (p : Packet) : Bool :=
  match p.ty with
  | 0x0 => field p.index 17 15 = 0 && p.dstCore = 0 && p.srcCore = 0
  | 0x1 => p.ex 38 26 = 0
  | 0x2 => true
  | 0x3 => p.ex 0 6 = 0 && p.ex 43 21 = 0
  | 0x4 => true
  | 0x6 => decide (p.ex 48 4 < 3)
  | 0x8 => p.ex 30 2 = 0 && p.ex 36 12 = 0 && p.ex 80 16 = 0 && decide (p.ex 27 3 < 6)
  | 0x9 => p.ex 8 24 = 0 && p.ex 36 92 = 0 && decide (p.ex 0 8 < 3)
  | 0xA => p.ex 39 1 = 0
  | _ => false

/-- A packet without a reserved type, bit or encoding (R279); its payload is as long as LEN says. -/
def Packet.ok (p : Packet) : Bool :=
  p.rsv = 0 && decide (p.dst < 2 ^ 15) && decide (p.src < 2 ^ 15) && decide (p.vc < 4) && decide (p.hops < 32) && p.typeOk &&
    (if p.isData then p.payload.length = 64 * (p.ex 32 4 + 1) else p.payload = [])

end Sys2Proof

namespace Sys2Proof.Machine

/-- The type-specific bytes from fields (offset bit, value). -/
def extOf (fs : List (Nat × Nat)) : BitVec 128 := BitVec.ofNat 128 (fs.foldl (fun x (o, v) => x + v <<< o) 0)

/-- Count a discard (R279, R292, R295, R301). -/
def discardPacket (s : State) : State := s.countRun fun c => { c with pktDiscards := sat64 c.pktDiscards 1 }

/-! Chips and links. -/

def chipX (c : Nat) : Nat := field c 11 4
def chipY (c : Nat) : Nat := field c 7 4
def chipZ (c : Nat) : Nat := field c 3 4
def chipSlot (c : Nat) : Nat := c % 8
/-- A coordinate of a chip ID, and the torus size of a dimension 0 X, 1 Y, 2 Z. -/
def chipDim (c dim : Nat) : Nat := if dim = 0 then chipX c else if dim = 1 then chipY c else chipZ c
def torusSize (s : State) (dim : Nat) : Nat :=
  if dim = 0 then s.fabric.fabId.dx else if dim = 1 then s.fabric.fabId.dy else s.fabric.fabId.dz
/-- A chip ID with one coordinate replaced. -/
def withDim (c dim v : Nat) : Nat :=
  if dim = 0 then setField c 11 4 v else if dim = 1 then setField c 7 4 v else setField c 3 4 v
/-- The first link of the + or - pair of a dimension (Table 11.2). -/
def dimLink (dim : Nat) (up : Bool) : Nat := 8 + 4 * dim + (if up then 0 else 2)
/-- The dimension and direction of a torus link; none for an intra-node one. -/
def linkDim (l : LinkId) : Option (Nat × Bool) := if l.1 < 8 then none else some ((l.1 - 8) / 4, (l.1 - 8) % 4 < 2)
/-- The expected partner of a link (Table 11.2). -/
def expectedPartner (s : State) (l : LinkId) : Nat :=
  let own := s.chipId
  match linkDim l with
  | none => own - chipSlot own + (if l.1 = 7 then chipSlot own ^^^ 1 else chipSlot own ^^^ (l.1 + 1))
  | some (dim, up) =>
    let d := torusSize s dim
    let x := chipDim own dim
    withDim own dim (if d = 0 then x else if up then (x + 1) % d else (x + d - 1) % d)
/-- A link that carries routed packets. -/
def linkUp (s : State) (code : Nat) : Bool := if h : code < 20 then decide (s.fabric.links[(⟨code, h⟩ : LinkId)].st = .up) else false

/-! Routing (R294 to R296). -/

/-- `pair(a, b)` of R296. -/
def pairLinks (srcCore a b : Nat) : Nat × Nat := if srcCore % 2 = 0 then (a, b) else (b, a)

/-- The dimension-order choice of R296 as (PRIMARY, SECONDARY) codes of Table 11.8. -/
def dimOrder (s : State) (srcCore d : Nat) : Nat × Nat :=
  let own := s.chipId
  if d = own then (0x1F, 0x1F)
  else if chipSlot d ≠ chipSlot own then
    let n := (chipSlot own ^^^ chipSlot d) - 1
    if n = 0 then pairLinks srcCore 0 7 else (n, 0)
  else
    match (List.range 3).find? fun i => chipDim d i ≠ chipDim own i with
    | none => (0x1E, 0x1E)
    | some i =>
      let n := torusSize s i
      if n = 0 then (0x1E, 0x1E)
      else
        let l := dimLink i (2 * ((chipDim d i + n - chipDim own i % n) % n) ≤ n)
        pairLinks srcCore l (l + 1)

/-- The entry for a destination in an epoch (Table 11.8); none when the epoch has no loaded table. -/
def routeEntry (s : State) (epoch : Fin 2) (srcCore d : Nat) : Option (Nat × Nat) :=
  match s.fabric.routes[epoch] with
  | .none => none
  | .algo => some (dimOrder s srcCore d)
  | .table es => let e := es.getD d 0x3DE; some (field e 0 5, field e 5 5)

/-- A packet that came over an intra-node link crossed it on a SECONDARY choice: its source had SEC set, or in dimension-order mode the
PRIMARY choice would have led to the destination's slot. DEDUCED (log entry 86): a table's choice at another chip is not known here. -/
def crossedSecond (s : State) (p : Packet) : Bool :=
  p.sec || (decide (s.fabric.routes[p.epoch] = .algo) && decide (chipSlot p.dst ≠ chipSlot s.chipId))

/-- The link a routed packet leaves by (R295): none when it is discarded. `source` says that this chip is its source,
`ingress` by which link it came. A SECONDARY path's further intra-node hop is on the PRIMARY (R296; log entry 86). -/
def chooseLink (s : State) (p : Packet) (source : Bool) (ingress : Option LinkId) : Option LinkId :=
  match routeEntry s p.epoch p.srcCore p.dst with
  | none => none
  | some (prim, sec) =>
    let second := (source && p.sec) || (decide (prim < 20) && !linkUp s prim)
    let code := if second then sec else prim
    let cameInside := match ingress with | some l => (linkDim l).isNone | none => false
    if h : code < 20 then
      if !linkUp s code then none
      else if second && decide (code < 8) && cameInside && crossedSecond s p then none
      else some ⟨code, h⟩
    else none

/-- The virtual channel of a packet on the link it leaves by (R286): 0 C, 1 D0, 2 D1, 3 E. -/
def chooseVc (s : State) (p : Packet) (ingress : Option LinkId) (out : LinkId) : Nat :=
  if p.ty = tyPOST || p.ty = tyREADREQ then 0
  else if p.ty = tyACK || p.ty = tyREDCTL || p.ty = tyREDDATA then 3
  else
    match ingress with
    | none => 1
    | some i =>
      match linkDim out, linkDim i with
      | none, none => 2
      | none, some _ => 1
      | some _, none => 1
      | some (d, up), some (d', up') =>
        if d = d' && up ≠ up' then
          let own := chipDim s.chipId d
          let crossed := if up then own = 0 else own + 1 = torusSize s d
          if p.vc = 2 || crossed then 2 else 1
        else 1

/-! Transmission (R284 to R287). -/

def Credits.get (c : Credits) (vc : Nat) : Nat := if vc = 0 then c.c else if vc = 1 then c.d0 else if vc = 2 then c.d1 else c.e
def Credits.add (c : Credits) (vc n : Nat) : Credits :=
  if vc = 0 then { c with c := c.c + n } else if vc = 1 then { c with d0 := c.d0 + n }
  else if vc = 2 then { c with d1 := c.d1 + n } else { c with e := c.e + n }
def Credits.take (c : Credits) (vc n : Nat) : Credits :=
  if vc = 0 then { c with c := c.c - n } else if vc = 1 then { c with d0 := c.d0 - n }
  else if vc = 2 then { c with d1 := c.d1 - n } else { c with e := c.e - n }

def modLink (s : State) (l : LinkId) (f : Link → Link) : State :=
  { s with fabric := { s.fabric with links := vmod s.fabric.links l f } }

/-- INDEX of a TALLY packet that begins an exchange (DESIGN CHOICE log entry 23). -/
def tallyAsk : Nat := 2 ^ 31

/-- The epoch of what this chip transmits as a source: from AT on the switch's (R298). -/
def epochNow (s : State) : Option (Fin 2) :=
  match s.fabric.switch with
  | some (e, t) => if t ≤ s.tally.toNat then some e else s.fabric.inUse
  | none => s.fabric.inUse

/-- A routed packet that this chip transmits as its source. -/
def isOwn (s : State) (p : Packet) : Bool := !p.isLocal && decide (p.src = s.chipId ∧ p.hops = 1)

/-- A packet of this chip's that waits since before AT: it goes out under the new epoch, when the switch has taken effect (R298). -/
def outdated (s : State) (p : Packet) : Bool := isOwn s p && decide (p.epoch ≠ (epochNow s).getD 0)

/-- SENT at this transmission, and a TALLY packet's own stamp (R278, R306). -/
def wireStamp (s : State) (p : Packet) : Packet :=
  let now := s.tally.toNat
  if p.ty = tyTALLY then { p with hops := 1, sent := now % 2 ^ 32, ext := extOf [(0, now)] }
  else if p.ty = tyLINK then { p with hops := 1, sent := now % 2 ^ 32 }
  else if isOwn s p then { p with sent := now % 2 ^ 32 }
  else p

/-- Put a packet on the wire: the next LSEQ, the LACK, its CRC; keep it for the resend buffer (R282, R287). -/
def putOnWire (s : State) (l : LinkId) (p : Packet) : State :=
  let k := s.fabric.links[l]
  let p := wireStamp s p
  let p := { p with lseq := k.txSeq, lack := k.rxSeq, crc := crc32c p.bytes }
  let s := modLink s l fun k =>
    { k with txSeq := (k.txSeq + 1) % 65536, resend := k.resend ++ [p], credit := k.credit.take p.vc p.units,
             stuckAt := if k.resend.isEmpty then s.align.ticks else k.stuckAt,
             tallyT1 := if p.ty = tyTALLY && p.index = tallyAsk then some s.tally.toNat else k.tallyT1 }
  s.emit (.packet l p)

/-- Room in the resend buffer (R287). -/
def resendRoom (k : Link) : Bool := decide (k.resend.length < 1024)

/-- The first queued packet of a channel for which the credits suffice. -/
def readyOn (s : State) (k : Link) (vc : Nat) : Option Packet :=
  match k.txq.find? fun p => !p.isLocal && p.vc = vc && !outdated s p with
  | some p => if p.units ≤ k.credit.get vc then some p else none
  | none => none

/-- The transmitter's next packet (R285): TALLY, then LINK, then C, then E, D1 and D0 in turn; with the turn after it. -/
def nextPacket (s : State) (k : Link) : Option (Packet × Fin 3) :=
  match (k.txq.find? fun p => decide (p.ty = tyTALLY)) <|> k.txq.find? (·.isLocal) with
  | some p => some (p, k.turn)
  | none =>
    match readyOn s k 0 with
    | some p => some (p, k.turn)
    | none =>
      ((List.range 3).filterMap fun i =>
        let t : Fin 3 := Fin.ofNat 3 (k.turn.1 + i)
        (readyOn s k (3 - t.1)).map fun p => (p, t + 1)).head?

/-- Transmit what the credits and the resend buffer allow; the fuel is the number of queued packets. -/
def pumpLink : Nat → State → LinkId → State
  | 0, s, _ => s
  | n + 1, s, l =>
    let k := s.fabric.links[l]
    if k.st = .up || k.st = .miswired then
      if resendRoom k then
        match nextPacket s k with
        | none => s
        | some (p, t) =>
          pumpLink n (putOnWire (modLink s l fun k => { k with txq := k.txq.erase p, turn := t }) l p) l
      else s
    else s

/-- Queue a packet on a link and transmit. -/
def queueOn (s : State) (l : LinkId) (p : Packet) : State :=
  let s := modLink s l fun k => { k with txq := k.txq ++ [p] }
  pumpLink (s.fabric.links[l]).txq.length s l

/-- Send a routed packet on a link: its channel and its count of links crossed (R278, R286). -/
def leaveBy (s : State) (p : Packet) (ingress : Option LinkId) (l : LinkId) : State :=
  queueOn s l { p with vc := chooseVc s p ingress l, hops := (p.hops + 1) % 32 }

/-- Route a packet out of this chip, or discard it (R295). -/
def routeOut (s : State) (p : Packet) (source : Bool) (ingress : Option LinkId) : State :=
  match chooseLink s p source ingress with
  | some l => leaveBy s p ingress l
  | none => discardPacket s

/-! Line multicast (R303). -/

/-- The dimension of a line multicast. -/
def lineDim (p : Packet) : Option Nat := if 3 ≤ p.target then some (p.target - 3) else none

/-- A total that goes to every chip of a torus line (R322). DESIGN CHOICE (log entry 38): its DST_CHIP names its source, since no field of
RED_DATA holds a TARGET; the line is that of the link it comes by. -/
def redLine (p : Packet) : Bool := decide (p.ty = tyREDDATA ∧ p.ex 37 1 = 1 ∧ p.dst = p.src)

/-- The first chip of the line that a packet reaches, on routes that visit X, then Y, then Z (R297). -/
def lineFirst (p : Packet) (dim : Nat) : Nat :=
  if (List.range 3).all fun i => i ≤ dim || chipDim p.src i = chipDim p.dst i then withDim p.dst dim (chipDim p.src dim) else p.dst

/-- This chip lies on the line. -/
def onLine (s : State) (p : Packet) (dim : Nat) : Bool := withDim s.chipId dim 0 = withDim p.dst dim 0

/-- Send a copy on in one direction of the line, by the pair R296 chooses, or its other link: while the first is DOWN, or at the source
with SEC set (R295). -/
def lineCopy (s : State) (p : Packet) (ingress : Option LinkId) (dim : Nat) (up : Bool) : State :=
  let (a, b) := pairLinks p.srcCore (dimLink dim up) (dimLink dim up + 1)
  let code := if (ingress.isNone && p.sec) || !linkUp s a then b else a
  if h : code < 20 then (if linkUp s code then leaveBy s p ingress ⟨code, h⟩ else discardPacket s) else discardPacket s

/-- The copies a chip of the line sends on (R303). -/
def lineForward (s : State) (p : Packet) (ingress : Option LinkId) (dim : Nat) : State :=
  let d := torusSize s dim
  if d ≤ 1 then s
  else
    let own := chipDim s.chipId dim
    let first := chipDim (lineFirst p dim) dim
    let above := (own + d - first % d) % d
    let below := (first + d - own % d) % d
    let inLine (up : Bool) : Bool := match ingress.bind linkDim with | some (i, u) => i = dim && u ≠ up | none => false
    let s := if above = 0 then (if decide (0 < d / 2) then lineCopy s p ingress dim true else s)
      else if inLine true && decide (above < d / 2) then lineCopy s p ingress dim true else s
    if above = 0 then (if decide (0 < d - 1 - d / 2) then lineCopy s p ingress dim false else s)
    else if inLine false && decide (below < d - 1 - d / 2) then lineCopy s p ingress dim false else s

/-- Send a line multicast from this chip, or on from it: copies along the line, or as a unicast towards it. -/
def lineOut (s : State) (p : Packet) (source : Bool) (ingress : Option LinkId) (dim : Nat) : State :=
  let here := s.chipId = lineFirst p dim || (onLine s p dim && (match ingress.bind linkDim with
    | some (i, _) => i = dim | none => false))
  if here then lineForward s p ingress dim else routeOut s p source ingress

/-! Transmission as a source (R288, R291, R298). -/

/-- Stamp a packet for transmission by its source. -/
def stamp (s : State) (p : Packet) : Packet :=
  { p with epoch := (epochNow s).getD 0, sent := s.tally.toNat % 2 ^ 32, hops := 0 }

/-- The direct link of a RED_DATA within its node: between pair partners L0 for an even PKT and L7 for an odd one, or the
other while one is DOWN (R321); a total to another slot its link of Table 11.2 (R322). -/
def redLink (s : State) (p : Packet) : Option LinkId :=
  let own := s.chipId
  if p.ty ≠ tyREDDATA || p.dst = own || p.dst / 8 ≠ own / 8 then none
  else
    let x := chipSlot own ^^^ chipSlot p.dst
    if x = 1 then
      let (a, b) : LinkId × LinkId := if p.seg % 2 = 0 then (0, 7) else (7, 0)
      if s.fabric.links[a].st = .up then some a else if s.fabric.links[b].st = .up then some b else none
    else if p.ex 37 1 = 1 && linkUp s (x - 1) then some (Fin.ofNat 20 (x - 1))
    else none

/-- Transmit a packet as its source. -/
def sendSource (s : State) (p : Packet) : State :=
  let p := stamp s p
  match redLink s p with
  | some l => leaveBy s p none l
  | none =>
  match lineDim p with
  | some dim => lineOut s p true none dim
  | none => routeOut s p true none

/-- Transmit a packet as its source, along a line where one is given (R322). -/
def sendAs (s : State) (p : Packet) (line : Option Nat) : State :=
  match line with
  | some dim => lineForward s (stamp s p) none dim
  | none => sendSource s p

/-- A packet of this chip. -/
def ownPacket (s : State) (ty dst dstCore srcCore index : Nat) (ext : BitVec 128) (payload : List Byte) : Packet :=
  { ty := ty, vc := 0, epoch := 0, sec := false, hops := 0, rsv := 0, dst := dst, src := s.chipId, dstCore := dstCore,
    srcCore := srcCore, index := index % 2 ^ 32, sent := 0, ext := ext, payload := payload, crc := 0, lseq := 0, lack := 0 }

/-- Room for `n` more tracked packets (R288). -/
def trackRoom (s : State) (n : Nat) : Bool := decide (s.fabric.tracked.length + n ≤ Config.trackedDepth)

/-- Keep a packet until every member has acknowledged it, and transmit it (R288). -/
def sendTracked (s : State) (p : Packet) (members : Nat) (acked : List Nat) (line : Option Nat := none) : State :=
  let t : Tracked := ⟨p, members, acked, s.tally.toNat, 0, line⟩
  sendAs { s with fabric := { s.fabric with tracked := s.fabric.tracked ++ [t] } } p line

/-! Delivery to cores of this chip (R208, R300 to R304, R358). -/

/-- Bits [31:0] of the active launch's start count (R281). -/
def launchTag (s : State) : Option Nat :=
  match s.launch with
  | some l => if s.launchActive then some (l.d.start % 2 ^ 32) else none
  | none => none

/-- Does a core take part in the launch (R301)? -/
def coreTakesPart (s : State) (c : CoreId) : Bool := (s.core c).threads.any Thread.takesPart

/-- Cores that a packet with a TARGET addresses on this chip, of those that take part. -/
def membersOf (s : State) (target dstCore : Nat) : List CoreId :=
  let all : List Nat :=
    if target = 1 then (List.range 16).map fun c => 16 * (dstCore / 16) + c
    else if target = 2 then (List.range 12).map fun r => 16 * r + dstCore % 16
    else [dstCore]
  (all.filter (· < 192)).filterMap fun n =>
    let c : CoreId := Fin.ofNat 192 n
    if coreTakesPart s c then some c else none

/-- Write a delivery to its bench and count its event (R208). -/
def applyDelivery (s : State) (d : Delivery) : State :=
  let s := benchWrite s d.core d.addr d.data
  if d.counts then incEvent s d.core d.ev else s

/-- In replay mode (R354)? -/
def inReplay (s : State) : Bool := match s.launch with | some l => l.replay | none => false

/-- Journal a delivery from outside, and apply it unless the chip is in replay mode (R354, R358). -/
def journalDelivery (s : State) (d : Delivery) (total : Option (Nat × Nat × Nat)) : State :=
  let now := !inReplay s
  let s := s.modLaunch fun l => { l with journal := l.journal ++ [⟨d, now, total⟩] }
  if now then applyDelivery s d else s

/-- Bytes of the journal's room (Table 13.2) and bytes in use. -/
def journalRoom (l : Launch) : Nat := l.d.anchorBytes - 2 * Config.anchorHalf - roundUp (16 * l.d.vvCap) 4096
def journalUsed (l : Launch) : Nat := l.journal.foldl (fun n e => n + e.d.data.length) 0
/-- Is there journal room for a delivery of `n` bytes (R361)? -/
def journalFits (s : State) (n : Nat) : Bool :=
  match s.launch with
  | some l => decide (journalUsed l + n ≤ journalRoom l)
  | none => true

/-- The column and site row where a packet enters the mesh (R300, Table 1.4). -/
def entryOf (ingress : LinkId) : Nat := if ingress.1 < 10 then 0 else 15

/-- Mesh cycles of the remap detours of a row multicast that enters in a column (R302): two for each change of site row from
one member to the next. -/
def rowDetours (slide : Vector (Fin 16) 16) (row entry : Nat) (members : List CoreId) : Nat :=
  let siteR (col : Nat) : Nat := siteRow slide[(Fin.ofNat 16 col : Fin 16)] row
  let isM (col : Nat) : Bool := members.any fun m => (coreCol m).1 = col
  let walk (cols : List Nat) : Nat := (cols.foldl (fun (at_, n) c =>
    if isM c then (siteR c, if siteR c = at_ then n else n + 2) else (at_, n)) (siteR entry, 0)).2
  walk ((List.range 16).filter (entry < ·)) + walk ((List.range 16).filter (· < entry)).reverse

/-- Count the detours of a multicast of some packets on the receiving launch (R302). -/
def countDetours (s : State) (slide : Vector (Fin 16) 16) (packets target dstCore entry : Nat) (members : List CoreId) : State :=
  let n := if target = 1 then packets * rowDetours slide (dstCore / 16) entry members else 0
  if n = 0 then s else (s.count fun c => { c with detCycles := sat64 c.detCycles n }).flagExc excDET

/-- The latest fence in service has moved a core to another site. -/
def hasMoved (s : State) (c : CoreId) : Bool :=
  decide (siteRow s.life.slideWas[coreCol c] (coreRow c) ≠ siteRow s.life.slide[coreCol c] (coreRow c))

/-- A delivery that is dropped at a site its core has left: it waits in the journal (R364). -/
def journalDropped (s : State) (d : Delivery) : State :=
  s.modLaunch fun l => { l with journal := l.journal ++ [⟨d, false, none⟩] }

/-- What one packet from outside does at the cores it reaches: the members reached and those dropped at a stale site. `early` says that
its members were resolved before the latest fence in service changed the slide (R300, R304, R364). -/
def deliverTo (s : State) (early : Bool) (target dstCore entry addr : Nat) (data : List Byte) (ev : EventId) (counts : Bool) :
    State × Nat × Nat :=
  let ms := membersOf s target dstCore
  let gone := if early then ms.filter (hasMoved s) else []
  let s := if ms.isEmpty then discardPacket s
    else countDetours s (if early then s.life.slideWas else s.life.slide) 1 target dstCore entry ms
  (ms.foldl (fun s c =>
    let d : Delivery := ⟨c, addr, data, ev, counts⟩
    if gone.contains c then journalDropped s d else journalDelivery s d none) s, ms.length - gone.length, gone.length)

/-- What a send or post of a core of this chip does at the cores it reaches: its packets' detours each (R302). -/
def deliverHere (s : State) (target dstCore entry addr : Nat) (data : List Byte) (ev : EventId) : State :=
  let ms := membersOf s target dstCore
  let s := if ms.isEmpty then discardPacket s
    else countDetours s s.life.slide (max 1 (ceilDiv data.length 1024)) target dstCore entry ms
  ms.foldl (fun s c => applyDelivery s ⟨c, addr, data, ev, true⟩) s

/-- Apply journaled deliveries that wait, in journal order, while `want` holds of a delivery and `more` of the state (R354).
The fuel is the journal's length. -/
def applyWaiting (want : Delivery → Bool) (more : State → Bool) : Nat → State → State
  | 0, s => s
  | n + 1, s =>
    if more s then
      match s.launch with
      | none => s
      | some l =>
        match l.journal.findIdx? (fun e => !e.applied && want e.d) with
        | none => s
        | some i =>
          match l.journal[i]? with
          | none => s
          | some e =>
            let s := s.modLaunch fun l => { l with journal := l.journal.set i { e with applied := true } }
            applyWaiting want more n (applyDelivery s e.d)
    else s

end Sys2Proof.Machine
end

