-- ==== Sys2Proof/Machine/Clock.lean ====
section
/-! DEFINITION. The Tally's own count: what an idle step does (R6, R307), and the waits it measures (R288, R361). -/
namespace Sys2Proof.Machine

/-- The chip may go to S3 (R388): no LAUNCH, no open reduce group, no pending switch, not the grand tally, the HDM window closed,
nothing unacknowledged or being restored, tracing off. -/
def mayS3 (s : State) : Bool :=
  (s.items.all fun i => match i.kind with | .launch _ => i.closing | .epochSwitch _ _ => i.closing | _ => true) && s.launch.isNone &&
    (s.red.groups.all fun g => g.isNone) && s.fabric.switch.isNone && decide (s.align.role ≠ some 1) && !s.hdmOn &&
    s.fabric.tracked.isEmpty && s.fabric.reads.isEmpty && !s.trace.enabled && !s.trace.draining && s.power.colRails

/-- Since when the chip has been eligible for S3. -/
def eligibleSince (s : State) : Option Nat := if mayS3 s then some (s.power.eligible.getD s.tally.toNat) else none

/-- Mesh cycles up to a tick (Table 1.6: divider 9 to the Tally's 24). -/
def meshCycles (ticks : Nat) : Nat := 8 * ticks / 3

/-- Tracked packets that a held effect's release needs room for (R288). -/
def heldPackets (s : State) : Held → Nat
  | .send _ span d _ target => if d.chip = s.chipId && decide (target ≤ 2) then 0 else ceilDiv span.len 1024
  | .post _ d _ => if d.chip = s.chipId then 0 else 1
  | _ => 0

/-- A release or a READ_REQ waits for room among the tracked packets (R288). -/
def e2eWaits (s : State) : Bool :=
  !trackRoom s 2048 &&
    ((!trackRoom s 1 && s.fabric.reads.any fun q => !q.sent) ||
      s.participants.any fun r =>
        match (s.th r).st, (s.th r).hold with
        | .committing _, h :: _ => !trackRoom s (heldPackets s h)
        | _, _ => false)

/-- A packet in an input buffer, or a total, waits for room in the journal (R361). -/
def journalWaits (s : State) : Bool :=
  (s.fabric.held.any fun (_, p) => (p.ty = tySEND || p.ty = tyPOST) && !journalFits s p.payload.length) ||
    s.red.insts.any fun (_, i) => match i.got with
      | some (false, _, _) => !journalFits s (i.contribs.foldl (fun n c => n + c.span.len) 0)
      | _ => false

/-- The mesh cycles of a tick, counted for what waits (R288, R361). -/
def countWaits (s : State) : State :=
  let n := meshCycles (s.align.ticks + 1) - meshCycles s.align.ticks
  let a := if e2eWaits s then n else 0
  let b := if journalWaits s then n else 0
  if a + b = 0 then s else s.count fun c => { c with e2eFull := sat64 c.e2eFull a, journalFull := sat64 c.journalFull b }

/-- One Tally tick (R307): the rate goes into the phase accumulator, and the count advances by 1, more a carry, less a
borrow. It counts once the PLL has locked. A launch whose throttle level, or level in force, is below its launch level is throttled for the tick
(R399). The time
since the start and the time of eligibility for S3 run with it. -/
def tick (s : State) : State :=
  if s.power.pll then
    let x : Int := s.align.acc + s.align.rate
    let c : Int := if x < 0 then -1 else if 2 ^ 32 ≤ x then 1 else 0
    let slow : Bool := match s.launch with
      | some l => decide (l.st = LaunchSt.active) && decide (l.level < s.power.throttle ∨ l.level < s.power.level)
      | none => false
    let s : State := countWaits s
    let s : State := if slow then (s.count fun c => { c with thrTicks := sat64 c.thrTicks 1 }).flagExc excTHR else s
    let s : State := { s with power := { s.power with eligible := eligibleSince s, upTicks := s.power.upTicks + 1 } }
    let s' : State := { s with tallyPrev := s.tally, tally := s.tally + BitVec.ofInt 64 (1 + c),
                               align := { s.align with acc := wrap 32 x, ticks := s.align.ticks + 1 } }
    let s' : State := if c = 0 then s' else
      { s' with align := { s'.align with runs := (s'.tally.toNat, s'.align.ticks) :: s'.align.runs } }
    if s.align.refOut && decide (s.tally.toNat / 2 ^ 19 < s'.tally.toNat / 2 ^ 19) then s'.emit .refEdge else s'
  else s

end Sys2Proof.Machine
end

