-- ==== Sys2Proof/Machine/Counters.lean ====
section
/-! DEFINITION. Counters by their IDs (Table 17.1), their samples (R458, R459) and their close at a launch's start (R457). -/
namespace Sys2Proof.Machine

/-- A launch counter of the chip by its ID. -/
def ChipCtrs.byId (c : ChipCtrs) : Nat → Option Nat
  | 0x01 => some c.refStall | 0x02 => some c.rtyPackets | 0x03 => some c.recCount | 0x04 => some c.recCycles
  | 0x05 => some c.repCount | 0x06 => some c.repTicks | 0x07 => some c.strCycles | 0x08 => some c.thrTicks
  | 0x09 => some c.detCycles | 0x0A => some c.hdmAccesses | 0x20 => some c.e2eFull | 0x21 => some c.journalFull
  | 0x22 => some c.repeatDiscards | 0x23 => some c.traceDropped | _ => none

/-- A launch counter of a core by its ID. -/
def CoreCtrs.byId (c : CoreCtrs) : Nat → Option Nat
  | 0x10 => some c.sbFull | 0x11 => some c.cueMiss | 0x12 => some c.bankStall | 0x13 => some c.awaitCycles
  | 0x14 => some c.windowWait | 0x15 => some c.windowOverrun | 0x16 => some c.entropyWait | 0x17 => some c.issued
  | _ => none

/-- A running counter by its ID. -/
def RunCtrs.byId (c : RunCtrs) : Nat → Option Nat
  | 0x100 => some c.recomputes | 0x101 => some c.fences | 0x102 => some c.replays | 0x103 => some c.restores
  | 0x104 => some c.laneRepairs | 0x105 => some c.pcRetired | 0x106 => some c.phasesLost | 0x110 => some c.pktDiscards
  | 0x111 => some c.linkChanges | 0x112 => some c.transient | 0x113 => some c.stored | 0x114 => some c.stackCorrected
  | 0x115 => some c.assayerFails | 0x116 => some c.traceLost | _ => none

/-- The live value that CTRRD reads on a core; none for a reserved ID (R460). -/
def liveCounter (s : State) (c : CoreId) (id : Nat) : Option Nat :=
  match s.ctrs.byId id, (s.core c).live.byId id, s.run.byId id with
  | some v, _, _ => some v
  | _, some v, _ => some v
  | _, _, v => v

/-- A host sample of a counter and its tag (R458, R459): none for a reserved selection. -/
def sampleCounter (s : State) (shadow : Bool) (core id : Nat) : Option (Nat × Nat) :=
  let tag := if shadow then s.ctrSeqOld else s.ctrSeq
  match (if shadow then s.ctrsOld else s.ctrs).byId id, s.run.byId id with
  | some v, _ => some (v, tag)
  | _, some v => some (v, s.ctrSeq)
  | none, none =>
    if core = 0xFF then
      if (coreCtrs0.byId id).isNone then none
      else
        some (s.cores.toList.foldl (fun a k => sat64 a (((if shadow then k.shadow else k.live).byId id).getD 0)) 0, tag)
    else if 12 ≤ core / 16 then none
    else
      let k := s.core (Fin.ofNat 192 core)
      ((if shadow then k.shadow else k.live).byId id).map fun v => (v, tag)

/-- Close every live copy into its shadow copy and clear it, with the new launch's tag (R457). -/
def closeCounters (s : State) (seq : Nat) : State :=
  { s with ctrsOld := s.ctrs, ctrs := chipCtrs0, ctrSeqOld := s.ctrSeq, ctrSeq := seq,
           cores := s.cores.map fun k => { k with shadow := k.live, live := coreCtrs0 } }

end Sys2Proof.Machine
end

