-- ==== Sys2Proof/Machine/Operands.lean ====
section
/-! DEFINITION. The instruction word, its fields and reserved bits (R191, R192, R194, R195, R201, R203 to R205), and the
operand words of Table 8.2. -/
namespace Sys2Proof.Machine

/-! Fields of a word. -/

def fOPC (w : Nat) : Nat := field w 56 8
def fVV (w : Nat) : Bool := bit w 55
def fPN (w : Nat) : Bool := bit w 54
def fPRED (w : Nat) : Fin 8 := Fin.ofNat 8 (field w 51 3)
/-- A register field whose lowest bit is `lo`. -/
def fReg (w lo : Nat) : Fin 32 := Fin.ofNat 32 (field w lo 5)
def fD (w : Nat) : Fin 32 := fReg w 46
def fA (w : Nat) : Fin 32 := fReg w 41
def fB (w : Nat) : Fin 32 := fReg w 36
def fI (w : Nat) : Bool := bit w 35
def fSUB (w : Nat) : Nat := field w 32 3
/-- IMM, 32 bits, as it stands and with its sign. -/
def fIMM (w : Nat) : Nat := field w 0 32
def fSIMM (w : Nat) : Int := signed 32 w
def fEvent (w : Nat) : EventId := Fin.ofNat 64 (field w 40 6)
/-- The event of SEND, POST, GRDY and BUFDEF, in bits [40:35]. -/
def fEvent35 (w : Nat) : EventId := Fin.ofNat 64 (field w 35 6)
def fFUNC (w : Nat) : Nat := field w 20 6

/-- Bits [hi:lo] as a mask. -/
def span (hi lo : Nat) : Nat := 2 ^ (hi + 1) - 2 ^ lo

/-- Sources a VOP function uses (Table 8.7). -/
def vopArity (fn : Nat) : Nat :=
  if fn = 0x03 || fn = 0x0C then 3
  else if fn ≤ 0x05 || (0x08 ≤ fn && fn ≤ 0x10) || (0x12 ≤ fn && fn ≤ 0x16) then 2
  else 1

/-- Body bits that an opcode uses; none for an opcode Table 8.3 reserves (R194, R195, R201, R203 to R205). -/
def usedBits (w : Nat) : Option Nat :=
  let d := span 50 46
  let a := span 45 41
  let b := span 40 36
  let e := span 40 35
  let rhs := if fI w then span 35 35 ||| span 31 0 else b
  match fOPC w with
  | 0x00 | 0x01 | 0x02 => some 0
  | 0x03 => some (a ||| span 15 0)
  | 0x04 => some (span 5 0)
  | 0x05 => some (span 31 0)
  | 0x06 => some (span 47 46 ||| span 31 0)
  | 0x07 => some (span 47 46 ||| a ||| rhs)
  | 0x08 => some (d ||| span 42 41)
  | 0x10 | 0x11 | 0x12 | 0x13 | 0x14 | 0x15 | 0x16 | 0x17 | 0x18 | 0x19 | 0x1A | 0x1B | 0x1C => some (d ||| a ||| rhs)
  | 0x1D => some (d ||| a ||| span 31 0)
  | 0x20 => some (span 48 46 ||| a ||| span 34 32 ||| rhs)
  | 0x22 => some (span 48 46 ||| span 43 41 ||| span 38 36 ||| span 33 32)
  | 0x28 => some (d ||| a ||| span 34 32 ||| span 31 0)
  | 0x29 => some (d ||| a ||| span 33 32 ||| span 31 0)
  | 0x30 | 0x31 | 0x33 => some d
  | 0x32 => some (d ||| span 15 0)
  | 0x34 => some (span 3 0)
  | 0x40 => some (span 50 39)
  | 0x41 => some (span 50 4)
  | 0x42 => some (span 50 17)
  | 0x43 => some (span 35 26)
  | 0x44 => some (d ||| span 35 31)
  | 0x50 =>
    let n := vopArity (fFUNC w)
    let srcs := span 45 41 ||| span 19 19 ||| (if 2 ≤ n then b ||| span 18 18 else 0) |||
      (if 3 ≤ n then span 35 31 ||| span 17 17 else 0)
    some (d ||| srcs ||| span 30 20 ||| span 16 3)
  | 0x51 => some (span 50 21)
  | 0x52 => some (span 50 5)
  | 0x53 => some (span 50 34)
  | 0x54 => some a
  | 0x55 => some (span 50 36)
  | 0x56 => some (span 50 34)
  | 0x60 => some a
  | 0x61 => some (d ||| a ||| e ||| span 31 12 ||| span 7 0)
  | 0x62 => some (d ||| a ||| b)
  | 0x63 => some (d ||| a ||| e ||| span 34 32)
  | 0x64 => some (a ||| e)
  | 0x65 => some (span 45 40 ||| span 31 0)
  | 0x66 => some (d ||| a)
  | 0x67 => some (d ||| e ||| span 34 34 ||| span 31 0 ||| (if bit w 34 then a else 0))
  | _ => none

/-- A field of the word that holds a reserved encoding (R192). -/
def reservedCode (w : Nat) : Bool :=
  match fOPC w with
  | 0x20 => decide (6 ≤ fSUB w)
  | 0x40 => field w 40 4 = 15
  | 0x41 => field w 16 2 = 3 || field w 10 2 = 3 || field w 4 4 = 15
  | 0x42 => field w 29 2 = 3 || field w 25 4 = 15 || field w 23 2 = 3
  | 0x43 => field w 26 2 = 3
  | 0x50 => decide (0x28 ≤ fFUNC w) || field w 15 2 = 3
  | 0x52 => field w 22 2 = 3 || field w 7 4 = 15
  | 0x63 => decide (6 ≤ fSUB w)
  | _ => false

/-- Must the instruction carry the value-varying mark (Table 8.10)? DMA is judged from its descriptor. -/
def markNeeded (w : Nat) : Bool :=
  match fOPC w with
  | 0x30 | 0x31 | 0x32 | 0x62 | 0x66 => true
  | 0x67 => bit w 34
  | _ => false

/-- The faults of decoding (R192), in the order of Table 8.11. -/
def decodeFault (w : Nat) : Option IFault :=
  match usedBits w with
  | none => some .illegalOpcode
  | some used =>
    if (w % 2 ^ 51) &&& ((2 ^ 51 - 1) ^^^ used) ≠ 0 || reservedCode w then some .reservedField
    else if markNeeded w && !fVV w then some .markMissing
    else none

/-- Scalar registers that an instruction reads or writes by its fields (R193, R211). -/
def regFields (w : Nat) : List (Fin 32) :=
  let b := if fI w then [] else [fB w]
  match fOPC w with
  | 0x03 => [fA w]
  | 0x07 => fA w :: b
  | 0x08 | 0x30 | 0x31 | 0x32 | 0x33 | 0x44 => [fD w]
  | 0x10 | 0x11 | 0x12 | 0x13 | 0x14 | 0x15 | 0x16 | 0x17 | 0x18 | 0x19 | 0x1A | 0x1B | 0x1C => fD w :: fA w :: b
  | 0x1D | 0x28 | 0x29 => [fD w, fA w]
  | 0x20 => fA w :: b
  | 0x40 => [fD w]
  | 0x41 => [fD w, fA w]
  | 0x42 => [fD w, fA w, fB w]
  | 0x50 => [fD w, fA w, fB w, fReg w 31, fReg w 26, fReg w 8, fReg w 3]
  | 0x51 => [fD w, fA w, fB w, fReg w 31]
  | 0x52 => [fD w, fA w, fB w, fReg w 31]
  | 0x53 => if bit w 35 then [] else [fD w]
  | 0x55 => [fD w, fB w]
  | 0x56 => [fD w, fA w]
  | 0x60 => [fA w]
  | 0x61 => [fD w, fA w]
  | 0x62 => [fD w, fA w, fB w]
  | 0x63 => [fD w, fA w]
  | 0x64 => [fA w]
  | 0x66 => [fD w, fA w]
  | 0x67 => [fD w, fA w]
  | _ => []

/-! Registers (R188). -/

/-- Read a scalar register; s0 reads zero. -/
def Regs.get (r : Regs) (i : Fin 32) : Word := if i = 0 then 0 else r.s[i]
/-- Write a scalar register; a write of s0 is discarded. -/
def Regs.set (r : Regs) (i : Fin 32) (v : Word) : Regs := if i = 0 then r else { r with s := vset r.s i v }
/-- Read a predicate; p0 reads 1. -/
def Regs.pred (r : Regs) (i : Fin 8) : Bool := i = 0 || r.p.getLsbD i.1
/-- Write a predicate; a write of p0 is discarded. -/
def Regs.setPred (r : Regs) (i : Fin 8) (v : Bool) : Regs :=
  if i = 0 then r else { r with p := (r.p &&& ~~~((1#8) <<< i.1)) ||| (if v then (1#8) <<< i.1 else 0) }

/-- The second operand b of the scalar instructions (R195). -/
def operandB (r : Regs) (w : Nat) : Word := if fI w then BitVec.ofInt 64 (fSIMM w) else r.get (fB w)

/-! Operand words (Table 8.2). -/

/-- A strided word: base, row stride, third field. -/
structure Strided where
  base   : Nat
  stride : Nat
  third  : Nat
deriving DecidableEq, Repr

def stridedWord (v : Word) : Strided := ⟨field v.toNat 0 21, field v.toNat 21 21, field v.toNat 42 21⟩

/-- A vector word: base and format code. -/
structure VecW where
  base : Nat
  fmt  : Nat
deriving DecidableEq, Repr

def vecWord (v : Word) : VecW := ⟨field v.toNat 0 21, field v.toNat 21 4⟩
def spanWord (v : Word) : SpanW := ⟨field v.toNat 0 21, field v.toNat 21 21⟩
def destWord (v : Word) : DestW :=
  ⟨field v.toNat 0 21, field v.toNat 21 4, field v.toNat 25 4, field v.toNat 29 15⟩
/-- The stream ID and index base. -/
def streamWord (v : Word) : Nat × Nat := (field v.toNat 40 24, field v.toNat 0 40)

/-! Lanes (R129, R132, R133) and bench ranges (R160). -/

/-- In split mode an array of the other lane. -/
def otherArray (split : Bool) (t : ThreadId) (a : Nat) : Bool := split && decide ((a < 2) ≠ (t = 0))
/-- In split mode a slot of the other lane. -/
def otherSlot (split : Bool) (t : ThreadId) (n : Nat) : Bool := split && decide ((n < 16) ≠ (t = 0))
/-- In split mode an event of the other lane (R206). -/
def otherEvent (split : Bool) (t : ThreadId) (e : EventId) : Bool := split && decide ((e.1 < 32) ≠ (t = 0))

/-- Bytes of the bench as (address, count). -/
abbrev Spans := List (Nat × Nat)

/-- A span that reaches the other lane's banks. -/
def otherLane (split : Bool) (t : ThreadId) (sp : Spans) : Bool :=
  split && sp.any fun (a, n) =>
    if t = 0 then decide (0 < n ∧ Config.laneB < a + n ∧ a < Config.benchEnd) else decide (0 < n ∧ a < Config.laneB)
/-- A span that leaves the bench. -/
def pastBench (sp : Spans) : Bool := sp.any fun (a, n) => decide (0 < n ∧ Config.benchEnd < a + n)

/-- The first fault of a list whose condition holds. -/
def firstFault (l : List (Bool × IFault)) : Option IFault := (l.find? (·.1)).map (·.2)

/-- The rounding modes of the RMODE fields. -/
def rmodeOf (x : Nat) : RMode := (RMode.ofCode x).getD .rne

/-! Elements in memory. -/

/-- Bytes of `n` elements of a format, packed by R64. -/
def elemBytes (f : Fmt) (n : Nat) : Nat := ceilDiv (n * f.bits) 8

/-- Element codes from bytes: 4-bit elements two to a byte (R64), others little-endian. -/
def unpackElems : Nat → Nat → List Byte → List Nat
  | _, 0, _ => []
  | 4, n + 1, bs =>
    match bs with
    | [] => 0 :: unpackElems 4 n []
    | b :: rest =>
      match n with
      | 0 => [b.toNat % 16]
      | k + 1 => b.toNat % 16 :: b.toNat / 16 :: unpackElems 4 k rest
  | bits, n + 1, bs => ofBytes (bs.take (bits / 8)) :: unpackElems bits n (bs.drop (bits / 8))

/-- Bytes from element codes. -/
def packElems (bits : Nat) : List Nat → List Byte
  | [] => []
  | [x] => if bits = 4 then [BitVec.ofNat 8 (x % 16)] else toBytes (bits / 8) x
  | x :: y :: rest =>
    if bits = 4 then BitVec.ofNat 8 (x % 16 + 16 * (y % 16)) :: packElems bits rest
    else toBytes (bits / 8) x ++ packElems bits (y :: rest)

end Sys2Proof.Machine
end

