-- ==== Sys2Proof/Machine/Flags.lean ====
section
/-! DEFINITION. Where the flags of operations go: the thread's vector flag word (R142) and the tiles' status words (R100,
R101, R522). -/
namespace Sys2Proof.Machine

/-- OR flags into a thread's vector flag word (R142). -/
def orFlags (s : State) (r : ThRef) (fl : FlagWord) : State := s.modRegs r fun g => { g with vfl := g.vfl ||| fl }

/-- Clear flags (R199). -/
def clearFlags (s : State) (r : ThRef) (fl : FlagWord) : State := s.modRegs r fun g => { g with vfl := g.vfl &&& ~~~fl }

/-- Write a tile's status word, and its odd partner's in pair mode (R100); a DEPTH set marks the launch (R102). -/
def putStatus (s : State) (c : CoreId) (tile : Nat) (pair : Bool) (st : TileStatus) : State :=
  let s := s.modCore c fun k =>
    let k := { k with status := vset k.status (Fin.ofNat 32 tile) st }
    if pair then { k with status := vset k.status (Fin.ofNat 32 (tile + 1)) st } else k
  if st.depth then s.modLaunch fun l => { l with depth := true } else s

/-- A tile's status word. -/
def statusOf (s : State) (c : CoreId) (tile : Nat) : TileStatus := (s.core c).status[Fin.ofNat 32 tile]

end Sys2Proof.Machine
end

