-- ==== Sys2Proof/Machine/Issue.lean ====
section
/-! DEFINITION. Issue (R190 to R193, R196, R198, R128): what a thread issues next, its decode checks, its predicate, its
scoreboard entry, and the step past it. -/
namespace Sys2Proof.Machine

/-- What an instruction does when it executes: it takes effect and the thread goes on, branches, does not leave its place (it
waits, or another row finishes it), or raises a fault. -/
inductive Exec where
  | done (s : State)
  | jump (s : State) (target : Int)
  | stay (s : State)
  | fault (f : IFault)

/-- A thread, its core, the index and the word it issues. -/
structure Ctx where
  th : ThRef
  ix : Nat
  w  : Nat

def Ctx.split (s : State) (c : Ctx) : Bool := (s.core c.th.core).split
def Ctx.regs (s : State) (c : Ctx) : Regs := (s.th c.th).regs

/-- An operation that meets a failing bench half raises no fault and has no effect before the error's response (R221, R520); else it
does what it does. -/
def guardBench (s : State) (c : Ctx) (reads writes : List (Nat × Nat)) (e : Exec) : Exec :=
  if benchHeld s c.th.core reads writes then .stay s else e

/-- The entry of the launch's window table that opens at a thread's issue position and has not just been run (R224). -/
def windowAt (s : State) (r : ThRef) : Option WindowEntry :=
  let t := s.th r
  match s.launch, t.window with
  | some l, none => if t.passed then none else l.d.windows.find? fun e => decide (e.th = r ∧ e.openIx = t.pos)
  | _, _ => none

/-- May the thread issue now: its launch runs, no buffer is being gathered again (R180), it is running, its core and the chip are awake, its clock is not stopped, and no
window opens here (R44, R224, R390, R394)? -/
def canIssue (s : State) (r : ThRef) : Bool :=
  (match s.launch with | some l => decide (l.st = .active) && decide (l.regather = 0) | none => false) &&
    decide ((s.th r).st = .running) && decide ((s.core r.core).sleep = .s0) && decide (s.power.chip = .awake) &&
    decide ((s.power.domains[coreCol r.core]).clock ≠ .stopped) &&
    (windowAt s r).isNone

/-- The fault of a position at INSTR_COUNT (R196), or the word at the position when its line is resident (R190). -/
def fetchWord (s : State) (r : ThRef) : Option (Except IFault Word) :=
  let t := s.th r
  match t.stream with
  | none => none
  | some st => if st.count ≤ t.pos then some (.error .streamEnd) else if t.refill then none else (wordAt t t.pos).map .ok

/-- The index after an instruction that does not branch. -/
def nextPos (s : State) (r : ThRef) (ix : Nat) : State :=
  s.modTh r fun t => { t with pos := ix, cycles := t.cycles + 1, stepNo := t.stepNo + 1, steps := t.steps + 1, passed := false }

/-- An instruction executes: it counts in ISSUED and leaves an EXEC record (Tables 17.1, 17.5). -/
def noteExec (s : State) (c : Ctx) : State :=
  traceThread (s.countCore c.th.core fun k => { k with issued := sat64 k.issued 1 }) c.th 1 c.ix (BitVec.ofNat 64 c.w)

/-- Branch to a target, or BRANCH_RANGE outside the stream (R196, R226). A branch to a line that is not resident drops every
line of the thread (R190). -/
def branchTo (s : State) (r : ThRef) (target : Int) : Option State :=
  let t := s.th r
  let count := match t.stream with | some st => st.count | none => 0
  if target < 0 || (count : Int) ≤ target then none
  else
    let ix := target.toNat
    let s := (nextPos s r ix).modTh r fun t => { t with noticed := ix }
    if t.cue.any (·.line = ix / 512) then some s else some (s.modTh r fun t => { t with cue := [], refill := true })

/-- Entries a unit offers a thread (R128). -/
def unitRoom (split : Bool) : ExecUnit → Nat
  | .array _ => 4
  | _ => if split then 4 else 8

/-- Is a scoreboard entry free on every unit (R128)? -/
def sbRoom (s : State) (r : ThRef) (us : List ExecUnit) : Bool :=
  us.all fun u => decide (((s.th r).sb.filter fun e => e.units.contains u).length < unitRoom (s.core r.core).split u)

/-- Take a scoreboard entry. -/
def takeEntry (s : State) (c : Ctx) (us : List ExecUnit) (k : OpKind) : State :=
  s.modTh c.th fun t => { t with sb := t.sb ++ [({ units := us, kind := k, index := c.ix } : SbEntry)] }

/-- HELD_RESULT: the instruction names a register that an FADD of the pass will write (R211). -/
def heldHit (s : State) (c : Ctx) : Bool :=
  (regFields c.w).any fun i => decide (i ≠ 0) && (s.th c.th).faddRegs.contains i

/-- The fault to report beside HELD_RESULT: the earlier in Table 8.11 (R221). -/
def judgeHeld (hit : Bool) : Exec → Exec
  | .fault f => if hit && decide (IFault.heldResult.code < f.code) then .fault .heldResult else .fault f
  | x => if hit then .fault .heldResult else x

/-- Finish an executed instruction. -/
def finishExec (s : State) (c : Ctx) : Exec → State
  | .done s' => nextPos (noteExec s' c) c.th (c.ix + 1)
  | .stay s' => s'
  | .jump s' target =>
    match branchTo (noteExec s' c) c.th target with
    | some s'' => s''
    | none => raiseFault s c.th .branchRange c.ix (BitVec.ofNat 64 c.w)
  | .fault f => raiseFault s c.th f c.ix (BitVec.ofNat 64 c.w)

/-- A row's own instruction: which words are its, which units it takes entries of, what it does. -/
structure Row where
  mine  : State → Ctx → Bool
  units : Nat → List ExecUnit
  run   : State → Ctx → Exec

/-- Issue the thread's next instruction when it is this row's (R191, R192, R198). A reserved opcode raises its fault whichever
row is named, and a position at INSTR_COUNT raises STREAM_END. -/
def issueNow (row : Row) (r : ThRef) (s : State) : State :=
  let ix := (s.th r).pos
  match fetchWord s r with
  | none => s
  | some (.error f) => raiseFault s r f ix 0
  | some (.ok word) =>
    let c : Ctx := ⟨r, ix, word.toNat⟩
    match decodeFault c.w with
    | some .illegalOpcode => raiseFault s r .illegalOpcode ix word
    | d =>
      if ! row.mine s c then s
      else match d with
        | some f => raiseFault s r f ix word
        | none =>
          if (s.th r).regs.pred (fPRED c.w) == fPN c.w then nextPos s r (ix + 1)
          else if ! sbRoom s r (row.units c.w) then
            s.countCore r.core fun k => { k with sbFull := sat64 k.sbFull 1 }
          else finishExec s c (judgeHeld (heldHit s c) (row.run s c))

/-- The fault that a thread, running when another thread's fault halted the launch in this tick, raises in the same cycle: it counts, and
nothing else of its instruction happens (R221). -/
def sameCycleFault (row : Row) (r : ThRef) (s : State) : State :=
  match s.launch with
  | none => s
  | some l =>
    match l.halt, l.sameCycle.lookup r with
    | some (.fault _ _ _ _ _), some held =>
      let was := ({ s with launch := some { l with st := .active, halt := none } }).modTh r fun t => { t with st := .running, hold := held }
      if l.faultTick = s.align.ticks && canIssue was r then
        match (issueNow row r was).launch.bind (·.halt) with
        | some (.fault f r' ix w _) =>
          if r' = r then
            (raiseFault s r f ix w).modLaunch fun l => { l with sameCycle := l.sameCycle.filter fun x => decide (x.1 ≠ r) }
          else s
        | _ => s
      else s
    | _, _ => s

/-- A row's issue by a thread. -/
def issue (row : Row) (r : ThRef) (s : State) : State := if canIssue s r then issueNow row r s else sameCycleFault row r s

/-- An instruction of an opcode. -/
def opRow (op : Nat) (units : Nat → List ExecUnit) (run : State → Ctx → Exec) : Row :=
  ⟨fun _ c => fOPC c.w = op, units, run⟩

/-- A VOP of a function; a reserved function is any VOP row's. -/
def vopRow (fn : Nat) (run : State → Ctx → Exec) : Row :=
  ⟨fun _ c => fOPC c.w = 0x50 && (fFUNC c.w = fn || decide (0x28 ≤ fFUNC c.w)), fun _ => [.vector], run⟩

/-- Write a scalar register. -/
def setReg (s : State) (r : ThRef) (i : Fin 32) (v : Word) : State := s.modRegs r fun g => g.set i v

/-- A thread waits for an entry of the buffer table (R179). -/
def markWait (s : State) (r : ThRef) : State := s.modTh r fun t => { t with waitAt := some (t.waitAt.getD s.align.ticks) }

/-- The wait is over: its core cycles count in AWAIT_CYCLES (R179, R207). -/
def endWait (s : State) (r : ThRef) : State :=
  match (s.th r).waitAt with
  | none => s
  | some t =>
    let n := coreCycles s (s.align.ticks - t)
    (s.countCore r.core fun k => { k with awaitCycles := sat64 k.awaitCycles n }).modTh r fun t => { t with waitAt := none }

/-- Room in the hold queue (R40). -/
def holdFull (s : State) (r : ThRef) : Bool := decide (Config.holdDepth ≤ (s.th r).hold.length)
/-- Hold an effect. -/
def holdEffect (s : State) (r : ThRef) (h : Held) : State := s.modTh r fun t => { t with hold := t.hold ++ [h] }

/-- The value-varying mark counts: the completion carries VVX (R37). -/
def markVvx (s : State) : State := s.modLaunch fun l => { l with vvx := true }

/-- The logged value that a repeated value-varying instruction returns (R42): the entry of this thread at its cursor. -/
def vvNext (s : State) (r : ThRef) : Option Word :=
  match s.launch with
  | some l => ((l.vvLog.filter fun e => !e.red && decide (e.th = r))[(s.th r).vvPos]?).map (·.value)
  | none => none

/-- FADDs among held effects. -/
def heldFadds (l : List Held) : Nat := (l.filter fun h => match h with | .fadd _ _ _ _ => true | _ => false).length

/-- Log entries that held FADDs will still make at their release (R211, R42). -/
def faddsWaiting (s : State) (log : List VvEntry) : Nat :=
  allThreads.foldl (fun n r =>
    let t := s.th r
    if t.hold.isEmpty then n
    else n + (heldFadds t.hold - ((log.filter fun e => !e.red && decide (e.th = r)).length - t.vvPos))) 0

/-- The log has no entry left for one more instruction (R42). -/
def vvFull (s : State) : Bool :=
  match s.launch with
  | some l => decide (l.d.vvCap ≤ l.vvLog.length + faddsWaiting s l.vvLog)
  | none => true

/-- Make a log entry, also in the anchor area: value, index, row and column (R42, Table 13.2). -/
def vvLogEntry (s : State) (r : ThRef) (index : Nat) (v : Word) (red : Bool) : State :=
  match s.launch with
  | none => s
  | some l =>
    let at_ := l.d.anchorBase + 2 * Config.anchorHalf + 16 * l.vvLog.length
    let s := hbmWrite s at_ (toBytes 8 v.toNat ++ toBytes 4 index ++ toBytes 1 (coreRow r.core) ++ toBytes 1 (coreCol r.core).1)
    s.modLaunch fun l => { l with vvLog := l.vvLog ++ [({ value := v, index := index, th := r, red := red } : VvEntry)] }

/-- Log a fresh value, or step past the logged one (R42). -/
def vvStep (s : State) (r : ThRef) (index : Nat) (v : Word) : State :=
  let s := match vvNext s r with
    | some _ => s
    | none => vvLogEntry s r index v false
  s.modTh r fun t => { t with vvPos := t.vvPos + 1 }

/-- A value-varying instruction's result: logged, with VVX on the completion (R37). -/
def vvTake (s : State) (c : Ctx) (v : Word) : State := markVvx (vvStep s c.th c.ix v)

end Sys2Proof.Machine
end

