-- ==== Sys2Proof/Machine/Scalar.lean ====
section
/-! DEFINITION. Scalar and control instructions, LD and ST, probes, flags and WAIT (R195 to R200, R205, R460, R447). -/
namespace Sys2Proof.Machine

/-- An ALU row: s[D] = s[A] op b (R195). -/
def aluRow (op : Nat) (f : Word → Word → Word) : Row :=
  opRow op (fun _ => []) fun s c =>
    let g := Ctx.regs s c
    .done (setReg s c.th (fD c.w) (f (g.get (fA c.w)) (operandB g c.w)))

def execNopInstr (th : ThRef) (s : State) : Res := .next (issue (opRow 0x00 (fun _ => []) fun s _ => .done s) th s)
def execAdd (th : ThRef) (s : State) : Res := .next (issue (aluRow 0x10 (· + ·)) th s)
def execSub (th : ThRef) (s : State) : Res := .next (issue (aluRow 0x11 (· - ·)) th s)
def execMul (th : ThRef) (s : State) : Res := .next (issue (aluRow 0x12 (· * ·)) th s)
def execAnd (th : ThRef) (s : State) : Res := .next (issue (aluRow 0x13 (· &&& ·)) th s)
def execOr (th : ThRef) (s : State) : Res := .next (issue (aluRow 0x14 (· ||| ·)) th s)
def execXor (th : ThRef) (s : State) : Res := .next (issue (aluRow 0x15 (· ^^^ ·)) th s)
/-- Shifts use b[5:0]. -/
def execShl (th : ThRef) (s : State) : Res := .next (issue (aluRow 0x16 fun a b => a <<< (b.toNat % 64)) th s)
def execShr (th : ThRef) (s : State) : Res := .next (issue (aluRow 0x17 fun a b => a >>> (b.toNat % 64)) th s)
def execSar (th : ThRef) (s : State) : Res := .next (issue (aluRow 0x18 fun a b => a.sshiftRight (b.toNat % 64)) th s)
def execMin (th : ThRef) (s : State) : Res := .next (issue (aluRow 0x19 fun a b => if a.toInt ≤ b.toInt then a else b) th s)
def execMax (th : ThRef) (s : State) : Res := .next (issue (aluRow 0x1A fun a b => if a.toInt ≤ b.toInt then b else a) th s)
def execMinu (th : ThRef) (s : State) : Res := .next (issue (aluRow 0x1B fun a b => if a.toNat ≤ b.toNat then a else b) th s)
def execMaxu (th : ThRef) (s : State) : Res := .next (issue (aluRow 0x1C fun a b => if a.toNat ≤ b.toNat then b else a) th s)

/-- MOVHI: the low half of s[A] under IMM. -/
def movhi (a : Word) (imm : Nat) : Word := (a &&& 0xFFFFFFFF#64) ||| BitVec.ofNat 64 (imm * 2 ^ 32)

def execMovhi (th : ThRef) (s : State) : Res :=
  .next (issue (opRow 0x1D (fun _ => []) fun s c =>
    .done (setReg s c.th (fD c.w) (movhi ((Ctx.regs s c).get (fA c.w)) (fIMM c.w)))) th s)

/-- The conditions of CMP. -/
def cmpHolds (sub : Nat) (a b : Word) : Bool :=
  match sub with
  | 0 => a = b
  | 1 => a ≠ b
  | 2 => decide (a.toInt < b.toInt)
  | 3 => decide (b.toInt ≤ a.toInt)
  | 4 => decide (a.toNat < b.toNat)
  | _ => decide (b.toNat ≤ a.toNat)

/-- Write a predicate. -/
def setPred (s : State) (r : ThRef) (i : Fin 8) (v : Bool) : State := s.modRegs r fun g => g.setPred i v

def execCmp (th : ThRef) (s : State) : Res :=
  .next (issue (opRow 0x20 (fun _ => []) fun s c =>
    let g := Ctx.regs s c
    .done (setPred s c.th (Fin.ofNat 8 (field c.w 46 3)) (cmpHolds (fSUB c.w) (g.get (fA c.w)) (operandB g c.w)))) th s)

/-- The operations of PLOG. -/
def plogOp (sub : Nat) (a b : Bool) : Bool :=
  match sub with
  | 0 => a && b
  | 1 => a || b
  | 2 => a != b
  | _ => a && !b

def execPlog (th : ThRef) (s : State) : Res :=
  .next (issue (opRow 0x22 (fun _ => []) fun s c =>
    let g := Ctx.regs s c
    .done (setPred s c.th (Fin.ofNat 8 (field c.w 46 3))
      (plogOp (field c.w 32 2) (g.pred (Fin.ofNat 8 (field c.w 41 3))) (g.pred (Fin.ofNat 8 (field c.w 36 3)))))) th s)

/-- Write a loop counter. -/
def setLc (s : State) (r : ThRef) (i : Fin 4) (v : W32) : State := s.modRegs r fun g => { g with lc := vset g.lc i v }

def execLcset (th : ThRef) (s : State) : Res :=
  .next (issue (opRow 0x07 (fun _ => []) fun s c =>
    let g := Ctx.regs s c
    .done (setLc s c.th (Fin.ofNat 4 (field c.w 46 2)) ((g.get (fA c.w) + operandB g c.w).setWidth 32))) th s)

def execLcrd (th : ThRef) (s : State) : Res :=
  .next (issue (opRow 0x08 (fun _ => []) fun s c =>
    .done (setReg s c.th (fD c.w) ((Ctx.regs s c).lc[Fin.ofNat 4 (field c.w 41 2)].setWidth 64))) th s)

def execBr (th : ThRef) (s : State) : Res :=
  .next (issue (opRow 0x05 (fun _ => []) fun s c => .jump s (c.ix + fSIMM c.w)) th s)

def execLoop (th : ThRef) (s : State) : Res :=
  .next (issue (opRow 0x06 (fun _ => []) fun s c =>
    let i : Fin 4 := Fin.ofNat 4 (field c.w 46 2)
    let lc := (Ctx.regs s c).lc[i]
    if lc = 0 then .done s
    else if lc = 1 then .done (setLc s c.th i 0)
    else .jump (setLc s c.th i (lc - 1)) (c.ix + fSIMM c.w)) th s)

/-! LD and ST (R197). -/

/-- The bench address of LD and ST, and their width in bytes. -/
def ldAddr (g : Regs) (w : Nat) : Nat := (g.get (fA w) + BitVec.ofInt 64 (fSIMM w)).toNat
def ldBytes (w : Nat) : Nat := 2 ^ field w 32 2

/-- The faults of R197. -/
def ldFault (s : State) (c : Ctx) : Option IFault :=
  let a := ldAddr (Ctx.regs s c) c.w
  let n := ldBytes c.w
  firstFault [(decide (a % n ≠ 0), .fieldRange), (otherLane (c.split s) c.th.t [(a, n)], .benchLane),
              (pastBench [(a, n)], .benchRange)]

/-- What LD puts in s[D]: zero- or sign-extended. -/
def ldValue (w : Nat) (bs : List Byte) : Word :=
  if bit w 34 then BitVec.ofInt 64 (signed (8 * bs.length) (ofBytes bs)) else BitVec.ofNat 64 (ofBytes bs)

def execLd (th : ThRef) (s : State) : Res :=
  .next (issue (opRow 0x28 (fun _ => [.vector]) fun s c =>
    match ldFault s c with
    | some f => .fault f
    | none => guardBench s c [(ldAddr (Ctx.regs s c) c.w, ldBytes c.w)] [] <|
      let bs := benchRead s c.th.core (ldAddr (Ctx.regs s c) c.w) (ldBytes c.w)
      .done (setReg (takeEntry s c [.vector] .vec) c.th (fD c.w) (ldValue c.w bs))) th s)

def execSt (th : ThRef) (s : State) : Res :=
  .next (issue (opRow 0x29 (fun _ => [.vector]) fun s c =>
    match ldFault s c with
    | some f => .fault f
    | none => guardBench s c [] [(ldAddr (Ctx.regs s c) c.w, ldBytes c.w)] <|
      let g := Ctx.regs s c
      let s := takeEntry s c [.vector] .vec
      .done (benchWrite s c.th.core (ldAddr g c.w) (toBytes (ldBytes c.w) (g.get (fD c.w)).toNat))) th s)

/-! Value-varying probes (R34, R42, R219). -/

/-- Read a value-varying source: the logged value, or the fresh one, which goes into the log. -/
def probe (s : State) (c : Ctx) (fresh : Word) : Exec :=
  match vvNext s c.th with
  | some v => .done (setReg (vvTake s c v) c.th (fD c.w) v)
  | none => if vvFull s then .fault .vvLogFull else .done (setReg (vvTake s c fresh) c.th (fD c.w) fresh)

def execTallyrd (th : ThRef) (s : State) : Res :=
  .next (issue (opRow 0x30 (fun _ => []) fun s c => probe s c s.tally) th s)

/-- ENTROPY (R447): it draws from the Enclave's buffer, or waits while that is empty; in the Enclave's error state it halts the
launch (R434). `waited` is what its wait cost. -/
def execEntropy (th : ThRef) (waited : Nat) (s : State) : Res :=
  .next (issue (opRow 0x31 (fun _ => []) fun s c =>
    match vvNext s c.th, s.sec.drbg with
    | some v, _ => probe s c v
    | none, [] => if s.sec.error then .stay (haltLaunch s .security) else .stay s
    | none, v :: rest =>
      if s.sec.error then .stay (haltLaunch s .security)
      else
        let s := { s with sec := { s.sec with drbg := rest } }
        let s := s.countCore c.th.core fun k => { k with entropyWait := sat64 k.entropyWait waited }
        probe (s.modTh c.th fun t => { t with cycles := t.cycles + waited }) c v) th s)

def execCtrrd (th : ThRef) (s : State) : Res :=
  .next (issue (opRow 0x32 (fun _ => []) fun s c =>
    match liveCounter s c.th.core (field c.w 0 16) with
    | none => .fault .fieldRange
    | some v => probe s c (BitVec.ofNat 64 v)) th s)

/-! Flags and WAIT. -/

/-- Vector operations and DMA CONVERTs of the thread that have not left the scoreboard (R199, Table 8.5). -/
def flagsPending (t : Thread) : Bool :=
  t.sb.any fun e => match e.kind with
    | .vec => true
    | .transfer conv _ => conv
    | _ => false

def execFlagrd (th : ThRef) (s : State) : Res :=
  .next (issue (opRow 0x33 (fun _ => []) fun s c =>
    if flagsPending (s.th c.th) then .stay s
    else .done (setReg s c.th (fD c.w) ((Ctx.regs s c).vfl.setWidth 64))) th s)

def execFlagclr (th : ThRef) (s : State) : Res :=
  .next (issue (opRow 0x34 (fun _ => []) fun s c =>
    if flagsPending (s.th c.th) then .stay s else .done (clearFlags s c.th (BitVec.ofNat 4 (field c.w 0 4)))) th s)

/-- Is a unit named by WAIT's mask (R200)? -/
def inMask (m : Nat) : ExecUnit → Bool
  | .array a => bit m a.1
  | .vector => bit m 4
  | .dma => bit m 5

def execWait (th : ThRef) (s : State) : Res :=
  .next (issue (opRow 0x04 (fun _ => []) fun s c =>
    if (s.th c.th).sb.any fun e => e.units.any (inMask c.w) then .stay s else .done s) th s)

end Sys2Proof.Machine
end

