-- ==== Sys2Proof/Machine/Array.lean ====
section
/-! DEFINITION. Array instructions: weight loads, array operations, read-outs, joins and status reads (R107 to R126, R201,
R202, R522). -/
namespace Sys2Proof.Machine

/-! Tiles. -/

/-- Tile t of array a. -/
def tileIx (a t : Nat) : Nat := 8 * a + t
/-- Tiles an operation names, both of each pair (R120, R39). -/
def withPartners (pair : Bool) (ts : List Nat) : List Nat := if pair then ts.flatMap fun t => [t, t + 1] else ts

/-- An element of a tile. -/
def tileGet (k : Core) (t i j : Nat) : W32 := (k.tiles[Fin.ofNat 32 t])[Fin.ofNat 32 i][Fin.ofNat 32 j]
/-- An element as an accumulator holds it; a pair takes its lo from the odd tile (R120). -/
def accGet (k : Core) (acc : Acc) (t i j : Nat) : AccVal :=
  ⟨tileGet k t i j, if acc = .fp32p then tileGet k (t + 1) i j else 0⟩
/-- Replace a tile's elements by a function of row and column. -/
def mapTile (k : Core) (t : Nat) (f : Fin 32 → Fin 32 → W32) : Core :=
  { k with tiles := vset k.tiles (Fin.ofNat 32 t) (Vector.ofFn fun i => Vector.ofFn fun j => f i j) }
/-- Replace the elements of a tile, or of a pair tile, by accumulator values. -/
def putAcc (k : Core) (acc : Acc) (t : Nat) (f : Fin 32 → Fin 32 → AccVal) : Core :=
  let k := mapTile k t fun i j => (f i j).hi
  if acc = .fp32p then mapTile k (t + 1) fun i j => (f i j).lo else k

/-- Note that the open pass writes elements of a tile: the written bit of R39, the status word saved at the first write, the
elements to clear on an abort (R131). -/
def touchTile (s : State) (r : ThRef) (t : Nat) (rows cols : BitVec 32) : State :=
  let old := statusOf s r.core t
  s.modTh r fun x =>
    { x with
      written := x.written ||| (1#32 <<< t)
      statusSn := if x.statusSn.any (·.tile = t) then x.statusSn else x.statusSn ++ [⟨t, old⟩]
      touched := x.touched ++ [⟨t, rows, cols⟩] }

/-- The written-this-pass bit of a tile (R39). -/
def tileWritten (s : State) (r : ThRef) (t : Nat) : Bool := (s.th r).written.getLsbD t

/-- The accumulator of an ACC field. -/
def accOf (x : Nat) : Acc := if x = 0 then .fp32 else if x = 1 then .fp32p else .int32

/-! WLD. -/

/-- Rows of a slice (Table 5.1). -/
def sliceK : Fmt → Nat
  | .fp32 | .bf16 | .fp16 => 32
  | _ => 64

/-- The latest slice loaded on an array (R110). -/
def latestSlice (p : Planes) : Option Slice :=
  match p.latest with
  | none => none
  | some i => if i = 0 then p.p0 else p.p1

/-- The planes after a load (R108): a class W slice takes both and the next load goes to plane 0. -/
def loadPlane (p : Planes) (fmt : Fmt) (rows : List (List Nat)) (scales : List Nat) : Planes :=
  let sl : Slice := ⟨fmt, rows, scales, false⟩
  if fmt = .fp32 then ⟨some sl, some { sl with lo := true }, 0, some 0⟩
  else if p.next = 0 then ⟨some sl, p.p1, 1, some 0⟩ else ⟨p.p0, some sl, 0, some 1⟩

/-- The bench bytes a weight load reads (R107, R111, R519). -/
def wldSpans (fmt : Fmt) (trans : Bool) (o : Strided) : Spans :=
  let stored := if trans then (List.range 32).map fun n => (o.base + n * o.stride, elemBytes fmt (sliceK fmt))
    else (List.range (sliceK fmt)).map fun k => (o.base + k * o.stride, elemBytes fmt 32)
  if fmt.isMx then stored ++ [(o.third, 64)] else stored

/-- The slice's rows from the bench: exchanged when the load is transposed (R111). -/
def wldRows (s : State) (c : CoreId) (fmt : Fmt) (trans : Bool) (o : Strided) : List (List Nat) :=
  let row (i n : Nat) := unpackElems fmt.bits n (benchRead s c (o.base + i * o.stride) (elemBytes fmt n))
  if trans then
    let cols := (List.range 32).map fun n => row n (sliceK fmt)
    (List.range (sliceK fmt)).map fun k => cols.map fun col => col.getD k 0
  else (List.range (sliceK fmt)).map fun k => row k 32

/-- The faults of a weight load. -/
def wldFault (s : State) (c : Ctx) : Option IFault :=
  let trans := bit c.w 39
  match Fmt.ofCode (field c.w 40 4) with
  | none => some .reservedField
  | some fmt =>
    let sp := wldSpans fmt trans (stridedWord ((Ctx.regs s c).get (fD c.w)))
    firstFault [(!stationary fmt, .formatIllegal), (otherArray (c.split s) c.th.t (field c.w 44 2), .tileOwnership),
                (otherLane (c.split s) c.th.t sp, .benchLane),
                (trans && (fmt.isMx || fmt = .int4), .transposeIllegal), (pastBench sp, .benchRange)]

def wldUnits (w : Nat) : List ExecUnit := [.array (Fin.ofNat 4 (field w 44 2))]

/-- What a weight load reads, when its format is one. -/
def wldReads (s : State) (c : Ctx) : Spans :=
  match Fmt.ofCode (field c.w 40 4) with
  | some fmt => wldSpans fmt (bit c.w 39) (stridedWord ((Ctx.regs s c).get (fD c.w)))
  | none => []

def runWld (s : State) (c : Ctx) : Exec :=
  guardBench s c (wldReads s c) [] <|
  match wldFault s c, Fmt.ofCode (field c.w 40 4) with
  | some f, _ => .fault f
  | none, none => .fault .reservedField
  | none, some fmt =>
    let o := stridedWord ((Ctx.regs s c).get (fD c.w))
    let rows := wldRows s c.th.core fmt (bit c.w 39) o
    let scales := if fmt.isMx then (benchRead s c.th.core o.third 64).map (·.toNat) else []
    let s := takeEntry s c (wldUnits c.w) .load
    .done (s.modCore c.th.core fun k =>
      { k with planes := vmod k.planes (Fin.ofNat 4 (field c.w 44 2)) fun p => loadPlane p fmt rows scales })

def execWld (th : ThRef) (s : State) : Res := .next (issue (opRow 0x40 wldUnits runWld) th s)

/-! MMA. -/

/-- The fields of an array operation (Table 8.6). -/
structure MmaOp where
  arr  : Nat
  span : Nat
  ch   : Nat
  k    : Nat
  m    : Nat
  n    : Nat
  tile : Nat
  acc  : Acc
  add  : Bool
  sat  : Bool
  fmt  : Option Fmt
  src  : Strided
  rmask : BitVec 32
  cmask : BitVec 32
deriving DecidableEq, Repr

def mmaOp (s : State) (c : Ctx) : MmaOp :=
  let g := Ctx.regs s c
  let masks := g.get (fA c.w)
  { arr := field c.w 18 2, span := 2 ^ field c.w 16 2, ch := field c.w 15 1, k := field c.w 35 6 + 1,
    m := field c.w 27 8 + 1, n := field c.w 20 7 + 1, tile := field c.w 12 3, acc := accOf (field c.w 10 2),
    add := bit c.w 9, sat := bit c.w 8, fmt := Fmt.ofCode (field c.w 4 4), src := stridedWord (g.get (fD c.w)),
    rmask := masks.setWidth 32, cmask := (masks >>> 32).setWidth 32 }

/-- The arrays spanned. -/
def MmaOp.arrays (o : MmaOp) : List Nat := (List.range o.span).map (o.arr + ·)
def MmaOp.pair (o : MmaOp) : Bool := decide (o.acc = .fp32p)
/-- Tiles between a tile and the next on one array (R121). -/
def MmaOp.stepT (o : MmaOp) : Nat := if o.pair then 2 else 1
/-- Tiles, or pair tiles, of one array that the rows reach. -/
def MmaOp.tiles (o : MmaOp) : Nat := ceilDiv o.m 32
/-- Every tile named, both of each pair (R39, R121). -/
def MmaOp.named (o : MmaOp) : List Nat :=
  o.arrays.flatMap fun a => withPartners o.pair ((List.range o.tiles).map fun q => tileIx a (o.tile + o.stepT * q))
/-- Is row m read: below M and not masked (R126)? -/
def MmaOp.liveRow (o : MmaOp) (m : Nat) : Bool := decide (m < o.m) && !o.rmask.getLsbD (m % 32)
/-- Is column j of the i-th spanned array written (R125)? -/
def MmaOp.liveCol (o : MmaOp) (i j : Nat) : Bool := decide (32 * i + j < o.n) && !o.cmask.getLsbD j
def MmaOp.liveRows (o : MmaOp) : List Nat := (List.range o.m).filter o.liveRow

/-- Slices on the spanned arrays, of those that exist. -/
def mmaSlices (k : Core) (o : MmaOp) : List (Option Slice) :=
  (o.arrays.filter (· < 4)).map fun a => latestSlice k.planes[Fin.ofNat 4 a]

/-- The bench bytes the streamed rows take (Table 5.2, R113). -/
def mmaSpans (o : MmaOp) (cls : Option OpClass) : Spans :=
  let bytes := if cls = some .w then 128 else 64
  let rows := o.liveRows.map fun m => (o.src.base + m * o.src.stride, bytes)
  if cls = some .mx then rows ++ o.liveRows.map fun m => (o.src.third + 2 * m, 2) else rows

/-- The faults of an array operation (R202, R56, R129, R121, R110, R39). -/
def mmaFault (s : State) (c : Ctx) (o : MmaOp) : Option IFault :=
  let k := s.core c.th.core
  let slices := mmaSlices k o
  let loaded := slices.filterMap id
  let cls := o.fmt.bind opClass
  let stream := match o.fmt with | some f => streamable f | none => false
  let sp := mmaSpans o cls
  let spread := (o.span = 2 && o.arr % 2 = 1) || (o.span = 4 && decide (o.arr ≠ 0))
  let rangeBad := spread || decide (32 * o.span < o.n) || decide (o.src.stride % 64 ≠ 0) ||
    loaded.any fun sl => decide (sliceK sl.fmt < o.k)
  let fmtBad := !stream || loaded.any (fun sl => opClass sl.fmt ≠ cls) ||
    (match loaded with | [] => false | sl :: rest => rest.any fun x => x.fmt ≠ sl.fmt) ||
    (o.acc = .int32 && decide (cls ≠ some .i))
  let other := o.arrays.any (otherArray (c.split s) c.th.t) || (c.split s && decide ((o.ch = 0) ≠ (c.th.t = 0)))
  let tileBad := (o.pair && o.tile % 2 = 1) || decide (8 < o.tile + o.stepT * o.tiles)
  firstFault [(rangeBad, .fieldRange), (fmtBad, .formatIllegal), (other, .tileOwnership),
              (otherLane (c.split s) c.th.t sp, .benchLane), (tileBad, .tileRange),
              (decide (loaded.length < o.span), .planeEmpty), (pastBench sp, .benchRange),
              (o.add && o.named.any (fun t => !tileWritten s c.th t), .passTileOrder)]

/-- A list in pieces of 32. -/
def blocks32 {α : Type} (l : List α) : List (List α) :=
  (List.range (ceilDiv l.length 32)).map fun q => (l.drop (32 * q)).take 32

/-- One element of the product: its blocks entered into the accumulator in order (R85, R94 to R98). `as` and `bs` are the
element codes of the K products, `sa` and `sb` the two block scales of each side (R113, R519). -/
def mmaElem (o : MmaOp) (fa fb : Fmt) (as bs sa sb : List Nat) (prev : AccVal) : AccVal × FlagWord :=
  let cls := (opClass fa).getD .h
  let start := if o.add then some prev else none
  let sums :=
    if cls = .w then
      (blocks32 (as.zip bs)).flatMap fun b =>
        blockSumW o.acc o.sat (b.map fun (x, y) => (BitVec.ofNat 32 x, BitVec.ofNat 32 y))
    else
      (blocks32 (as.zip bs)).zipIdx.map fun (b, q) =>
        let ea := sa.getD q 0
        let eb := sb.getD q 0
        let scale : Int := if cls = .mx then (ea : Int) + eb - 254 else 0
        let nan := cls = .mx && (ea = 255 || eb = 255)
        blockSum cls o.acc o.sat nan scale (b.map fun (x, y) => (unpack fa x, unpack fb y))
  let (v, fl) := accumulate o.acc o.sat start sums
  (v.getD ⟨0, 0⟩, fl)

/-- Blocks an operation enters into each element; class W counts three per FP32 block (R101). -/
def mmaBlocks (o : MmaOp) : Nat := ceilDiv o.k 32 * (if o.fmt = some .fp32 then 3 else 1)

/-- A streamed row: its K codes and its two scales. -/
def streamRow (s : State) (c : CoreId) (o : MmaOp) (fa : Fmt) (m : Nat) : List Nat × List Nat :=
  (unpackElems fa.bits o.k (benchRead s c (o.src.base + m * o.src.stride) (elemBytes fa o.k)),
   if fa.isMx then (benchRead s c (o.src.third + 2 * m) 2).map (·.toNat) else [])

/-- Columns of a slice: codes of K rows, and the column's scales (R519). -/
def sliceCol (o : MmaOp) (sl : Slice) (j : Nat) : List Nat × List Nat :=
  ((sl.rows.take o.k).map fun row => row.getD j 0, [sl.scales.getD (2 * j) 0, sl.scales.getD (2 * j + 1) 0])

/-- The values an operation gives one tile of the i-th spanned array, row by row, with the tile's flags (R99, R121). -/
def mmaTile (k : Core) (o : MmaOp) (fa : Fmt) (rows : List (List Nat × List Nat)) (sl : Slice) (i q tile : Nat) :
    List (List AccVal) × FlagWord :=
  let cols := (List.range 32).map (sliceCol o sl)
  let cells := (List.range 32).map fun r =>
    let (as, sa) := rows.getD (32 * q + r) ([], [])
    cols.zipIdx.map fun ((bs, sb), j) =>
      let old := accGet k o.acc tile r j
      if o.liveRow (32 * q + r) && o.liveCol i j then mmaElem o fa sl.fmt as bs sa sb old else (old, 0)
  (cells.map fun row => row.map (·.1), cells.foldl (fun f row => row.foldl (fun g x => g ||| x.2) f) 0)

/-- A mask of 32 bits from a test of each. -/
def mask32 (f : Nat → Bool) : BitVec 32 :=
  BitVec.ofNat 32 ((List.range 32).foldl (fun x i => if f i then x + 2 ^ i else x) 0)

/-- Write one tile of an operation with its status word (R101, R522). DESIGN CHOICE (log entry 70): a pair operation whose tiles hold
different words starts from the even tile's. -/
def mmaPutTile (s : State) (r : ThRef) (o : MmaOp) (i q tile : Nat) (cells : List (List AccVal)) (fl : FlagWord) : State :=
  let rows := mask32 fun x => o.liveRow (32 * q + x)
  let cols := mask32 (o.liveCol i)
  let s := (withPartners o.pair [tile]).foldl (fun s t => touchTile s r t rows cols) s
  let full := decide (rows = BitVec.allOnes 32 ∧ cols = BitVec.allOnes 32)
  let st := (statusOf s r.core tile).update (!o.add) full (mmaBlocks o) fl
  let s := s.modCore r.core fun k => putAcc k o.acc tile fun x y => (cells.getD x.1 []).getD y.1 ⟨0, 0⟩
  putStatus s r.core tile o.pair st

/-- The whole operation: every tile of every spanned array. -/
def mmaApply (s : State) (r : ThRef) (o : MmaOp) (fa : Fmt) : State :=
  let rows := (List.range o.m).map fun m => if o.liveRow m then streamRow s r.core o fa m else ([], [])
  o.arrays.zipIdx.foldl (fun s (a, i) =>
    match latestSlice (s.core r.core).planes[Fin.ofNat 4 a] with
    | none => s
    | some sl =>
      (List.range o.tiles).foldl (fun s q =>
        let tile := tileIx a (o.tile + o.stepT * q)
        let (cells, fl) := mmaTile (s.core r.core) o fa rows sl i q tile
        mmaPutTile s r o i q tile cells fl) s) s

def mmaUnits (w : Nat) : List ExecUnit :=
  ((List.range (2 ^ field w 16 2)).filter fun i => decide (field w 18 2 + i < 4)).map fun i =>
    .array (Fin.ofNat 4 (field w 18 2 + i))

def runMma (s : State) (c : Ctx) : Exec :=
  let o := mmaOp s c
  guardBench s c (mmaSpans o (o.fmt.bind opClass)) [] <|
  match mmaFault s c o, o.fmt with
  | some f, _ => .fault f
  | none, none => .fault .reservedField
  | none, some fa => .done (mmaApply (takeEntry s c (mmaUnits c.w) .matrix) c.th o fa)

def execMma (th : ThRef) (s : State) : Res := .next (issue (opRow 0x41 mmaUnits runMma) th s)

/-! TRD. -/

/-- The tile format of an accumulator. -/
def accFmt : Acc → Fmt
  | .fp32 => .fp32
  | .fp32p => .fp32p
  | .int32 => .int32

/-- The exact value of an accumulator element. -/
def accVal (acc : Acc) (v : AccVal) : Val :=
  match acc with
  | .fp32 => f32 v.hi
  | .fp32p => pairVal (readPair v)
  | .int32 => .ofInt v.hi.toInt

/-- The bits of a pair in memory: hi first (R66). -/
def pairBits (p : Pair) : Nat := p.hi.toNat + p.lo.toNat * 2 ^ 32

/-- The code of a value in a destination format: a single result bound for FP32P is (value, +0) (R137, Table 3.7). -/
def toFormat (dst : Fmt) (mode : RMode) (f8sat : Bool) (r : Nat) (v : Val) : Nat × FlagWord :=
  if dst = .fp32p then let (x, fl) := convElem .fp32 .rne f8sat 0 v; (x, fl) else convElem dst mode f8sat r v

/-- A read-out's element (R123). DESIGN CHOICE (log entry 66): a read-out to the tile's own format, which Table 3.7 does not list, is
taken under every mode and writes the value as it is: a NaN canonical (R59), a pair under the invariant of R66. -/
def trdElem (acc : Acc) (dst : Fmt) (mode : RMode) (f8sat : Bool) (r : Nat) (v : AccVal) : Nat × FlagWord :=
  if dst = accFmt acc then
    match acc with
    | .fp32 => ((rne false (f32 v.hi)).toNat, 0)
    | .int32 => (v.hi.toNat, 0)
    | .fp32p => (pairBits (normPair v), pairFlags (pairVal v) (overflows32 (pairVal v)) (normPair v))
  else toFormat dst mode f8sat r (accVal acc v)

def trdSpans (fmt : Fmt) (rows : Nat) (o : Strided) : Spans :=
  (List.range rows).map fun i => (o.base + i * o.stride, elemBytes fmt 32)

/-- The faults of a read-out (R75, R123, R129, R120). -/
def trdFault (s : State) (c : Ctx) (fmt : Fmt) : Option IFault :=
  let acc := accOf (field c.w 29 2)
  let mode := rmodeOf (field c.w 23 2)
  let sp := trdSpans fmt (field c.w 17 5 + 1) (stridedWord ((Ctx.regs s c).get (fD c.w)))
  let fmtBad := fmt.isMx || fmt = .nb12 || (decide (fmt ≠ accFmt acc) && !convAllowed (accFmt acc) fmt mode)
  firstFault [(fmtBad, .formatIllegal), (otherArray (c.split s) c.th.t (field c.w 34 2), .tileOwnership),
              (otherLane (c.split s) c.th.t sp, .benchLane),
              (acc = .fp32p && field c.w 31 3 % 2 = 1, .tileRange), (pastBench sp, .benchRange)]

def trdUnits (w : Nat) : List ExecUnit := [.array (Fin.ofNat 4 (field w 34 2))]

/-- A read-out (R123). DESIGN CHOICE (log entry 66): the flags of its conversions go into the thread's vector flag word, which no rule
names for them. -/
def runTrd (s : State) (c : Ctx) : Exec :=
  match Fmt.ofCode (field c.w 25 4) with
  | none => .fault .reservedField
  | some fmt =>
    guardBench s c [] (trdSpans fmt (field c.w 17 5 + 1) (stridedWord ((Ctx.regs s c).get (fD c.w)))) <|
    match trdFault s c fmt with
    | some f => .fault f
    | none =>
      let g := Ctx.regs s c
      let acc := accOf (field c.w 29 2)
      let o := stridedWord (g.get (fD c.w))
      let (stream, index) := streamWord (g.get (fB c.w))
      let seed := g.get (fA c.w)
      let mode := rmodeOf (field c.w 23 2)
      let tile := tileIx (field c.w 34 2) (field c.w 31 3)
      let k := s.core c.th.core
      let s := takeEntry s c (trdUnits c.w) .readout
      .done ((List.range (field c.w 17 5 + 1)).foldl (fun s i =>
        let row := (List.range 32).map fun j =>
          let r := if mode = .sr then srRandom seed stream (index + i * o.third + j) else 0
          trdElem acc fmt mode (bit c.w 22) r (accGet k acc tile i j)
        let s := benchWrite s c.th.core (o.base + i * o.stride) (packElems fmt.bits (row.map (·.1)))
        orFlags s c.th (row.foldl (fun f x => f ||| x.2) 0)) s)

def execTrd (th : ThRef) (s : State) : Res := .next (issue (opRow 0x42 trdUnits runTrd) th s)

/-! TJN and TSR. -/

/-- Replace every element of a tile by the join of two operands, with the flags of all joins (R103). -/
def joinTile (s : State) (r : ThRef) (acc : Acc) (tile : Nat) (left right : Nat → Nat → AccVal) : State × FlagWord :=
  let cells := (List.range 32).map fun i => (List.range 32).map fun j => join acc false (left i j) (right i j)
  let fl := cells.foldl (fun f row => row.foldl (fun g x => g ||| x.2) f) 0
  let s := (withPartners (acc = .fp32p) [tile]).foldl
    (fun s t => touchTile s r t (BitVec.allOnes 32) (BitVec.allOnes 32)) s
  (s.modCore r.core fun k => putAcc k acc tile fun x y => ((cells.getD x.1 []).getD y.1 (⟨0, 0⟩, 0)).1, fl)

/-- The faults of a tile join (R202, R129, R39). -/
def tjnFault (s : State) (c : Ctx) : Option IFault :=
  let t := field c.w 31 3
  let u := field c.w 28 3
  let pair := decide (accOf (field c.w 26 2) = .fp32p)
  let tile := tileIx (field c.w 34 2) t
  firstFault [(decide (t = u), .fieldRange), (otherArray (c.split s) c.th.t (field c.w 34 2), .tileOwnership),
              (pair && (t % 2 = 1 || u % 2 = 1), .tileRange),
              ((withPartners pair [tile]).any fun x => !tileWritten s c.th x, .passTileOrder)]

def runTjn (s : State) (c : Ctx) : Exec :=
  match tjnFault s c with
  | some f => .fault f
  | none =>
    let acc := accOf (field c.w 26 2)
    let a := field c.w 34 2
    let t := tileIx a (field c.w 31 3)
    let u := tileIx a (field c.w 28 3)
    let k := s.core c.th.core
    let old := statusOf s c.th.core t
    let (s, fl) := joinTile (takeEntry s c (trdUnits c.w) .matrix) c.th acc t (accGet k acc t) (accGet k acc u)
    .done (putStatus s c.th.core t (acc = .fp32p) (old.merge (statusOf s c.th.core u) fl))

def execTjn (th : ThRef) (s : State) : Res := .next (issue (opRow 0x43 trdUnits runTjn) th s)

def execTsr (th : ThRef) (s : State) : Res :=
  .next (issue (opRow 0x44 (fun _ => []) fun s c =>
    if otherArray (c.split s) c.th.t (field c.w 34 2) then .fault .tileOwnership
    else
      let st := statusOf s c.th.core (tileIx (field c.w 34 2) (field c.w 31 3))
      .done (setReg s c.th (fD c.w) (BitVec.ofNat 64 st.word))) th s)

end Sys2Proof.Machine
end

