-- ==== Sys2Proof/Machine/HostRing.lean ====
section
/-! DEFINITION. Submission and completion rings: their set-up, doorbell and head lines, descriptor fetch and interrupts
(R237 to R247, R267). -/
namespace Sys2Proof

/-- Word `i` of a descriptor: its bytes 8i to 8i+7 (Table 10.7). -/
def Desc.word (d : Desc) (i : Nat) : Nat := (d.w[i]?.getD 0).toNat
/-- OPC, FLAGS, TAG and PARAM (Table 10.7). -/
def Desc.opc (d : Desc) : Nat := Machine.field (d.word 0) 0 8
def Desc.irq (d : Desc) : Bool := (d.word 0).testBit 8
def Desc.order (d : Desc) : Bool := (d.word 0).testBit 9
def Desc.tag (d : Desc) : Nat := Machine.field (d.word 0) 16 16
def Desc.param (d : Desc) : Nat := Machine.field (d.word 0) 32 32
/-- FLAGS[7:2] are zero (R14). -/
def Desc.flagsOk (d : Desc) : Bool := decide (Machine.field (d.word 0) 10 6 = 0)
/-- Words `i` to 7 are zero (R14). -/
def Desc.zeroFrom (d : Desc) (i : Nat) : Bool := (List.range 8).all fun k => decide (k < i) || decide (d.word k = 0)
/-- A LAUNCH or a memory descriptor, which starts some time after its acceptance (R248). -/
def Desc.startsLater (d : Desc) : Bool :=
  decide (d.opc = 1 ∨ d.opc = 2 ∨ d.opc = 3) || (decide (d.opc = 4) && !(d.word 0).testBit 32) ||
    (decide (d.opc = 0x11) && decide (Machine.field (d.word 0) 38 2 = 1))
/-- OPC is one of Table 10.8 that the ring's TYPE allows (R250 check 1). -/
def Desc.known (d : Desc) (ty : Fin 4) : Bool := if ty = 1 then decide (d.opc = 1) else decide (d.opc ≤ 0x12)

namespace Machine

/-! Reading descriptors (R242, R247). -/

/-- A work item is free to a ring: eight of the 256 are kept for ring 0 (R247). -/
def itemFree (s : State) (sq : RingId) : Bool :=
  let own := (s.items.filter fun i => decide (i.h.sq = 0)).length
  if sq = 0 then decide (s.items.length < Config.workItems)
  else decide (s.items.length - own + max own Config.ring0Items < Config.workItems)

/-- The device serves a ring: in Safe only ring 0 (R239, R404). -/
def ringServed (s : State) (n : RingId) : Bool :=
  decide (n = 0) || (match s.life.state with | none | some .safe => false | some _ => true)

/-- Descriptors between the next unread count and TAIL. -/
def unread (q : SubRing) : Nat := (q.tail + 2 ^ 32 - (q.headPos + q.fetched.length) % 2 ^ 32) % 2 ^ 32

/-- Begin a read of descriptors: up to 64, within the ring's contiguous span (R242). -/
def startFetch (s : State) (sq : RingId) : State :=
  let q := s.subs[sq]
  let first := (q.headPos + q.fetched.length) % 2 ^ 32
  let n := min (min 64 (unread q)) (2 ^ q.log2 - first % 2 ^ q.log2)
  if q.active && decide (q.fetching = 0) && q.fetched.isEmpty && decide (0 < n) && itemFree s sq && isAwake s then
    ({ s with subs := vset s.subs sq { q with fetching := n } }).emit (.descRead sq first n)
  else s

/-! Dispatch (R246, R250). -/

/-- The dispatcher may take this ring's front descriptor: one has been read, an item is free, and an ORDER descriptor that
would start at once has nothing of its ring before it (R246, R247, R248; DESIGN CHOICE log entry 20). -/
def ringReady (s : State) (sq : RingId) : Bool :=
  let q := s.subs[sq]
  match q.fetched with
  | [] => false
  | d :: _ =>
    itemFree s sq && isAwake s &&
      (! d.order || d.startsLater || s.items.all fun i => decide (i.h.sq ≠ sq))

/-- The ring dispatcher `n` picks: lowest PRIO, then the ring after the one served last (R246). -/
def pickRing (s : State) (n : Fin 4) : Option RingId :=
  let rs := (List.finRange 64).filter fun r => decide (r.1 % 4 = n.1) && ringReady s r
  let p : Nat := rs.foldl (fun m r => min m (s.subs[r].prio).1) 4
  let rs := rs.filter fun r => decide ((s.subs[r].prio).1 = p)
  let last := match s.lastRing[n] with | some l => l.1 | none => 63
  match rs.filter fun r => decide (last < r.1) with
  | r :: _ => some r
  | [] => rs.head?

/-- Whose record answers a descriptor taken now from a ring. -/
def headOf (s : State) (sq : RingId) (d : Desc) : DHead :=
  { sq := sq, tag := d.tag, opc := d.opc, slot := s.subs[sq].headPos % 65536, irq := d.irq, word := BitVec.ofNat 64 (d.word 0) }

/-- Take the front descriptor from a ring. -/
def takeFront (s : State) (sq : RingId) : State :=
  let q := s.subs[sq]
  { s with
    subs := vset s.subs sq { q with headPos := (q.headPos + 1) % 2 ^ 32, fetched := q.fetched.drop 1 },
    lastRing := vset s.lastRing (Fin.ofNat 4 sq.1) (some sq) }

/-- Complete the descriptors that a dispatcher picks and whose OPC is reserved or not allowed on the ring (R246, R250 check 1). The fuel
is how many it can pick. -/
def skipUnknown : Nat → State → Fin 4 → State
  | 0, s, _ => s
  | k + 1, s, n =>
    match pickRing s n with
    | none => s
    | some sq =>
      match (s.subs[sq]).fetched with
      | [] => s
      | d :: _ =>
        if d.known (s.subs[sq]).ty then s
        else skipUnknown k (completeDesc (takeFront s sq) (headOf s sq d) stMalformed 0 none) n

/-- Descriptors that have been read and not yet taken. -/
def fetchedCount (s : State) : Nat := s.subs.toList.foldl (fun n q => n + q.fetched.length) 0

/-- The dispatchers complete what only they need to see, and every ring that may read now does. -/
def pumpRings (s : State) : State :=
  let s := (List.finRange 4).foldl (skipUnknown (fetchedCount s)) s
  (List.finRange 64).foldl startFetch s

/-- A new TAIL (R242, R243). -/
def takeTail (s : State) (sq : RingId) (tail : Nat) : State :=
  let q := s.subs[sq]
  if 2 ^ q.log2 < (tail + 2 ^ 32 - q.headPos % 2 ^ 32) % 2 ^ 32 then stopSub s sq 1
  else startFetch { s with subs := vset s.subs sq { q with tail := tail } } sq

/-- Complete an open work item, which may let its ring read on. -/
def finishItem (s : State) (i : Item) (status result : Nat) : State := pumpRings (completeItem s i status result)

/-- Dispatch the front descriptor of a ring when the dispatcher picks it and it is of the row's kind. -/
def dispatch (s : State) (sq : RingId) (isRow : Desc → Bool) (k : State → Desc → DHead → State) : State :=
  let q := s.subs[sq]
  match q.fetched with
  | [] => s
  | d :: _ =>
    if d.known q.ty && isRow d && decide (pickRing s (Fin.ofNat 4 sq.1) = some sq) then pumpRings (k (takeFront s sq) d (headOf s sq d))
    else s

/-- The status of the first check that fails (R250). -/
def firstFail : List (Bool × Nat) → Option Nat
  | [] => none
  | (ok, st) :: rest => if ok then firstFail rest else some st

/-- Complete with the first failing check's status, or go on (R250). A descriptor that fails at check 5 has been accepted (R246,
R247). -/
def checked (s : State) (h : DHead) (cs : List (Bool × Nat)) (k : State) : State :=
  match firstFail (cs.take 1) with
  | some st => completeDesc s h st 0 none
  | none =>
    match firstFail cs with
    | some st => if st = stRefused || st = stLocked then completeDesc s h st 0 none else answerDesc s h st 0
    | none => k

/-- The state is one of those Table 10.8 marks (R251). -/
def inStates (s : State) (l : List Nat) : Bool := l.contains (stateCode s)

/-- Accept a descriptor as an open work item (R247). -/
def acceptItem (s : State) (d : Desc) (h : DHead) (k : ItemKind) : State :=
  let s := traceDispatch s h.sq h.slot h.word
  { s with
    items := s.items ++ [{ id := s.nextItem, h := h, ordered := d.order, kind := k, closing := false }],
    nextItem := s.nextItem + 1 }

/-- A host access to BAR0 reaches the registers: configuration space is ready, and SEC_POLICY.IDE_IO admits it (R452). -/
def barOpen (s : State) (secure : Bool) : Bool := s.life.state.isSome && (secure || !s.sec.policy.getLsbD 0)

/-- The device polls a line: its ring is set up so, or the host has not enabled CXL.cache (R244). -/
def polls (s : State) (polled : Bool) : Bool := polled || !s.cacheOn

/-! Set-up of submission rings (R238 to R242). -/

/-- Acquire the doorbell line, or poll it (R242, R244). -/
def activateSub (s : State) (n : RingId) : State :=
  let q := s.subs[n]
  if ! q.enable || q.active || q.lineReading || q.stopped || ! ringServed s n then s
  else if polls s q.polled then { s with subs := vset s.subs n { q with active := true } }
  else ({ s with subs := vset s.subs n { q with lineReading := true } }).emit (.lineRead q.db)

/-- SQ_CFG as a read returns it (Table 10.3). -/
def subCfg (q : SubRing) : Nat :=
  q.cq.1 <<< 18 + q.prio.1 <<< 16 + q.polled.toNat <<< 13 + q.ty.1 <<< 11 + q.log2 <<< 4 + q.enable.toNat

/-- SQ_STATUS (Table 10.3). -/
def subStatus (q : SubRing) : Nat := q.headPos <<< 32 + q.err <<< 8 + q.stopped.toNat <<< 1 + q.active.toNat

/-- ENABLE is cleared: the line is released, and what was read and not yet taken is dropped (R241). -/
def disableSub (s : State) (n : RingId) (q : SubRing) : State :=
  { s with subs := vset s.subs n { q with enable := false, active := false, lineHeld := false, lineReading := false,
                                          lineAgain := false, fetching := 0, fetched := [] } }

/-- A write of SQ_CFG (R13, R238 to R242). -/
def writeSubCfg (s : State) (n : RingId) (v : Nat) : State :=
  if 2 ≤ field v 11 2 || field v 4 5 < 6 || 16 < field v 4 5 then s
  else
    let q0 := s.subs[n]
    let q :=
      if q0.active then q0
      else { q0 with cq := Fin.ofNat 64 (field v 18 6), prio := Fin.ofNat 4 (field v 16 2), polled := bit v 13,
                     ty := Fin.ofNat 4 (field v 11 2), log2 := field v 4 5 }
    if bit v 0 && ! q.enable then
      let c := s.comps[q.cq]
      if c.telemetry || ! c.active then { s with subs := vset s.subs n { q with err := 4 } }
      else
        activateSub { s with subs := vset s.subs n { q with enable := true, headPos := 0, err := 0, stopped := false, tail := 0 } } n
    else if ! bit v 0 && q.enable then disableSub s n q
    else { s with subs := vset s.subs n q }

/-- SQ_ENABLE_SET (R242). -/
def execSqEnableSet (sq : RingId) (v : Word) (secure : Bool) (s : State) : Res :=
  .next (if barOpen s secure && bit v.toNat 0 && ! s.subs[sq].enable then writeSubCfg (wakeChip s) sq v.toNat else s)

/-- SQ_ENABLE_CLEAR (R241): every other field of SQ_CFG stands. -/
def execSqEnableClear (sq : RingId) (secure : Bool) (s : State) : Res :=
  .next (if barOpen s secure && s.subs[sq].enable then disableSub (wakeChip s) sq s.subs[sq] else s)

/-! Set-up of completion rings. -/

/-- The first read of a head line has answered: the ring accepts records, or stops (R242, R243). -/
def acquireHead (s : State) (n : RingId) (line : Option (BitVec 32)) : State :=
  match line with
  | none => stopComp s n 2
  | some h =>
    { s with comps := vmod s.comps n fun q => { q with active := true, headSeen := h.toNat, lineHeld := true, lineReading := false } }

/-- Begin accepting records; the head line, where it is not polled, is first acquired (R242, R244). -/
def activateComp (s : State) (n : RingId) (line : Option (Option (BitVec 32))) : State :=
  let q := s.comps[n]
  if ! q.enable || q.active || q.stopped || q.lineReading || ! ringServed s n then s
  else if polls s q.polled then { s with comps := vset s.comps n { q with active := true, headSeen := 0 } }
  else
    let s := ({ s with comps := vset s.comps n { q with lineReading := true } }).emit (.lineRead q.hl)
    match line with
    | none => s
    | some l => acquireHead s n l

/-- CQ_CFG as a read returns it (Table 10.4). -/
def compCfg (q : CompRing) : Nat :=
  q.holdoff <<< 32 + q.vector.1 <<< 16 + q.irqAll.toNat <<< 15 + q.telemetry.toNat <<< 14 + q.polled.toNat <<< 13 +
    q.log2 <<< 4 + q.enable.toNat

/-- CQ_STATUS (Table 10.4). -/
def compStatus (q : CompRing) : Nat :=
  q.tailPos <<< 32 + q.dropped <<< 16 + q.err <<< 8 + q.full.toNat <<< 1 + q.active.toNat

/-- ENABLE is cleared: the line is released, and the records that waited are discarded and counted (R241). -/
def disableComp (s : State) (n : RingId) (q : CompRing) : State :=
  let gone := q.waiting.filterMap (·.closes)
  { s with
    comps := vset s.comps n { q with enable := false, active := false, lineHeld := false, lineReading := false,
                                     full := false, waiting := [],
                                     dropped := min (q.dropped + q.waiting.length) 0xFFFF },
    items := s.items.filter fun i => ! gone.contains i.id }

/-- A write of CQ_CFG (R13, R238 to R242), with the answer of the head line's read where it is there at once. -/
def writeCompCfg (s : State) (n : RingId) (v : Nat) (line : Option (Option (BitVec 32))) : State :=
  if field v 4 5 < 6 || 16 < field v 4 5 then s
  else
    let q0 := s.comps[n]
    let other := (List.finRange 64).any fun m => decide (m ≠ n) && s.comps[m].telemetry
    let q :=
      if q0.active then q0
      else { q0 with holdoff := field v 32 16, vector := Fin.ofNat 64 (field v 16 6), irqAll := bit v 15,
                     telemetry := bit v 14 && ! other, polled := bit v 13, log2 := field v 4 5 }
    if bit v 0 && ! q.enable then
      activateComp { s with comps := vset s.comps n { q with enable := true, tailPos := 0, dropped := 0, err := 0, stopped := false,
                                                             full := false, headSeen := 0, waiting := [] } } n line
    else if ! bit v 0 && q.enable then disableComp s n q
    else { s with comps := vset s.comps n q }

/-- CQ_ENABLE_SET (R242). -/
def execCqEnableSet (cq : RingId) (v : Word) (line : Option (BitVec 32)) (secure : Bool) (s : State) : Res :=
  .next (if barOpen s secure && bit v.toNat 0 && ! s.comps[cq].enable then writeCompCfg (wakeChip s) cq v.toNat (some line) else s)

/-- CQ_ENABLE_CLEAR (R241). -/
def execCqEnableClear (cq : RingId) (secure : Bool) (s : State) : Res :=
  .next (if barOpen s secure && s.comps[cq].enable then pumpRings (disableComp (wakeChip s) cq s.comps[cq]) else s)

/-- Rings enabled in Safe come into service at the Memory stage (R239). -/
def activateRings (s : State) : State :=
  let s := (List.finRange 64).foldl (fun s n => activateComp s n none) s
  (List.finRange 64).foldl activateSub s

/-! Lines (R242 to R245). -/

/-- DOORBELL_STORE (R242): the snoop is answered and the line read again; during S3 the read waits for the exit (R245). -/
def execDoorbellStore (sq : RingId) (s : State) : Res :=
  .next (
    let q := s.subs[sq]
    if polls s q.polled || q.stopped then s
    else if q.lineHeld then
      let s := wakeChip { s with subs := vset s.subs sq { q with lineHeld := false, lineReading := true } }
      if isAwake s then s.emit (.lineRead q.db) else s
    else if q.lineReading then wakeChip { s with subs := vset s.subs sq { q with lineAgain := true } }
    else s)

/-- DOORBELL_LINE_FILL (R242, R243). -/
def execDoorbellLineFill (sq : RingId) (tail : Option (BitVec 32)) (s : State) : Res :=
  .next (
    let q := s.subs[sq]
    if ! q.lineReading || ! isAwake s then s
    else
      match tail with
      | none => stopSub s sq 2
      | some t =>
        if q.lineAgain then
          takeTail (({ s with subs := vset s.subs sq { q with active := true, lineAgain := false } }).emit (.lineRead q.db)) sq t.toNat
        else
          takeTail { s with subs := vset s.subs sq { q with active := true, lineHeld := true, lineReading := false } } sq t.toNat)

/-- DESCRIPTOR_FETCH_DONE (R242, R243, R246). -/
def execDescriptorFetchDone (sq : RingId) (descs : Option (List Desc)) (s : State) : Res :=
  .next (
    let q := s.subs[sq]
    if q.fetching = 0 then s
    else
      match descs with
      | none => stopSub s sq 2
      | some ds =>
        if ds.length ≠ q.fetching then s
        else
          pumpRings { s with subs := vset s.subs sq { q with fetching := 0, fetched := q.fetched ++ ds } })

/-- Every completion ring writes what it has room for. -/
def drainRings (s : State) : State := (List.finRange 64).foldl (fun s n => drainRing (s.comps[n]).waiting.length s n) s

/-- A new HEAD of a completion ring frees space for its waiting records (R242, R260); it wakes the chip when it does (R245). -/
def takeHead (s : State) (cq : RingId) (head : Nat) : State :=
  let q := s.comps[cq]
  let q' := { q with headSeen := head }
  let s := { s with comps := vset s.comps cq q' }
  let s := if q.full && decide (ringFree q < ringFree q') then wakeChip s else s
  if isAwake s then pumpRings (drainRings s) else s

/-- RING_POLL (R244). -/
def execRingPoll (isCq : Bool) (n : RingId) (line : Option (BitVec 32)) (s : State) : Res :=
  .next (
    if isCq then
      let q := s.comps[n]
      if q.active && polls s q.polled && q.full then
        match line with
        | none => stopComp (s.emit (.lineRead q.hl)) n 2
        | some h => takeHead (s.emit (.lineRead q.hl)) n h.toNat
      else s
    else
      let q := s.subs[n]
      if q.active && polls s q.polled then
        match line with
        | none => stopSub (s.emit (.lineRead q.db)) n 2
        | some t =>
          let s := s.emit (.lineRead q.db)
          takeTail (if t.toNat = q.tail then s else wakeChip s) n t.toNat
      else s)

/-- HEAD_LINE_STORE (R242, R243): the head line's first read answers, or a store to the line is snooped and the line read again; or the
write of a record is reported to have failed (DESIGN CHOICE log entry 83). -/
def execHeadLineStore (cq : RingId) (a : HeadAnswer) (s : State) : Res :=
  .next (
    let q := s.comps[cq]
    match a with
    | .writeError => if q.active then stopComp s cq 3 else s
    | .line x =>
      if q.lineReading then acquireHead s cq x
      else if q.active && q.lineHeld then
        match x with
        | none => stopComp (s.emit (.lineRead q.hl)) cq 2
        | some h => takeHead (s.emit (.lineRead q.hl)) cq h.toNat
      else s)

/-- MSIX_HOLDOFF_EXPIRE (R267): one message for the records of the holdoff. -/
def execMsixHoldoffExpire (vec : Fin 64) (s : State) : Res :=
  .next (
    let m := s.msix[vec]
    if m.owed && decide (m.holdTill ≤ s.tally.toNat) then raiseVector s vec m.gap else s)

end Machine
end Sys2Proof
end

