-- ==== Sys2Proof/Machine/Otp.lean ====
section
/-! DEFINITION. The OTP store (R418 to R423) and who may write it (Tables 15.6 to 15.8). -/
namespace Sys2Proof.Machine

/-- Every byte is zero. -/
def allZero (bs : List Byte) : Bool := bs.all fun b => decide (b = 0)

/-- `n` bytes of a list from offset `o`. -/
def part (bs : List Byte) (o n : Nat) : List Byte := (bs.drop o).take n

/-! Thermometers (R420): logical bit `i` has the physical bits 3i to 3i + 2 of the field (DESIGN CHOICE log entry 35). -/

/-- Physical bit `i` of a field. -/
def otpBit (m : Memory) (off i : Nat) : Bool := (m.get (off + i / 8)).getLsbD (i % 8)

/-- Logical bit `i`: at least two of its three physical bits are set. -/
def thermoBit (m : Memory) (off i : Nat) : Bool :=
  decide (2 ≤ (otpBit m off (3 * i)).toNat + (otpBit m off (3 * i + 1)).toNat + (otpBit m off (3 * i + 2)).toNat)

/-- The highest set logical bit plus one, or 0. -/
def thermoValue (m : Memory) (off n : Nat) : Nat := (List.range n).foldl (fun v i => if thermoBit m off i then i + 1 else v) 0

/-- LIFECYCLE, 0 to 4 (R420, Table 15.7). -/
def lifecycle (s : State) : Nat := thermoValue s.sec.otp 0 4
/-- The OTP security version, 0 to 128 (R420). -/
def otpVersion (s : State) : Nat := thermoValue s.sec.otp 0x10 128

/-- Programming only sets bits. -/
def otpSet (m : Memory) (a : Nat) (bs : List Byte) : Memory := m.write a (List.zipWith (· ||| ·) (m.read a bs.length) bs)

/-- Bytes whose low `n` bits are set. -/
def onesBytes (n : Nat) : List Byte := toBytes (ceilDiv n 8) (2 ^ n - 1)

/-- Program a thermometer up to a value: all three physical bits of each logical bit (R420). -/
def thermoSet (m : Memory) (off v : Nat) : Memory := otpSet m off (onesBytes (3 * v))

/-! Slotted fields (R418, R419). -/

/-- Offset and slot size of a slotted field by its FIELD code (R436). -/
def slotField (f : Nat) : Option (Nat × Nat) :=
  if f = 2 then some (0x040, 64) else if f = 3 then some (0x140, 64) else if f = 4 then some (0x240, 64)
  else if f = 5 then some (0x340, 128) else if f = 6 then some (0x540, 64) else none

/-- Set bits of a byte. -/
def ones8 (b : Byte) : Nat := ((List.range 8).filter fun i => b.getLsbD i).length

/-- A slot's marker is set (R419). -/
def slotProgrammed (m : Memory) (off n k : Nat) : Bool := decide (5 ≤ ones8 (m.get (off + n * k + n - 1)))

/-- A slot's content. -/
def slotContent (m : Memory) (off n k : Nat) : List Byte := m.read (off + n * k) (n - 8)

/-- The code of a slot's content and index (R419). -/
def slotCrc (content : List Byte) (k : Nat) : Nat := crc32c (content ++ [BitVec.ofNat 8 k])

/-- A slot is valid: programmed, with a CRC that matches (R419). -/
def slotValid (m : Memory) (off n k : Nat) : Bool :=
  slotProgrammed m off n k && decide (ofBytes (m.read (off + n * k + n - 8) 4) = slotCrc (slotContent m off n k) k)

/-- The active slot of a field: its highest valid one (R419). -/
def activeSlot (m : Memory) (f : Nat) : Option Nat :=
  match slotField f with
  | some (off, n) => [3, 2, 1, 0].find? fun k => slotValid m off n k
  | none => none

/-- The content of the active slot. -/
def activeContent (m : Memory) (f : Nat) : Option (List Byte) :=
  match slotField f, activeSlot m f with
  | some (off, n), some k => some (slotContent m off n k)
  | _, _ => none

/-- The slot that a request programs: the lowest above the active one that is not programmed (R421). -/
def freeSlot (m : Memory) (f : Nat) : Option Nat :=
  match slotField f with
  | some (off, n) =>
    [0, 1, 2, 3].find? fun k => (match activeSlot m f with | some a => decide (a < k) | none => true) && !slotProgrammed m off n k
  | none => none

/-- Program a slot: content, CRC, marker. A slot whose read-back fails keeps a CRC that does not match (R421). -/
def slotSet (m : Memory) (f k : Nat) (content : List Byte) (good : Bool) : Memory :=
  match slotField f with
  | some (off, n) =>
    let c := slotCrc content k
    otpSet m (off + n * k) (content ++ toBytes 4 (if good then c else c ^^^ 1) ++ [0, 0, 0, 0xFF])
  | none => m

/-- Every bit of the four IDENTITY_SEED slots (R451). -/
def seedsScrapped (m : Memory) : Memory := otpSet m 0x540 (List.replicate 256 0xFF)

/-- Column c's mask in the active SPARE_MAP slot; an empty map holds no fence (R418, R423). -/
def spareMask (s : State) (c : Fin 16) : BitVec 13 :=
  match activeContent s.sec.otp 4 with
  | some x => BitVec.ofNat 13 (ofBytes (part x (2 * c.1) 2))
  | none => 0

/-- The bin byte (Table 18.3). -/
def binByte (s : State) : Nat := match activeContent s.sec.otp 4 with | some x => ofBytes (part x 32 1) | none => 0

/-- Column c's voltage trim in mV, from -25 to +15 (R383); an empty TRIMS field counts as zero (R423). -/
def trimOf (s : State) (c : Nat) : BitVec 8 :=
  match activeContent s.sec.otp 5 with
  | some x => BitVec.ofInt 8 (max (-25) (min 15 (Config.columnTrim x c).toInt))
  | none => 0

/-- A required field has no valid slot (R423). -/
def otpLacking (s : State) (lc : Nat) : Bool :=
  decide (lc ≠ 0) && ([2, 4, 5, 6] ++ if lc = 2 then [3] else []).any fun f => (activeSlot s.sec.otp f).isNone

/-! Authorities: 0 the vendor, 1 the owner. -/

/-- Who may program a field in a life-cycle state (Table 15.6). The owner key of PROVISIONED comes with the move to OWNED only. -/
def otpAuthority (f lc : Nat) : Option (Fin 2) :=
  if f = 1 then (if lc = 2 then some 1 else if lc < 4 then some 0 else none)
  else if f = 3 then (if lc = 2 then some 1 else none)
  else if lc = 0 then some 0 else none

/-- Who may make a move (Table 15.8). -/
def moveAuthority (lc dest : Nat) : Option (Fin 2) :=
  if dest = 4 then (if lc = 2 then some 1 else if lc < 4 then some 0 else none)
  else if (lc = 0 && dest = 1) || (lc = 1 && (dest = 2 || dest = 3)) then some 0
  else if lc = 2 && dest = 3 then some 1 else none

/-- Who may unlock debug (Table 15.7). -/
def debugAuthority (lc : Nat) : Option (Fin 2) := if lc = 2 then some 1 else if lc < 4 then some 0 else none

end Sys2Proof.Machine
end

