-- ==== Sys2Proof/Machine/Device.lean ====
section
/-! DEFINITION. Operations on the device as a whole that several commands share: open launches, performance levels (R382 to
R385, R398), fences and states (R362, R366, R368, R402), regions and the HDM window (R181, R269), epochs (R294 to R299), the
trace sink (R463, R465). -/
namespace Sys2Proof.Machine

/-! Launches that are accepted and not complete. -/

def ItemKind.isLaunch : ItemKind → Bool
  | .launch _ => true
  | _ => false

/-- Launches accepted and not complete, with their granted ranges (R252). -/
def launchItems (s : State) : List (Item × LaunchDesc) :=
  s.items.filterMap fun i =>
    match i.kind with
    | .launch d => if i.closing then none else some (i, d)
    | _ => none

/-- A LAUNCH is active or queued. -/
def launchOpen (s : State) : Bool := !(launchItems s).isEmpty

/-- A launch that is active or queued names the core (R387). -/
def awaited (s : State) (c : CoreId) : Bool := (launchItems s).any fun (_, d) => d.sections.any fun x => decide (x.th.core = c)

/-- Two ranges share a byte. -/
def overlaps (a n b m : Nat) : Bool := decide (a < b + m ∧ b < a + n)

/-- A range overlaps the granted range of a LAUNCH that is active or queued (R252). -/
def rangeBusy (s : State) (a n : Nat) : Bool := (launchItems s).any fun (_, d) => overlaps a n d.rangeBase d.rangeBytes

/-! Performance levels. -/

/-- The slower of two levels. -/
def slower (a b : Fin 5) : Fin 5 := if a ≤ b then b else a

/-- Working phases. -/
def phaseCount {w : Nat} (x : BitVec w) : Nat := ((List.range w).filter fun i => x.getLsbD i).length

/-- The cap of Table 13.4 for a domain. -/
def capOf (n : Nat) : Fin 5 := if 5 ≤ n then 0 else if n = 4 then 2 else 4

/-- The level cap: the weakest domain that is not lost (R374). -/
def capLevel (s : State) : Fin 5 :=
  s.power.domains.toList.foldl (fun m d => if d.lost then m else slower m (capOf (phaseCount d.phases))) 0

/-- The level a launch starts at, but for throttling (R385). -/
def askedLevel (s : State) : Fin 5 := slower s.power.requested (capLevel s)

/-- The level without throttling: the launch level during a launch (R47, R398). -/
def baseLevel (s : State) : Fin 5 :=
  match s.launch with
  | some l => if s.launchActive then l.level else askedLevel s
  | none => askedLevel s

/-- The level the cores should run at (R385, R398). -/
def targetLevel (s : State) : Fin 5 := slower (baseLevel s) s.power.throttle

/-- The divider steps in every column domain (R384). -/
def stepDivider (s : State) (l : Fin 5) : State :=
  let s := settleStrs s 0
  { s with power := { s.power with level := l } }

/-- Begin a change under R384 when the level in force is another. A lower level's divider comes first, a higher one's last. -/
def startChange (s : State) : State :=
  let t := targetLevel s
  if s.power.changing.isNone && decide (s.power.level ≠ t) then
    let s := if s.power.level < t then stepDivider s t else s
    { s with power := { s.power with changing := some t } }
  else s

/-- Complete the SET_LEVELs whose level is in force. -/
def settleLevel (s : State) : State :=
  if s.power.changing.isNone then
    (s.items.filter fun i => decide (i.kind = .setLevel false ∧ i.closing = false)).foldl (fun s i => finishItem s i stOK 0) s
  else s

/-- A change of trim takes effect while no launch is active (R383). -/
def applyTrims (s : State) : State :=
  if s.launchActive then s else { s with power := { s.power with trims := Vector.ofFn fun c : Fin 16 => trimOf s c.1 } }

/-- A SET_LEVEL that waited takes effect once no launch is active (R47, R385, R389), as do a raise of the guard band and a change of
trim (R383). -/
def applyLevel (s : State) : State :=
  if s.launchActive then s
  else
    let s := applyTrims s
    let s := { s with power := { s.power with guardBand := min 4 (s.power.guardBand + s.power.guardOwed), guardOwed := 0 } }
    let s := match s.power.pendingTimers with
      | some t => { s with power := { s.power with timers := t, pendingTimers := none } }
      | none => s
    match s.power.pendingLevel with
    | none => s
    | some l =>
      settleLevel (startChange { s with
        power := { s.power with requested := l, pendingLevel := none },
        items := s.items.map fun i => if i.kind = .setLevel true then { i with kind := .setLevel false } else i })

/-- LEVEL_CHANGE_COMPLETE (R384, R385): voltage, bias and assists are the level's, the divider is; a further change may begin. -/
def execLevelChangeComplete (s : State) : Res :=
  .next (match s.power.changing with
    | none => s
    | some l =>
      let s := if s.power.level = l then s else stepDivider s l
      let s := startChange { s with power := { s.power with settings := l, changing := none } }
      applyLevel (settleLevel s))

/-! States, fences (R362, R366, R368). -/

/-- Enter DEGRADED, unless the device is QUIESCED (R257) or in another state that stands. -/
def enterDegraded (s : State) : State :=
  match s.life.state with
  | some .compute => setState { s with life := { s.life with before := .compute } } .degraded
  | some .ready => setState { s with life := { s.life with before := .ready } } .degraded
  | _ => s

/-- Compute becomes READY when both conditions of R409 hold. -/
def tryReady (s : State) : State :=
  if s.life.state = some .compute && readyConditions s then setState s .ready else s

/-- Return from DEGRADED once no column is exhausted and no domain lost (R368), and on to READY when its conditions hold (R409). -/
def leaveDegraded (s : State) : State :=
  if s.life.state = some .degraded && !anyExhausted s then tryReady (setState s s.life.before) else s

/-- A site counts as fenced (R362, R375). -/
def siteFenced (s : State) (c : Fin 16) (row : Nat) : Bool := s.life.masks[c].getLsbD row || s.power.domains[c].lost

/-- Set a column's fence mask; its slide entry follows (R362). -/
def setMask (s : State) (c : Fin 16) (m : BitVec 13) : State :=
  { s with life := { s.life with masks := vset s.life.masks c m, slide := vset s.life.slide c (slideOf m) } }

/-- RESULT of FENCE and REINSTATE (R261). -/
def slideResult (s : State) (c : Fin 16) : Nat := c.1 * 256 + s.life.slide[c].1

/-- The device enters HALTED; `left` is what WIPE with STATUS reports there (R417). -/
def haltDevice (s : State) (left : Nat) : State :=
  setState { s with life := { s.life with wipeLeft := left } } .halted

/-- A QUIESCE entry that waited takes effect once the accepted launches have finished (R257); a device that has halted stays
HALTED (Table 15.1). -/
def finishQuiesce (s : State) : State :=
  if s.life.quiescePending && !launchOpen s && decide (stateCode s ∈ [3, 4, 6]) then
    match s.items.find? fun i => decide (i.kind = .quiesce ∧ i.closing = false) with
    | some i => finishItem (setState { s with life := { s.life with quiescePending := false } } .quiesced) i stOK 0
    | none => s
  else s

/-! Regions (R181, R269). -/

/-- A power of two from 64 KiB to 64 GiB. -/
def regionSize (n : Nat) : Bool := (List.range 21).any fun i => decide (n = 65536 * 2 ^ i)

/-- The fold of R166 of an address. -/
def foldOf (a : Nat) : Nat := field a 8 8 ^^^ field a 16 8 ^^^ field a 24 8 ^^^ field a 32 6

/-- The HDM window lies in the general area and in one MIRROR region (R269). -/
def windowCovered (s : State) (base size : Nat) : Bool :=
  inGeneral base size && s.regions.toList.any fun r =>
    match r with
    | some ⟨b, n, .mirror _⟩ => decide (b ≤ base ∧ base + size ≤ b + n)
    | _ => false

/-- Set or remove the region of a slot; the HDM window closes when no MIRROR region holds it any more (R269). -/
def setRegion (s : State) (slot : Fin 64) (r : Option Region) : State :=
  let s := { s with regions := vset s.regions slot r }
  if s.hdmOn && !windowCovered s (s.hdmBase * 2 ^ 28) (s.hdmSize * 2 ^ 28) then { s with hdmOn := false } else s

/-- The ranges a region takes: its own and its mirror's. -/
def regionRanges (r : Region) : List (Nat × Nat) :=
  match r.src with
  | .mirror m => [(r.base, r.size), (m, r.size)]
  | _ => [(r.base, r.size)]

/-- Regions declared in other slots, with those whose MIRROR copy is under way. -/
def otherRegions (s : State) (slot : Fin 64) : List Region :=
  ((List.finRange 64).filter fun i => decide (i ≠ slot)).filterMap (fun i => s.regions[i]) ++
    s.items.filterMap fun i =>
      match i.kind with
      | .mirror k r => if k = slot || i.closing then none else some r
      | _ => none

/-- Check 5 of a declaration (R181). -/
def regionChecks (s : State) (slot : Fin 64) (r : Region) : List (Bool × Nat) :=
  let mirrorOk := match r.src with
    | .mirror m => decide (m % r.size = 0) && decide (foldOf (r.base ^^^ m) % 8 ≠ 0) && !overlaps r.base r.size m r.size
    | _ => true
  [((regionRanges r).all fun (a, n) => inGeneral a n, stBadAddress),
   (regionSize r.size && decide (r.base % r.size = 0) && mirrorOk, stMalformed),
   ((regionRanges r).all fun (a, n) => (otherRegions s slot).all fun o => (regionRanges o).all fun (b, m) => !overlaps a n b m,
    stMalformed)]

/-- The tables whose master copies the device area holds (Table 7.3), as they stand now. -/
def devTables (s : State) (image : List Byte) : DevArea :=
  { image := image, routes := s.fabric.routes, slide := s.life.slide, regions := s.regions, bufs := s.bufs }

/-! Epochs (R294 to R299, R308). -/

/-- Packets of an epoch that hold it back from being drained (R299). -/
def drainCount (s : State) (e : Fin 2) : Nat :=
  let mine (p : Packet) : Bool := !p.isLocal && decide (p.epoch = e)
  s.fabric.links.toList.foldl (fun n k => n + (k.resend.filter mine).length + (k.txq.filter mine).length) 0 +
    (s.fabric.held.filter fun (_, p) => mine p).length

/-- A link that has trained (R306). -/
def linkTrained (s : State) (code : Nat) : Bool :=
  if h : code < 20 then
    match s.fabric.links[(⟨code, h⟩ : LinkId)].st with
    | .up => true
    | .miswired => true
    | _ => false
  else false

/-- The parent link of a ROLE 0 chip: the route entry's primary for GRAND, or its secondary while that is DOWN or MISWIRED; a parent that
is up stays (R295, R305, R308). -/
def refreshParent (s : State) : State :=
  let keep := match s.align.parent with | some l => linkUp s l.1 | none => false
  if s.align.role ≠ some 0 || keep then s
  else
    match s.fabric.inUse.bind fun e => routeEntry s e 0 s.align.grand with
    | none => s
    | some (a, b) =>
      let code := if linkUp s a then a else if linkUp s b then b else a
      if h : code < 20 then { s with align := { s.align with parent := some ⟨code, h⟩ } } else s

/-! The trace sink (R463 to R466). -/

/-- A trace record's bytes (Table 17.4). -/
def traceBytes (r : TraceRec) : List Byte :=
  [BitVec.ofNat 8 (r.ty + r.stretch.toNat * 16 + r.rep.toNat * 32 + r.thread * 64)] ++ toBytes 1 r.src ++ toBytes 2 r.window ++
    toBytes 4 r.index ++ toBytes 8 r.tally ++ toBytes 8 r.cycles ++ toBytes 8 r.word.toNat

/-- Write up to `n` staged records to the sink (R463). -/
def traceDrain : Nat → State → State
  | 0, s => s
  | n + 1, s =>
    match s.trace.queue with
    | [] => s
    | (_, r) :: rest =>
      let t := s.trace
      let s := hbmWrite s (t.sink + t.written % t.bytes) (traceBytes r)
      traceDrain n (({ s with trace := { t with queue := rest, written := (t.written + 32) % 2 ^ 64 } }).emit (.trace (t.written / 32)))

/-- Staged records whose parity fails as they are read for the sink, the oldest of the read: dropped and counted (Table 7.8, R464). -/
def traceParity : Nat → State → State
  | 0, s => s
  | n + 1, s =>
    match s.trace.queue with
    | [] => s
    | _ :: rest => traceParity n (traceDrop { s with trace := { s.trace with queue := rest } })

/-- Stop recording; what is staged still drains (R465). -/
def traceStop (s : State) : State :=
  { s with trace := { s.trace with enabled := false, draining := decide (s.trace.queue ≠ []) } }

end Sys2Proof.Machine
end

