-- ==== Sys2Proof/Machine/Hbm.lean ====
section
/-! DEFINITION. Where HBM addresses lie, the copies of a sector, and what a restore shows of its lanes (R166, R167, R181, R185,
R370 to R372). -/
namespace Sys2Proof.Machine

/-! Pseudo-channels (R166, R167, R370, R371). -/

/-- Pseudo-channels in service, in increasing order (R167). -/
def inService (s : State) : List Nat := (List.range 256).filter fun q => !s.hbm.retired.contains q

/-- The place that R167 gives an address: pseudo-channel and local granule index. -/
def redirect (s : State) (a : Nat) : Nat × Nat :=
  let p := foldOf a
  let i := a / 65536
  match s.hbm.retired.idxOf? p with
  | none => (p, i)
  | some k =>
    let h := inService s
    (h.getD (i % h.length) 0, 3047424 + k * 24576 + i / h.length)

/-- The mirror copy of a primary sector, or the primary of a mirror sector; which of the two it is. -/
def otherCopy (s : State) (a : Nat) : Option (Nat × Bool) :=
  s.regions.toList.findSome? fun r =>
    match r with
    | some ⟨b, sz, .mirror m⟩ =>
      if b ≤ a ∧ a < b + sz then some (a - b + m, true)
      else if m ≤ a ∧ a < m + sz then some (a - m + b, false)
      else none
    | _ => none

/-- Where an address lies now (R167, R372). DESIGN CHOICE (log entry 80): a redirected granule of a primary that would come to lie on
its mirror copy's pseudo-channel goes to the next one in service, in the upper half of its slot's granules, which R167 leaves free. -/
def placeOf (s : State) (a : Nat) : Nat × Nat :=
  let (q, i) := redirect s a
  match otherCopy s a with
  | some (o, true) =>
    if s.hbm.retired.contains (foldOf a) && decide ((redirect s o).1 = q) then
      let h := inService s
      (h.getD ((a / 65536 + 1) % h.length) 0, i + 12288)
    else (q, i)
  | _ => (q, i)

/-- The pseudo-channel that holds an address now. -/
def pcOf (s : State) (a : Nat) : Nat := (placeOf s a).1

/-- The channel of a pseudo-channel (Table 7.2): sixteen to a stack, two pseudo-channels each. -/
def chanOf (pc : Nat) : Nat := pc % 8 * 16 + pc / 16
/-- The two pseudo-channels of a channel. -/
def pcsOf (chan : Nat) : List (Fin 256) := [0, 1].map fun k => Fin.ofNat 256 ((chan % 16 * 2 + k) * 8 + chan / 16)

/-- Bits in which a failed read of a sector differs from its good data and code (R370). -/
def badBits (a : Nat) (x : SectorRead) (good : List Byte) : List Nat :=
  let d := (ofBytes x.data ^^^ ofBytes good) + 2 ^ 512 * (x.code ^^^ sectorCode a good)
  (List.range 544).filter fun i => bit d i

/-- The lanes that a restored sector shows at fault: those of the bits in which its failed read differs from its data now (R370). -/
def noteLanes (s : State) (a : Nat) : State :=
  match s.hbm.failed.lookup a with
  | none => s
  | some x =>
    let lanes := ((badBits a x (hbmRead s a 64)).map Config.laneOfBit).eraseDups
    { s with hbm := { s.hbm with
      failed := s.hbm.failed.filter (·.1 ≠ a),
      lanes := s.hbm.lanes ++ lanes.map fun n => ⟨chanOf (pcOf s a), n, s.tally.toNat, a⟩ } }

/-- A sector holds good data again (R185, R370). -/
def restored (s : State) (a : Nat) : State := (noteLanes s a).countRun fun c => { c with restores := sat64 c.restores 1 }

/-- Write a good copy over a sector (R185). -/
def restoreFrom (s : State) (a good : Nat) : State :=
  let s := { s with hbm := { s.hbm with mem := s.hbm.mem.copy good a 64, bad := s.hbm.bad.filter (· ≠ a) } }
  restored (s.modLaunch fun l => { l with replayedFor := l.replayedFor.filter (· ≠ a) }) a

/-- The region a sector lies in, with its slot. -/
def regionAt (s : State) (a : Nat) : Option (Nat × Region) :=
  s.regions.toList.zipIdx.findSome? fun (r, i) =>
    match r with
    | some x => if x.base ≤ a ∧ a < x.base + x.size then some (i, x) else none
    | none => none

end Sys2Proof.Machine
end

