-- ==== Sys2Proof/Machine/Descriptors.lean ====
section
/-! DEFINITION. Descriptors that need nothing but the device's own state (R250 to R257): NOP, memory descriptors, routes and
epochs, fences, levels, the Tally's role, trace, regions, QUIESCE. -/
namespace Sys2Proof.Machine

/-- The header's reserved bits are zero, and PARAM above bit `bits` (R14). -/
def headOk (d : Desc) (bits : Nat) : Bool := d.flagsOk && decide (d.param < 2 ^ bits)

/-- A device address of an 8-byte field: 38 bits (R254). DESIGN CHOICE (log entry 72): a bit above them counts as reserved, MALFORMED. -/
def devAddr (n : Nat) : Bool := decide (n < 2 ^ 38)

/-- NOP (R251). -/
def execNop (sq : RingId) (s : State) : Res :=
  .next (dispatch s sq (fun d => decide (d.opc = 0)) fun s d h =>
    checked s h [(headOk d 0 && d.zeroFrom 1, stMalformed)] (answerDesc s h stOK 0))

/-! Memory descriptors (R248, R254, R257, R416, R417). -/

/-- BYTES of COPY and FILL: 64 to 2^38 in multiples of 64 (Table 10.10). -/
def copyBytes (n : Nat) : Bool := decide (64 ≤ n ∧ n ≤ 2 ^ 38 ∧ n % 64 = 0)

/-- COPY (R257). -/
def execCopy (sq : RingId) (s : State) : Res :=
  .next (dispatch s sq (fun d => decide (d.opc = 2)) fun s d h =>
    let sh := bit d.param 0
    let dh := bit d.param 1
    let src := d.word 1
    let dst := d.word 2
    let n := d.word 3
    checked s h
      [(headOk d 2 && !(sh && dh) && d.zeroFrom 4 && decide (src % 64 = 0 ∧ dst % 64 = 0) && copyBytes n && (sh || devAddr src) &&
          (dh || devAddr dst), stMalformed),
       (inStates s [2, 3, 4, 5, 6], stRefused),
       ((sh || inGeneral src n) && (dh || inGeneral dst n), stBadAddress)]
      (acceptItem s d h (.copy sh dh src dst n)))

/-- FILL (R254). -/
def execFill (sq : RingId) (s : State) : Res :=
  .next (dispatch s sq (fun d => decide (d.opc = 3)) fun s d h =>
    let dst := d.word 1
    let n := d.word 2
    checked s h
      [(headOk d 0 && d.zeroFrom 4 && decide (dst % 64 = 0) && copyBytes n && devAddr dst, stMalformed),
       (inStates s [2, 3, 4, 5, 6], stRefused),
       (inGeneral dst n, stBadAddress)]
      (acceptItem s d h (.fill dst n (BitVec.ofNat 64 (d.word 3)))))

/-- WIPE without STATUS (R416, R417). -/
def execWipe (sq : RingId) (s : State) : Res :=
  .next (dispatch s sq (fun d => decide (d.opc = 4) && !bit d.param 0) fun s d h =>
    let all := bit d.param 1
    let base := d.word 1
    let n := d.word 2
    let halted := decide (s.life.state = some .halted)
    checked s h
      [(headOk d 2 && d.zeroFrom 3 && decide (base % 65536 = 0 ∧ n % 65536 = 0) && devAddr base && (!all || d.zeroFrom 1), stMalformed),
       (inStates s [2, 3, 4, 5, 6, 7] && (halted || !launchOpen s), stRefused),
       (all || halted || inGeneral base n, stBadAddress)]
      (if halted then answerDesc s h stOK 0
       else acceptItem s d h (if all then .wipe Config.generalBase (Config.generalEnd - Config.generalBase) else .wipe base n)))

/-- WIPE with STATUS (R257, R413, R417). -/
def execWipeStatus (sq : RingId) (s : State) : Res :=
  .next (dispatch s sq (fun d => decide (d.opc = 4) && bit d.param 0) fun s d h =>
    checked s h [(headOk d 2 && d.zeroFrom 1, stMalformed)] (answerDesc s h stOK s.life.wipeLeft))

/-- REGION_DECLARE with a source (R181, R252). -/
def execRegionDeclare (sq : RingId) (s : State) : Res :=
  .next (dispatch s sq (fun d => decide (d.opc = 0x11) && decide (field d.param 6 2 ≠ 0)) fun s d h =>
    let slot : Fin 64 := Fin.ofNat 64 d.param
    let kind := field d.param 6 2
    let x := d.word 3
    let r : Region := ⟨d.word 1, d.word 2, if kind = 1 then .mirror x else if kind = 2 then .peer x else .host⟩
    let busy := match s.regions[slot] with | some o => rangeBusy s o.base o.size | none => false
    checked s h
      ([(headOk d 8 && d.zeroFrom 4 && devAddr r.base &&
          (if kind = 1 then devAddr x else if kind = 2 then decide (x < 2 ^ 15) else decide (x = 0)), stMalformed),
        (inStates s [2, 3, 4, 5, 6] && !busy, stRefused)] ++ regionChecks s slot r)
      (if kind = 1 then acceptItem s d h (.mirror slot r) else answerDesc (setRegion s slot (some r)) h stOK 0))

/-- REGION_DECLARE with SOURCE 0 (R181). -/
def execRegionRemove (sq : RingId) (s : State) : Res :=
  .next (dispatch s sq (fun d => decide (d.opc = 0x11) && decide (field d.param 6 2 = 0)) fun s d h =>
    let slot : Fin 64 := Fin.ofNat 64 d.param
    let busy := match s.regions[slot] with | some o => rangeBusy s o.base o.size | none => false
    checked s h
      [(headOk d 8 && d.zeroFrom 3 && devAddr (d.word 1), stMalformed), (inStates s [2, 3, 4, 5, 6] && !busy, stRefused)]
      (answerDesc (setRegion s slot none) h stOK 0))

/-- Items accepted before one. -/
def itemsBefore (s : State) (i : Item) : List Item := s.items.filter fun j => decide (j.id < i.id)

/-- A COPY of exactly the sector that a restore waits for (R248, R264). -/
def isRestore (s : State) (i : Item) : Bool :=
  match i.kind, s.launch with
  | .copy _ false _ dst n, some l => decide (n = 64) && l.restoreReq.any fun x => decide (x.1 = dst)
  | _, _ => false

/-- A memory descriptor has started (R248); none goes on in HALTED (Table 10.8). -/
def memoryMayRun (s : State) (i : Item) : Bool :=
  !i.closing && decide (s.life.state ≠ some .halted) && (isRestore s i ||
    ((itemsBefore s i).all fun j => (!j.kind.isLaunch || j.closing) && (!i.ordered || decide (j.h.sq ≠ i.h.sq))))

/-- A stored error stands in a range of HBM. -/
def badIn (s : State) (a n : Nat) : Bool := s.hbm.bad.any fun x => overlaps x 64 a n

/-- The cells of an 8-byte pattern over a range of `n` words (R254). -/
def fillCells (dst n : Nat) (pattern : Word) : Memory :=
  Memory.cells dst ((List.replicate n (toBytes 8 pattern.toNat)).flatten)

/-- The COPY of a restore lets the requester go on (R264, Table 7.9). -/
def endRestore (s : State) (i : Item) : State :=
  if isRestore s i then
    match i.kind, s.launch with
    | .copy _ _ _ dst _, some l =>
      let since := (l.restoreReq.find? fun x => decide (x.1 = dst)).map (·.2)
      let s := s.modLaunch fun l => { l with restoreReq := l.restoreReq.filter fun x => decide (x.1 ≠ dst) }
      loseCycles s (coreCycles s (s.tally.toNat - since.getD s.tally.toNat))
    | _, _ => s
  else s

/-- The copy of a primary into its mirror, with sectors that fail copied as they are (R257). -/
def mirrorCopy (s : State) (slot : Fin 64) (r : Region) (m : Nat) : State :=
  let bad := s.hbm.bad.filter fun x => decide (r.base ≤ x ∧ x < r.base + r.size)
  let s := { s with hbm := { s.hbm with
    mem := s.hbm.mem.copy r.base m r.size,
    bad := dropSectors s.hbm.bad m r.size ++ bad.map fun x => x - r.base + m } }
  setRegion (s.countRun fun c => { c with stored := sat64 c.stored bad.length }) slot (some r)

/-! Routes and epochs (R252, R294, R298, R299). -/

/-- An entry of Table 11.8 without a reserved code or bit. -/
def routeCodeOk (c : Nat) : Bool := decide (c < 20 ∨ c = 0x1E ∨ c = 0x1F)
def routeOk (own i e : Nat) : Bool :=
  let a := field e 0 5
  let b := field e 5 5
  decide (e < 1024) && routeCodeOk a && routeCodeOk b &&
    (if i = own then a = 0x1F && b = 0x1F else decide (a ≠ 0x1F) && decide (b ≠ 0x1F))

/-- The table is acceptable (R294). -/
def tableOk (s : State) (es : List Nat) : Bool :=
  decide (es.length = 32768) && es.zipIdx.all fun (e, i) => routeOk s.chipId i e

/-- Load an epoch; the first load makes it the epoch in use (R409). -/
def loadRoutes (s : State) (e : Fin 2) (r : Routes) : State :=
  let f := s.fabric
  let s := { s with fabric := { f with
    routes := vset f.routes e r, fresh := vset f.fresh e true, inUse := some (f.inUse.getD e) } }
  tryReady (refreshParent s)

/-- ROUTE_LOAD (R294). -/
def execRouteLoad (sq : RingId) (table : Option (List Nat)) (s : State) : Res :=
  .next (dispatch s sq (fun d => decide (d.opc = 6)) fun s d h =>
    let e : Fin 2 := Fin.ofNat 2 d.param
    let algo := bit d.param 1
    let draining := match s.fabric.draining with | some (o, _) => decide (o = e) | none => false
    checked s h
      [(headOk d 2 && d.zeroFrom 3 && (!algo || d.zeroFrom 1), stMalformed),
       (inStates s [3, 4, 5] && decide (s.fabric.inUse ≠ some e ∧ drainCount s e = 0) && !draining, stRefused),
       (!s.life.locks.getLsbD 3, stLocked),
       (algo || decide (d.word 2 = 65536), stMalformed)]
      (if algo then answerDesc (loadRoutes s e .algo) h stOK 0
       else
         let s := s.emit (.hostRead (d.word 1) 65536)
         match table with
         | none => answerDesc s h stBadAddress 0
         | some es =>
           if tableOk s es then answerDesc (loadRoutes s e (.table es)) h stOK 0 else answerDesc s h stMalformed 0))

/-- EPOCH_SWITCH (R298). -/
def execEpochSwitch (sq : RingId) (s : State) : Res :=
  .next (dispatch s sq (fun d => decide (d.opc = 7)) fun s d h =>
    let e : Fin 2 := Fin.ofNat 2 d.param
    checked s h
      [(headOk d 1 && d.zeroFrom 2, stMalformed),
       (inStates s [4, 5] && s.fabric.switch.isNone && s.fabric.fresh[e], stRefused)]
      (let s := acceptItem s d h (.epochSwitch e (d.word 1))
       { s with fabric := { s.fabric with switch := some (e, d.word 1), switchAt := d.word 1 } }))

/-- A packet of this chip's that has waited since before AT goes out under the new epoch: by its routes, but a line's copies by their
pair (R298, R303). -/
def sendAnew (s : State) (l : LinkId) (p : Packet) : State :=
  match lineDim p with
  | some d => if s.chipId = lineFirst p d then queueOn s l { p with epoch := (epochNow s).getD 0 } else sendSource s p
  | none => if redLine p then queueOn s l { p with epoch := (epochNow s).getD 0 } else sendSource s p

/-- Every such packet, link by link. -/
def sendOutdated (s : State) : State :=
  (List.finRange 20).foldl (fun s l =>
    let old := (s.fabric.links[l]).txq.filter (outdated s)
    let s := modLink s l fun k => { k with txq := k.txq.filter fun p => !outdated s p }
    old.foldl (fun s p => sendAnew s l p) s) s

/-- EPOCH_SWITCH_EFFECT (R46, R298): in the tick of AT. -/
def execEpochSwitchEffect (s : State) : Res :=
  .next (match s.fabric.switch with
    | none => s
    | some (e, t) =>
      if s.tally.toNat < t then s
      else
        let f := s.fabric
        let old := match f.inUse with | some o => if o = e then f.draining else some (o, t) | none => f.draining
        let s := sendOutdated { s with fabric := { f with inUse := some e, switch := none, draining := old } }
        match s.items.find? fun i => decide (i.kind = .epochSwitch e t ∧ i.closing = false) with
        | some i => finishItem s i stOK t
        | none => s)

/-- EPOCH_DRAINED (R299). -/
def execEpochDrained (s : State) : Res :=
  .next (match s.fabric.draining with
    | none => s
    | some (e, t) =>
      if s.tally.toNat < t + 524800 || drainCount s e ≠ 0 then s
      else
        eventRecord { s with fabric := { s.fabric with draining := none, fresh := vset s.fabric.fresh e false } } 5 0 [(9, 1, e.1)])

/-! Fences (R366). -/

/-- FENCE (R366). -/
def execFence (sq : RingId) (s : State) : Res :=
  .next (dispatch s sq (fun d => decide (d.opc = 8)) fun s d h =>
    let c : Fin 16 := Fin.ofNat 16 d.param
    let row := field d.param 4 4
    let m := s.life.masks[c] ||| BitVec.ofNat 13 (2 ^ row)
    checked s h
      [(headOk d 9 && decide (row ≤ 12) && d.zeroFrom 1, stMalformed),
       (inStates s [3, 4, 5, 6] && !launchOpen s, stRefused)]
      (if siteFenced s c row then answerDesc s h stFenced (slideResult s c)
       else if maskExhausted m && !bit d.param 8 then answerDesc s h stSpare (slideResult s c)
       else
         let s := setMask s c m
         answerDesc (if maskExhausted m then enterDegraded s else s) h stOK (slideResult s c)))

/-- REINSTATE (R366). -/
def execReinstate (sq : RingId) (s : State) : Res :=
  .next (dispatch s sq (fun d => decide (d.opc = 9)) fun s d h =>
    let c : Fin 16 := Fin.ofNat 16 d.param
    let row := field d.param 4 4
    checked s h
      [(headOk d 8 && decide (row ≤ 12) && d.zeroFrom 1, stMalformed),
       (inStates s [3, 4, 5, 6] && !launchOpen s && siteFenced s c row, stRefused)]
      (acceptItem s d h (.reinstate (Fin.ofNat 208 (16 * row + c.1)))))

/-- REINSTATE_BIST_DONE (R366, R368): of the first REINSTATE still open; a lost domain's site has no power to pass with. -/
def execReinstateBistDone (pass : Bool) (s : State) : Res :=
  .next (match s.items.find? fun i => match i.kind with | .reinstate _ => !i.closing | _ => false with
    | none => s
    | some i =>
      match i.kind with
      | .reinstate site =>
        let c : Fin 16 := Fin.ofNat 16 site.1
        if pass && !s.power.domains[c].lost then
          let s := leaveDegraded (setMask s c (s.life.masks[c] &&& ~~~BitVec.ofNat 13 (2 ^ (site.1 / 16))))
          finishItem s i stOK (slideResult s c)
        else finishItem s i stFenced (slideResult s c)
      | _ => s)

/-! Levels (R385, R389). -/

/-- A timer's new value: 0 keeps the current one (R389). -/
def newTimer (cur v : Nat) : Nat := if v = 0 then cur else v
def timerOk (lo v : Nat) : Bool := decide (v = 0 ∨ v = 2 ^ 64 - 1 ∨ (lo ≤ v ∧ v < 2 ^ 40))

/-- SET_LEVEL (R385, R389). -/
def execSetLevel (sq : RingId) (s : State) : Res :=
  .next (dispatch s sq (fun d => decide (d.opc = 0xA)) fun s d h =>
    let keep := bit d.param 3
    let level : Fin 5 := Fin.ofNat 5 (field d.param 0 3)
    let (a, b, c) := s.power.pendingTimers.getD s.power.timers
    let t := (newTimer a (d.word 1), newTimer b (d.word 2), newTimer c (d.word 3))
    let off := 2 ^ 64 - 1
    checked s h
      [(headOk d 4 && decide (field d.param 0 3 ≤ 4) && d.zeroFrom 4, stMalformed),
       (inStates s [3, 4, 5, 6], stRefused),
       (keep || !s.life.locks.getLsbD 2, stLocked),
       (timerOk 525 (d.word 1) && timerOk 105000 (d.word 2) && timerOk 52500000 (d.word 3) &&
          decide (t.1 = off ∨ t.2.1 = off ∨ t.1 < t.2.1), stMalformed)]
      (let s := if s.launchActive then { s with power := { s.power with pendingTimers := some t } }
         else { s with power := { s.power with timers := t, pendingTimers := none } }
       if keep then answerDesc s h stOK 0
       else
         let s := (s.items.filter fun i => decide (i.kind = .setLevel true ∧ i.closing = false)).foldl (fun s i => finishItem s i stOK 0) s
         let s := acceptItem s d h (.setLevel true)
         applyLevel { s with power := { s.power with pendingLevel := some level } }))

/-! The Tally's role (R305, R308). -/

/-- Complete TALLY_ALIGN: the chip is aligned (R308, R409). -/
def alignDone (s : State) : State :=
  let s := { s with align := { s.align with aligned := true, okDone := true } }
  let s := (s.items.filter fun i => decide (i.kind = .tallyAlign ∧ i.closing = false)).foldl (fun s i => finishItem s i stOK 0) s
  tryReady s

/-- TALLY_ALIGN (R305, R309). -/
def execTallyAlign (sq : RingId) (s : State) : Res :=
  .next (dispatch s sq (fun d => decide (d.opc = 0xF)) fun s d h =>
    let role : Fin 3 := Fin.ofNat 3 d.param
    checked s h
      [(headOk d 2 && decide (d.param < 3) && decide (d.word 1 < 2 ^ 15) && d.zeroFrom 3, stMalformed),
       (inStates s [3, 4, 5] && !launchOpen s, stRefused)]
      (let s := acceptItem s d h .tallyAlign
       let s := { s with align := { s.align with begun := s.align.ticks } }
       let init : Word := BitVec.ofNat 64 (d.word 2)
       let s := { s with align := { s.align with role := some role, grand := d.word 1, initial := init, parent := none,
                                                 stepped := false, good := 0, bad := 0, aligned := false, okDone := false,
                                                 refOut := decide (role = 1) } }
       if role = 0 then refreshParent s
       else
         let s := { setTally s init with align := { (setTally s init).align with integ := 0, rate := 0, acc := 0 } }
         if role = 1 then alignDone s else s))

/-- TALLY_ALIGN_TIMEOUT (R308): not aligned within 1,312,500,000 ticks. -/
def execTallyAlignTimeout (s : State) : Res :=
  .next (
    let open_ := s.items.filter fun i => decide (i.kind = .tallyAlign ∧ i.closing = false)
    if open_.isEmpty || s.align.ticks < s.align.begun + 1312500000 then s
    else open_.foldl (fun s i => finishItem s i stInternal 0) { s with life := { s.life with failCode := 0x30 } })

/-! Trace (R462, R465). -/

/-- Complete the TRACE_CTLs that wait for the drain (R465). -/
def traceDrained (s : State) : State :=
  if s.trace.queue = [] then
    let s := { s with trace := { s.trace with draining := false } }
    (s.items.filter fun i => decide (i.kind = .traceStop ∧ i.closing = false)).foldl (fun s i => finishItem s i stOK 0) s
  else s

/-- TRACE_CTL with ENABLE set (R462). -/
def execTraceCtlEnable (sq : RingId) (s : State) : Res :=
  .next (dispatch s sq (fun d => decide (d.opc = 0x10) && bit d.param 0) fun s d h =>
    let sink := d.word 1
    let n := d.word 2
    let cols : BitVec 16 := BitVec.ofNat 16 (d.word 3)
    let rows : BitVec 12 := BitVec.ofNat 12 (field (d.word 3) 16 12)
    let disp := bit (d.word 3) 28
    checked s h
      [(headOk d 1 && decide (d.word 3 < 2 ^ 29) && d.zeroFrom 4 && devAddr sink, stMalformed),
       (inStates s [3, 4, 5, 6], stRefused),
       (!s.life.locks.getLsbD 5, stLocked),
       (decide (sink % 65536 = 0 ∧ n % 65536 = 0 ∧ 65536 ≤ n) && inGeneral sink n, stBadAddress),
       (disp || decide (cols ≠ 0 ∧ rows ≠ 0), stMalformed)]
      (let s := traceDrained (traceDrain s.trace.queue.length s)
       answerDesc { s with trace := { trace0 with enabled := true, sink := sink, bytes := n, cols := cols, rows := rows, disp := disp } } h stOK 0))

/-- TRACE_CTL with ENABLE clear (R465). -/
def execTraceCtlDisable (sq : RingId) (s : State) : Res :=
  .next (dispatch s sq (fun d => decide (d.opc = 0x10) && !bit d.param 0) fun s d h =>
    checked s h
      [(headOk d 1 && decide (d.word 3 < 2 ^ 29) && d.zeroFrom 4 && devAddr (d.word 1), stMalformed), (inStates s [3, 4, 5, 6], stRefused)]
      (traceDrained (traceStop (acceptItem s d h .traceStop))))

/-- TRACE_DRAIN_DONE (R465). -/
def execTraceDrainDone (s : State) : Res :=
  .next (if s.trace.enabled || !s.trace.draining then s else traceDrained (traceDrain s.trace.queue.length s))

/-! QUIESCE (R257). -/

/-- QUIESCE entry (R257). -/
def execQuiesce (sq : RingId) (s : State) : Res :=
  .next (dispatch s sq (fun d => decide (d.opc = 0x12) && !bit d.param 0) fun s d h =>
    checked s h
      [(headOk d 1 && d.zeroFrom 1, stMalformed), (inStates s [3, 4, 6] && !s.life.quiescePending, stRefused)]
      (let s := acceptItem s d h .quiesce
       finishQuiesce { s with life := { s.life with quiescePending := true } }))

/-- QUIESCE with LEAVE (R257). -/
def execQuiesceLeave (sq : RingId) (s : State) : Res :=
  .next (dispatch s sq (fun d => decide (d.opc = 0x12) && bit d.param 0) fun s d h =>
    checked s h
      [(headOk d 1 && d.zeroFrom 1, stMalformed), (inStates s [5], stRefused)]
      (let base : DevState := if readyConditions s then .ready else .compute
       let s := if anyExhausted s then setState { s with life := { s.life with before := base } } .degraded else setState s base
       answerDesc s h stOK 0))

end Sys2Proof.Machine
end

