-- ==== Sys2Proof/Machine/Convert.lean ====
section
/-! DEFINITION. Conversion of runs of elements (R75, R79, R137, R155, R518), the same for the vector engine and the DMA
engine. -/
namespace Sys2Proof.Machine

/-- The random values of R82 for a seed and a stream word, from an index on; none are drawn outside SR. -/
def randOf (mode : RMode) (seed : Word) (stream index : Nat) (i : Nat) : Nat :=
  if mode = .sr then srRandom seed stream (index + i) else 0

/-- The pair of a 64-bit element: hi first (R66). -/
def pairOf (x : Nat) : Pair := ⟨BitVec.ofNat 32 x, BitVec.ofNat 32 (x / 2 ^ 32)⟩

/-- Blocks of 64. -/
def blocks64 {α : Type} (l : List α) : List (List α) :=
  (List.range (ceilDiv l.length 64)).map fun q => (l.drop (64 * q)).take 64

/-- Bytes of the elements of a run, its scales not counted (R64, R136). -/
def runBytes (f : Fmt) (n : Nat) : Nat := if f = .nb12 then 104 * ceilDiv n 64 else elemBytes f n
/-- Bytes of a run's scales (R136). -/
def scaleBytes (f : Fmt) (n : Nat) : Nat := if f.isMx then ceilDiv n 32 else 0

/-- The exact values of a run of `n` elements from its bytes and its scales. -/
def runValues (f : Fmt) (n : Nat) (bytes scales : List Byte) : List Val :=
  match f with
  | .nb12 =>
    ((List.range (ceilDiv n 64)).flatMap fun q =>
      let b := nbUnpack ((bytes.drop (104 * q)).take 104)
      b.m.map (nbVal b.scale)).take n
  | .fp32p => (unpackElems 64 n bytes).map fun x => pairVal (readPair (pairOf x))
  | _ =>
    let es := unpackElems f.bits n bytes
    if f.isMx then
      ((blocks32 es).zip scales).flatMap fun (blk, sc) => blk.map (mxVal f sc.toNat)
    else es.map (unpack f)

/-- A converted run: its element bytes, its scale bytes, its flags. -/
structure RunOut where
  bytes  : List Byte
  scales : List Byte
  flags  : FlagWord
deriving DecidableEq, Repr

/-- OR of a list of flag words. -/
def orAll (l : List FlagWord) : FlagWord := l.foldl (· ||| ·) 0

/-- Convert a run of values into a destination format (R73 to R79, R518); `rand` gives element i its random value. -/
def convRun (dst : Fmt) (mode : RMode) (f8sat : Bool) (rand : Nat → Nat) (xs : List Val) : RunOut :=
  match dst with
  | .nb12 =>
    let bs := (blocks64 xs).map fun b => nbConvert (b ++ List.replicate (64 - b.length) (Val.zero false))
    ⟨bs.flatMap fun b => nbPack b.1, [], orAll (bs.map (·.2))⟩
  | .mxE4m3 | .mxE5m2 | .mxfp4 =>
    let qs := (blocks32 xs).zipIdx.map fun (b, q) => mxQuantise dst mode (fun i => rand (32 * q + i)) b
    ⟨packElems dst.bits (qs.flatMap fun q => q.2.1), qs.map fun q => BitVec.ofNat 8 q.1, orAll (qs.map (·.2.2))⟩
  | _ =>
    let es := xs.zipIdx.map fun (v, i) => toFormat dst mode f8sat (rand i) v
    ⟨packElems dst.bits (es.map (·.1)), [], orAll (es.map (·.2))⟩

/-- The conversion that CONVERT and DMA CONVERT name (R75, R155): rows of Table 3.7 that need no mode ignore it. -/
def convertRun (src dst : Fmt) (mode : RMode) (f8sat : Bool) (rand : Nat → Nat) (xs : List Val) : RunOut :=
  convRun dst (if convModeless src dst then .rne else mode) f8sat rand xs

end Sys2Proof.Machine
end

