-- ==== Sys2Proof/Machine/Dma.lean ====
section
/-! DEFINITION. The DMA engine and the use-count buffers: descriptors, their checks, transfers, GATHER, BUFDEF and FADD (R173
to R180, R210 to R212, R521). -/
namespace Sys2Proof.Machine

/-! Descriptors (Table 7.4). -/

/-- A descriptor from its 64 bytes. -/
def dmaDesc (bs : List Byte) : DmaDesc :=
  let f (o n : Nat) : Nat := ofBytes ((bs.drop o).take n)
  { op := f 0 1, fmt := f 1 1, ctl := f 2 1, buf := f 3 1, seedReg := f 4 1, stream := f 5 3, src := f 8 8, dst := f 16 8,
    rowElems := f 24 4, rows := f 28 4, srcStride := f 32 8, dstStride := f 40 8, indexBase := f 48 8, scaleOff := f 56 8 }

def DmaDesc.mode (d : DmaDesc) : Nat := d.ctl % 4
def DmaDesc.f8sat (d : DmaDesc) : Bool := bit d.ctl 2
def DmaDesc.release (d : DmaDesc) : Bool := bit d.ctl 3
def DmaDesc.srcHbm (d : DmaDesc) : Bool := bit d.ctl 4
def DmaDesc.dstHbm (d : DmaDesc) : Bool := bit d.ctl 5
def DmaDesc.bufSrc (d : DmaDesc) : Bool := bit d.ctl 6
def DmaDesc.srcFmt (d : DmaDesc) : Option Fmt := Fmt.ofCode (d.fmt % 16)
def DmaDesc.dstFmt (d : DmaDesc) : Option Fmt := Fmt.ofCode (d.fmt / 16)
/-- SRC_CHIP of a GATHER. -/
def DmaDesc.chip (d : DmaDesc) : Nat := d.seedReg + 256 * (d.stream % 256)
def DmaDesc.srcMx (d : DmaDesc) : Bool := match d.srcFmt with | some f => f.isMx | none => false
def DmaDesc.dstMx (d : DmaDesc) : Bool := match d.dstFmt with | some f => f.isMx | none => false

/-- Operations of Table 7.5. -/
def opCOPY : Nat := 0
def opCONVERT : Nat := 1
def opTRANSPOSE : Nat := 2
def opGATHER : Nat := 3
def opATOMIC : Nat := 4
def opFILL : Nat := 5

/-- The formats an operation takes (Table 7.5, R518). -/
def dmaFormatsOk (d : DmaDesc) : Bool :=
  if d.op = opFILL then d.fmt = 0
  else
    match d.srcFmt, d.dstFmt with
    | some a, some b =>
      if d.op = opCONVERT then !(a = .nb12 || b = .nb12) || d.rowElems % 64 = 0
      else if d.op = opTRANSPOSE then a = b && !a.isMx && (a.bits = 8 || a.bits = 16 || a.bits = 32)
      else if d.op = opATOMIC then a = b && (a = .fp32 || a = .int32)
      else a = b
    | _, _ => false

/-- The unused fields are zero and the used ones in range (R174, R521). -/
def dmaFieldsOk (d : DmaDesc) : Bool :=
  let conv := decide (d.op = opCONVERT)
  let gather := decide (d.op = opGATHER)
  let fill := decide (d.op = opFILL)
  let moves := decide (d.op ≤ opTRANSPOSE)
  let scales := decide (d.op ≤ opCONVERT)
  decide (d.op ≤ 5) && !bit d.ctl 7 && decide (d.mode ≠ 3) && (conv || (d.mode = 0 && !d.f8sat)) &&
    (if conv then (if d.mode = 2 then decide (1 ≤ d.seedReg ∧ d.seedReg ≤ 31) else d.seedReg = 0) else gather || d.seedReg = 0) &&
    (conv || (if gather then decide (d.stream < 128) else d.stream = 0)) &&
    (moves || (if gather then d.srcHbm else !d.srcHbm)) &&
    (moves || fill || d.dstHbm) &&
    (!d.bufSrc || (moves && d.srcHbm)) && (gather || d.bufSrc || d.release || d.buf = 0) &&
    (!fill || d.srcStride = 0) && decide (d.indexBase < 2 ^ 40) && (conv || d.indexBase = 0) &&
    ((scales && d.srcMx) || d.scaleOff % 2 ^ 32 = 0) && ((scales && d.dstMx) || d.scaleOff / 2 ^ 32 = 0) &&
    decide (1 ≤ d.rowElems ∧ d.rowElems ≤ 1048576 ∧ 1 ≤ d.rows ∧ d.rows ≤ 1048576) &&
    (fill || decide (d.src < 2 ^ (if d.srcHbm then 38 else 21))) && decide (d.dst < 2 ^ (if d.dstHbm then 38 else 21)) &&
    dmaFormatsOk d

/-- A conversion outside Table 3.7 (R75). -/
def dmaConvertBad (d : DmaDesc) : Bool :=
  d.op = opCONVERT && (match d.srcFmt, d.dstFmt, RMode.ofCode d.mode with
    | some a, some b, some m => !convAllowed a b m
    | _, _, _ => false)

/-! Extents (R175). -/

/-- Rows of bytes in the bench or in HBM. -/
structure Extent where
  hbm    : Bool
  base   : Int
  stride : Nat
  rows   : Nat
  bytes  : Nat
deriving DecidableEq, Repr

/-- Bytes of `n` elements of a row. -/
def rowBytes (f : Option Fmt) (n : Nat) : Nat := match f with | some f => runBytes f n | none => 0

/-- Source rows, then the source scales. -/
def srcExtents (d : DmaDesc) : List Extent :=
  if d.op = opFILL then []
  else
    let rows : Extent := ⟨d.srcHbm, d.src, d.srcStride, d.rows, rowBytes d.srcFmt d.rowElems⟩
    if d.srcMx && decide (d.op ≤ opCONVERT) then
      [rows, ⟨d.srcHbm, d.src + signed 32 d.scaleOff, 0, 1, d.rows * ceilDiv d.rowElems 32⟩]
    else [rows]

/-- Destination rows, then the destination scales. -/
def dstExtents (d : DmaDesc) : List Extent :=
  if d.op = opFILL then [⟨d.dstHbm, d.dst, d.dstStride, d.rows, d.rowElems⟩]
  else if d.op = opTRANSPOSE then [⟨d.dstHbm, d.dst, d.dstStride, d.rowElems, rowBytes d.dstFmt d.rows⟩]
  else
    let rows : Extent := ⟨d.dstHbm, d.dst, d.dstStride, d.rows, rowBytes d.dstFmt d.rowElems⟩
    if d.dstMx && decide (d.op ≤ opCONVERT) then
      [rows, ⟨d.dstHbm, d.dst + signed 32 (d.scaleOff / 2 ^ 32), 0, 1, d.rows * ceilDiv d.rowElems 32⟩]
    else [rows]

/-- First address above an extent. -/
def Extent.top (e : Extent) : Int := e.base + (e.rows - 1) * e.stride + e.bytes
/-- Some row reaches the addresses from `lo` up to `hi`. -/
def Extent.hits (e : Extent) (lo hi : Int) : Bool :=
  decide (e.base < hi ∧ lo < hi ∧ 0 < e.bytes) &&
    (let r : Nat := if e.stride = 0 then 0 else min (e.rows - 1) ((hi - 1 - e.base).toNat / e.stride)
     decide (lo < e.base + r * e.stride + e.bytes))
/-- Two extents share a byte. -/
def Extent.meets (a b : Extent) : Bool :=
  a.hbm = b.hbm && (List.range a.rows).any fun r => b.hits (a.base + r * a.stride) (a.base + r * a.stride + a.bytes)
/-- Some row covers a part of the addresses from `lo` up to `hi`, but not all of them. -/
def Extent.parts (e : Extent) (lo hi : Int) : Bool :=
  e.hits lo hi && (List.range e.rows).any fun r =>
    let b := e.base + r * e.stride
    decide (b < hi ∧ lo < b + e.bytes) && !decide (b ≤ lo ∧ hi ≤ b + e.bytes)
/-- A row overlaps the row before it. -/
def Extent.folds (e : Extent) : Bool := decide (1 < e.rows ∧ e.stride < e.bytes)
/-- The extent lies in [lo, hi). -/
def Extent.within (e : Extent) (lo hi : Nat) : Bool := decide ((lo : Int) ≤ e.base ∧ e.top ≤ hi)

/-- The granted range of the launch. -/
def grantOf (s : State) : Nat × Nat :=
  match s.launch with
  | some l => (l.d.rangeBase, l.d.rangeBase + l.d.rangeBytes)
  | none => (0, 0)

/-- Outside the bench, or outside the granted range (R175). -/
def Extent.outside (s : State) (e : Extent) : Bool :=
  if e.hbm then let (lo, hi) := grantOf s; !e.within lo hi else !e.within 0 Config.benchEnd

/-- An extent in the other lane's banks. -/
def Extent.otherLane (split : Bool) (t : ThreadId) (e : Extent) : Bool :=
  split && !e.hbm && (if t = 0 then e.hits Config.laneB Config.benchEnd else e.hits 0 Config.laneB)

/-- The alignment of R175. -/
def dmaAlign (f : Option Fmt) : Nat :=
  match f with
  | some f => if f = .nb12 then 8 else if f.bits ≤ 8 then 1 else f.bits / 8
  | none => 1

/-- A source or destination that breaks its alignment. -/
def dmaMisaligned (d : DmaDesc) : Bool :=
  d.op ≠ opFILL &&
    (let bad (a stride rows al : Nat) : Bool := a % al ≠ 0 || (decide (1 < rows) && stride % al ≠ 0)
     bad d.src d.srcStride d.rows (dmaAlign d.srcFmt) ||
       bad d.dst d.dstStride (if d.op = opTRANSPOSE then d.rowElems else d.rows) (dmaAlign d.dstFmt))

/-- The source lies on this chip. -/
def DmaDesc.srcHere (s : State) (d : DmaDesc) : Bool := d.op ≠ opGATHER || d.chip = s.chipId

/-- The source and destination, or two rows, overlap, or an address lies outside its range (R175). A source on another chip, which
that chip judges, is out of range here only where the 38 bits of a device address do not reach it (R165, Table 7.10). -/
def dmaRangeBad (s : State) (d : DmaDesc) : Bool :=
  let src := srcExtents d
  let dst := dstExtents d
  (if d.srcHere s then src.any (Extent.outside s) else src.any fun e => decide (2 ^ 38 < e.top)) || dst.any (Extent.outside s) || src.any Extent.folds ||
    dst.any Extent.folds || (d.srcHere s && src.any fun a => dst.any fun b => if a.rows ≤ b.rows then a.meets b else b.meets a)

/-! Buffers (R178, R179, R212). -/

def bufOf (s : State) (i : Nat) : BufEntry := s.bufs[Fin.ofNat 256 i]
def modBuf (s : State) (i : Nat) (f : BufEntry → BufEntry) : State := { s with bufs := vmod s.bufs (Fin.ofNat 256 i) f }

/-- The GATHER of this thread, index and place that the open pass has issued before (R212). -/
def priorFill (e : BufEntry) (c : Ctx) (step : Nat) : Option Fill :=
  e.fills.find? fun f => decide (f.th = c.th ∧ f.index = c.ix ∧ f.step = some step)

/-- One of an entry's parts has arrived; at the last the entry is READY and its event is posted (Table 7.7). -/
def partDone (s : State) (i : Nat) : State :=
  let e := bufOf s i
  let s := modBuf s i fun e =>
    { e with parts := e.parts - 1, st := if e.parts ≤ 1 then .ready else e.st, again := e.again && decide (1 < e.parts) }
  if 1 < e.parts then s
  else if e.again then s.modLaunch fun l => { l with regather := l.regather - 1 }
  else incEvent s e.core e.ev

/-- A buffer rule broken (R179). -/
def bufStateBad (s : State) (c : Ctx) (d : DmaDesc) : Bool :=
  let e := bufOf s d.buf
  if d.op = opGATHER then
    ((priorFill e c (s.th c.th).stepNo).isNone && decide (e.st ≠ .filling)) ||
      (dstExtents d).any fun x => !x.within e.base (e.base + e.size)
  else d.bufSrc && (e.st = .free || (srcExtents d).any fun x => !x.within e.base (e.base + e.size))

/-! Transfers. -/

/-- Read and write the bench of the thread's core or HBM. -/
def memRead (s : State) (c : CoreId) (hbm : Bool) (a n : Nat) : List Byte := if hbm then hbmRead s a n else benchRead s c a n
def memWrite (s : State) (c : CoreId) (hbm : Bool) (a : Nat) (bs : List Byte) : State :=
  if hbm then hbmWrite s a bs else benchWrite s c a bs

/-- The scale addresses of row r (R521). -/
def scaleAt (base : Nat) (off : Int) (d : DmaDesc) (r : Nat) : Nat := ((base : Int) + off).toNat + r * ceilDiv d.rowElems 32

/-- A source row and its scales. -/
def srcRow (s : State) (c : CoreId) (d : DmaDesc) (f : Fmt) (r : Nat) : List Byte × List Byte :=
  (memRead s c d.srcHbm (d.src + r * d.srcStride) (runBytes f d.rowElems),
   if f.isMx then memRead s c d.srcHbm (scaleAt d.src (signed 32 d.scaleOff) d r) (ceilDiv d.rowElems 32) else [])

/-- Write a destination row and its scales. -/
def dstRow (s : State) (c : CoreId) (d : DmaDesc) (f : Fmt) (r : Nat) (bytes scales : List Byte) : State :=
  let s := memWrite s c d.dstHbm (d.dst + r * d.dstStride) bytes
  if f.isMx then memWrite s c d.dstHbm (scaleAt d.dst (signed 32 (d.scaleOff / 2 ^ 32)) d r) scales else s

/-- COPY. DESIGN CHOICE (log entry 71): the byte copy of Table 7.5 takes bits [7:4] of the last byte of an odd 4-bit row as they
stand, and so does a GATHER. -/
def dmaCopy (s : State) (c : CoreId) (d : DmaDesc) (f : Fmt) : State :=
  (List.range d.rows).foldl (fun s r => let (b, sc) := srcRow s c d f r; dstRow s c d f r b sc) s

/-- CONVERT, with its flags. -/
def dmaConvert (s : State) (c : CoreId) (d : DmaDesc) (a b : Fmt) (mode : RMode) (seed : Word) : State × FlagWord :=
  (List.range d.rows).foldl (fun (s, fl) r =>
    let (bytes, sc) := srcRow s c d a r
    let out := convertRun a b mode d.f8sat (randOf mode seed d.stream (d.indexBase + r * d.rowElems))
      (runValues a d.rowElems bytes sc)
    (dstRow s c d b r out.bytes out.scales, fl ||| out.flags)) (s, 0)

/-- TRANSPOSE. -/
def dmaTranspose (s : State) (c : CoreId) (d : DmaDesc) (f : Fmt) : State :=
  let rows := (List.range d.rows).map fun r => unpackElems f.bits d.rowElems (srcRow s c d f r).1
  (List.range d.rowElems).foldl (fun s e =>
    memWrite s c d.dstHbm (d.dst + e * d.dstStride) (packElems f.bits (rows.map fun row => row.getD e 0))) s

/-- FILL (R521). -/
def dmaFill (s : State) (c : CoreId) (d : DmaDesc) : State :=
  let row := (List.range d.rowElems).map fun j => BitVec.ofNat 8 (d.src >>> (8 * (j % 8)))
  (List.range d.rows).foldl (fun s r => memWrite s c d.dstHbm (d.dst + r * d.dstStride) row) s

/-- READ_REQs of a row of a GATHER: 1,024 bytes each from the sector of its first byte, the last shorter (R293). -/
def rowReads (chip src dst n : Nat) (th : ThRef) (index entry fill id since : Nat) : List ReadReq :=
  let a0 := src / 64 * 64
  let total := roundUp (src + n - a0) 64
  (List.range (ceilDiv total 1024)).map fun q =>
    let a := a0 + 1024 * q
    let len := min 1024 (total - 1024 * q)
    let lo := max a src
    let hi := min (a + len) (src + n)
    { id := (id + q) % 2 ^ 32, chip := chip, addr := a, len := len,
      use := .gather th index entry fill (dst + (lo - src)) (lo - a) (hi - lo), sent := false, since := since }

/-- A READ_REQ packet (Table 11.5). -/
def readPacket (s : State) (q : ReadReq) : Packet :=
  let (core, sector) : Nat × Nat := match q.use with | .gather th _ _ _ _ _ _ => (th.core.1, 0) | .sector _ => (0, 1)
  ownPacket s tyREADREQ q.chip 0 core q.id (extOf [(0, q.addr), (38, q.len / 64 - 1), (42, sector)]) []

/-- A halting launch sends nothing more (R220). -/
def launchHalting (s : State) : Bool := match s.launch with | some l => decide (l.st = .halting) | none => false

/-- Send the requests that wait, while tracked packets have room (R288); those of a halting launch stay unsent (R220). The fuel is the
number open. -/
def pumpReads : Nat → State → State
  | 0, s => s
  | n + 1, s =>
    match s.fabric.reads.find? (fun q => !q.sent && !(launchHalting s && q.use.isGather)) with
    | none => s
    | some q =>
      if trackRoom s 1 then
        let s := { s with
          fabric := { s.fabric with reads := s.fabric.reads.map fun x => if x.id = q.id then { x with sent := true } else x } }
        pumpReads n (sendTracked s (readPacket s q) 1 [])
      else s

/-- The reads of a GATHER, or its copy within this chip. -/
def gatherReads (s : State) (th : ThRef) (index fill : Nat) (d : DmaDesc) (f : Fmt) : State :=
  if d.chip = s.chipId then
    (List.range d.rows).foldl (fun s r =>
      hbmWrite s (d.dst + r * d.dstStride) (hbmRead s (d.src + r * d.srcStride) (runBytes f d.rowElems))) s
  else
    let s := (List.range d.rows).foldl (fun s r =>
      let qs := rowReads d.chip (d.src + r * d.srcStride) (d.dst + r * d.dstStride) (runBytes f d.rowElems) th index d.buf
        fill s.fabric.nextReq s.tally.toNat
      { s with fabric := { s.fabric with reads := s.fabric.reads ++ qs, nextReq := s.fabric.nextReq + qs.length } }) s
    pumpReads s.fabric.reads.length s

/-- The number of this GATHER among those that fill its entry: its old one when the pass has issued it before (R212). -/
def fillNo (s : State) (c : Ctx) (d : DmaDesc) : Nat :=
  match priorFill (bufOf s d.buf) c (s.th c.th).stepNo with
  | some f => f.no
  | none => (bufOf s d.buf).fills.length

/-- Note a GATHER in its entry, unless the pass has already done so (R212). -/
def noteFill (s : State) (c : Ctx) (d : DmaDesc) : State :=
  let step := (s.th c.th).stepNo
  match priorFill (bufOf s d.buf) c step with
  | some _ => s
  | none => modBuf s d.buf fun e => { e with fills := e.fills ++ [({ no := e.fills.length, th := c.th, index := c.ix, step := some step, desc := d, done := false } : Fill)] }

/-! Issue of a DMA (R210, R219, R221). -/

/-- Where the descriptor stands, and the fault of reading it. -/
def descAddr (s : State) (c : Ctx) : Nat := ((Ctx.regs s c).get (fA c.w)).toNat
def descFault (s : State) (c : Ctx) : Option IFault :=
  let a := descAddr s c
  firstFault [(otherLane (c.split s) c.th.t [(a, 64)], .benchLane), (decide (a % 64 ≠ 0), .dmaDesc),
              (decide (Config.benchEnd < a + 64), .dmaRange)]
def readDesc (s : State) (c : Ctx) : DmaDesc := dmaDesc (benchRead s c.th.core (descAddr s c) 64)

/-- A DMA whose operation this is; one whose descriptor has no operation is any DMA row's. -/
def dmaMine (op : Nat) (s : State) (c : Ctx) : Bool :=
  fOPC c.w = 0x60 && ((descFault s c).isSome || (readDesc s c).op = op || decide (6 ≤ (readDesc s c).op))

/-- Held effects a DMA adds (R40, R176, R179). -/
def dmaHolds (d : DmaDesc) : Nat := (if d.op = opATOMIC then 1 else 0) + (if d.release then 1 else 0)

/-- The faults of a descriptor, in the order of Table 8.11: its own fields first, then its extent (R221). -/
def dmaFault (s : State) (c : Ctx) (d : DmaDesc) : Option IFault :=
  if d.op = opATOMIC && d.fmt = 0 && !fVV c.w then some .markMissing
  else if dmaConvertBad d then some .formatIllegal
  else if !dmaFieldsOk d then some .dmaDesc
  else
    firstFault [((srcExtents d ++ dstExtents d).any (Extent.otherLane (c.split s) c.th.t), .benchLane),
                (dmaMisaligned d, .dmaDesc), (dmaRangeBad s d, .dmaRange), (bufStateBad s c d, .bufState),
                (decide (Config.holdDepth < (s.th c.th).hold.length + dmaHolds d), .passHoldFull),
                (d.op = opCONVERT && (s.th c.th).faddRegs.contains (Fin.ofNat 32 d.seedReg) && decide (d.seedReg ≠ 0), .heldResult)]

/-- Requests of fill `fill` of an entry, a GATHER of a thread, that are still open. -/
def gatherOpen (s : State) (r : ThRef) (index buf fill : Nat) : Bool :=
  s.fabric.reads.any fun q => match q.use with
    | .gather th ix b n _ _ _ => decide (th = r ∧ ix = index ∧ b = buf ∧ n = fill)
    | .sector _ => false

/-- An earlier GATHER of the thread from another chip has still to write bytes that this transfer reads or writes (R177). -/
def gatherAhead (s : State) (r : ThRef) (d : DmaDesc) : Bool :=
  (s.th r).sb.any fun e => match e.kind with
    | .gather b n _ =>
      gatherOpen s r e.index b n && (bufOf s b).fills.any fun f => decide (f.no = n) &&
        (dstExtents f.desc).any fun x => ((if d.srcHere s then srcExtents d else []) ++ dstExtents d).any fun y => x.meets y
    | _ => false

/-- The operation waits: its buffer is FILLING (R179), an earlier GATHER has its bytes (R177), or it reads, or writes a part of, an
HBM sector or a bench half whose code fails (R169, R183, R185, R520). -/
def dmaWaits (s : State) (c : Ctx) (d : DmaDesc) : Bool :=
  let bad (hbm : Bool) : List Nat := if hbm then s.hbm.bad else s.sites[siteOf s c.th.core].bad
  (d.bufSrc && (bufOf s d.buf).st = .filling) || gatherAhead s c.th d ||
    (d.srcHere s && (srcExtents d).any fun e => (bad e.hbm).any fun a => e.hits a (a + 64)) ||
    (decide (d.op ≠ opATOMIC) && (dstExtents d).any fun e => (bad e.hbm).any fun a => e.parts a (a + 64))

/-- Held effects at the end of a DMA's issue. -/
def holdDma (s : State) (c : Ctx) (d : DmaDesc) : State :=
  let s := if d.op = opATOMIC then holdEffect s c.th (.atomicAdd c.ix d) else s
  if d.release then holdEffect s c.th (.release c.ix d.buf) else s

/-- Issue a DMA: `act` is what its transfer does, with the kind of its scoreboard entry (none for ATOMIC_ADD, R177). -/
def runDma (act : State → Ctx → DmaDesc → State × Option OpKind) (s : State) (c : Ctx) : Exec :=
  guardBench s c [(descAddr s c, 64)] [] <|
  match descFault s c with
  | some f => .fault f
  | none =>
    let d := readDesc s c
    match dmaFault s c d with
    | some f => .fault f
    | none =>
      if dmaWaits s c d then .stay s
      else
        let (s, k) := act s c d
        let s := match k with | some k => takeEntry s c [.dma] k | none => s
        .done (holdDma s c d)

def dmaRow (op : Nat) (act : State → Ctx → DmaDesc → State × Option OpKind) : Row :=
  ⟨dmaMine op, fun _ => [.dma], runDma act⟩

def execDmaCopy (th : ThRef) (s : State) : Res :=
  .next (issue (dmaRow opCOPY fun s c d => (dmaCopy s c.th.core d (d.srcFmt.getD .fp32), some (.transfer false 0))) th s)

def execDmaConvert (th : ThRef) (s : State) : Res :=
  .next (issue (dmaRow opCONVERT fun s c d =>
    let (s, fl) := dmaConvert s c.th.core d (d.srcFmt.getD .fp32) (d.dstFmt.getD .fp32) (rmodeOf d.mode)
      ((Ctx.regs s c).get (Fin.ofNat 32 d.seedReg))
    (s, some (.transfer true fl))) th s)

def execDmaTranspose (th : ThRef) (s : State) : Res :=
  .next (issue (dmaRow opTRANSPOSE fun s c d =>
    (dmaTranspose s c.th.core d (d.srcFmt.getD .fp32), some (.transfer false 0))) th s)

def execDmaFill (th : ThRef) (s : State) : Res :=
  .next (issue (dmaRow opFILL fun s c d => (dmaFill s c.th.core d, some (.transfer false 0))) th s)

def execDmaAtomicAdd (th : ThRef) (s : State) : Res :=
  .next (issue (dmaRow opATOMIC fun s _ d => (if d.fmt = 0 then markVvx s else s, none)) th s)

def execDmaGather (th : ThRef) (s : State) : Res :=
  .next (issue (dmaRow opGATHER fun s c d =>
    let counted := match priorFill (bufOf s d.buf) c (s.th c.th).stepNo with | some f => f.done | none => false
    let n := fillNo s c d
    let s := noteFill s c d
    (gatherReads s c.th c.ix n d (d.srcFmt.getD .fp32), some (.gather d.buf n counted))) th s)

/-! Leaving the scoreboard (R118, R139, R177, R178). -/

/-- Weight loads leave in their own order: a load may leave before an earlier array operation (R118, Table 5.6). -/
def OpKind.queue : OpKind → Bool
  | .load => true
  | _ => false

/-- Take entry `n` of a thread's scoreboard when it is of the wanted kind and, where the unit works in order, no earlier entry of
its queue shares a unit with it. -/
def leaveEntry (s : State) (r : ThRef) (n : Nat) (want : OpKind → Bool) (ordered : Bool) : Option (SbEntry × State) :=
  let sb := (s.th r).sb
  match sb[n]? with
  | some e =>
    if want e.kind && !(ordered && (sb.take n).any fun x => want x.kind && decide (x.kind.queue = e.kind.queue) && x.units.any e.units.contains) then
      some (e, s.modTh r fun t => { t with sb := t.sb.eraseIdx n })
    else none
  | none => none

/-- Core cycles that an operation waited for bench banks (R162). -/
def bankStalls (s : State) (r : ThRef) (n : Nat) : State := s.countCore r.core fun k => { k with bankStall := sat64 k.bankStall n }

/-- A record that an operation has left the scoreboard (Table 17.5). -/
def isTransfer : OpKind → Bool
  | .transfer _ _ => true
  | _ => false

def execDmaTransferDone (th : ThRef) (entry stall : Nat) (s : State) : Res :=
  .next (match leaveEntry s th entry isTransfer false with
    | some (e, s) => bankStalls (match e.kind with | .transfer _ fl => orFlags s th fl | _ => s) th stall
    | none => s)

def isGather : OpKind → Bool
  | .gather _ _ _ => true
  | _ => false

/-- GATHER_COMPLETE (R178, R212): the first completion of a GATHER counts as one of its entry's parts. -/
def execGatherComplete (th : ThRef) (entry : Nat) (s : State) : Res :=
  .next (match leaveEntry s th entry isGather false with
    | some (e, s') =>
      match e.kind with
      | .gather b n counted =>
        if gatherOpen s th e.index b n then s
        else if counted then s'
        else
          let mark (f : Fill) : Fill := if f.no = n then { f with done := true } else f
          partDone (modBuf s' b fun x => { x with fills := x.fills.map mark }) b
      | _ => s
    | none => s)

def isArrayOp : OpKind → Bool
  | .load | .matrix | .readout => true
  | _ => false

def execArrayOperationDone (th : ThRef) (entry stall : Nat) (s : State) : Res :=
  .next (match leaveEntry s th entry isArrayOp true with | some (_, s) => bankStalls s th stall | none => s)

def isVecOp : OpKind → Bool
  | .vec => true
  | _ => false

def execVectorOperationDone (th : ThRef) (entry stall : Nat) (s : State) : Res :=
  .next (match leaveEntry s th entry isVecOp true with | some (_, s) => bankStalls s th stall | none => s)

/-! BUFDEF and FADD (R210, R211). -/

/-- The fields of BUFDEF. -/
structure BufDef where
  entry : Nat
  base  : Nat
  size  : Nat
  uses  : Nat
  parts : Nat
  ev    : EventId
deriving DecidableEq, Repr

def bufDef (s : State) (c : Ctx) : BufDef :=
  let g := Ctx.regs s c
  { entry := field c.w 0 8, base := (g.get (fD c.w)).toNat, size := (g.get (fA c.w)).toNat, uses := field c.w 16 16,
    parts := field c.w 12 4 + 1, ev := fEvent35 c.w }

def bufdefFault (s : State) (c : Ctx) (b : BufDef) : Option IFault :=
  let (lo, hi) := grantOf s
  firstFault [(b.uses = 0 || b.size = 0 || decide (b.base % 65536 ≠ 0) || decide (b.size % 65536 ≠ 0) ||
                 otherEvent (c.split s) c.th.t b.ev, .fieldRange),
              (!decide (lo ≤ b.base ∧ b.base + b.size ≤ hi), .dmaRange)]

/-- The entry stands as this BUFDEF of the open pass defined it (R212). -/
def bufSame (e : BufEntry) (c : Ctx) (step : Nat) (b : BufDef) : Bool :=
  decide (e.st ≠ .free ∧ e.owner = some (c.th, c.ix, step) ∧ e.base = b.base ∧ e.size = b.size ∧ e.defn = (b.uses, b.parts) ∧
    e.ev = b.ev ∧ e.core = c.th.core)

def execBufdef (th : ThRef) (s : State) : Res :=
  .next (issue (opRow 0x61 (fun _ => []) fun s c =>
    let b := bufDef s c
    match bufdefFault s c b with
    | some f => .fault f
    | none =>
      let step := (s.th c.th).stepNo
      let e := bufOf s b.entry
      if bufSame e c step b then .done s
      else if e.st ≠ .free then .stay (markWait s c.th)
      else
        .done (modBuf (endWait s c.th) b.entry fun _ =>
          { st := .filling, base := b.base, size := b.size, uses := b.uses, parts := b.parts, core := c.th.core, ev := b.ev,
            owner := some (c.th, c.ix, step), defn := (b.uses, b.parts), fills := [], again := false })) th s)

def execFadd (th : ThRef) (s : State) : Res :=
  .next (issue (opRow 0x62 (fun _ => [.dma]) fun s c =>
    let g := Ctx.regs s c
    let a := (g.get (fA c.w)).toNat
    match firstFault [(decide (a % 8 ≠ 0), .fieldRange), (!s.granted a 8, .dmaRange), (holdFull s c.th, .passHoldFull),
                      ((vvNext s c.th).isNone && vvFull s, .vvLogFull)] with
    | some f => .fault f
    | none =>
      let s := holdEffect (markVvx s) c.th (.fadd c.ix a (g.get (fB c.w)) (fD c.w))
      .done (s.modTh c.th fun t => { t with faddRegs := t.faddRegs ++ [fD c.w] })) th s)

end Sys2Proof.Machine
end

