-- ==== Sys2Proof/Machine/Fabric.lean ====
section
/-! DEFINITION. The Gehus links and what arrives on them (R272 to R309): training, credits, resending, forwarding, sends, posts,
acknowledgements, reads and the Tally's alignment. -/
namespace Sys2Proof.Machine

/-! Links (R273 to R277). -/

/-- Links may train: Compute has been reached and FAB_ID is valid (R273). -/
def linksMayTrain (s : State) : Bool :=
  s.fabric.fabId.written && inStates s [3, 4, 5, 6] &&  s.power.pll

/-- A change of a link's state, counted (R275, Table 18.8). -/
def setLinkSt (s : State) (l : LinkId) (x : LinkSt) : State :=
  (modLink s l fun k => { k with st := x, changes := min (k.changes + 1) 0xFFFF }).countRun fun c =>
    { c with linkChanges := sat64 c.linkChanges 1 }

/-- A link leaves service: what it had to send and its resend buffer are discarded (R275), and a parent on it is given up
(R308). -/
def dropLink (s : State) (l : LinkId) (x : LinkSt) : State :=
  let s := setLinkSt s l x
  let s := modLink s l fun k =>
    { k with txq := [], resend := [], replays := 0, credit := credits0, freed := credits0, txSeq := 0, rxSeq := 0, tallyT1 := none,
             exchAt := none }
  refreshParent s

/-- LINK_TRAINING (R273, R276): a torus dimension of size 1 leaves its links DOWN. -/
def execLinkTraining (l : LinkId) (s : State) : Res :=
  .next (
    let alone := match linkDim l with | some (d, _) => decide (torusSize s d ≤ 1) | none => false
    if linksMayTrain s && decide (s.fabric.links[l].st = .down) && !alone then setLinkSt s l .training else s)

/-- A LINK packet to the partner (Table 11.5). -/
def linkPacket (s : State) (l : LinkId) (nak : Option Nat) : Packet :=
  let k := s.fabric.links[l]
  let ix := match nak with | some n => 65536 + n | none => 0
  ownPacket s tyLINK (k.partner.getD 0) 0 0 ix (extOf [(0, k.freed.c), (16, k.freed.d0), (32, k.freed.d1), (48, k.freed.e)]) []

/-- Send a LINK packet: it returns the units freed (R284). -/
def sendLinkPacket (s : State) (l : LinkId) (nak : Option Nat) : State :=
  let p := linkPacket s l nak
  queueOn (modLink s l fun k => { k with freed := credits0 }) l p

/-- A two-lane mode. -/
def twoLane : LinkMode → Bool
  | .g2 => true
  | .h2 => true
  | _ => false

/-- The two-lane mode of a mode's rate (R274). -/
def LinkMode.narrow : LinkMode → LinkMode
  | .g4 => .g2
  | .g2 => .g2
  | .h4 => .h2
  | .h2 => .h2

/-- The lanes that have not failed carry a mode: all four, or a pair of them (R273). -/
def modeFits (failed : BitVec 4) (m : LinkMode) : Bool :=
  if twoLane m then decide (failed &&& 3#4 = 0 ∨ failed &&& 12#4 = 0) else decide (failed = 0)

/-- A mode in which training may end: its lanes work, and a link that has lost a lane in service takes the two-lane mode of its rate. -/
def mayTrain (k : Link) (failed : BitVec 4) (m : LinkMode) : Bool :=
  modeFits failed m && (!k.degraded || decide (k.mode.map LinkMode.narrow = some m))

/-- LINK_TRAINED (R273, R274, R277): `mode` is the fastest that both ends permit. -/
def execLinkTrained (l : LinkId) (mode : Option LinkMode) (failed : BitVec 4) (partner : Option Nat) (s : State) : Res :=
  .next (
    let k := s.fabric.links[l]
    if k.st ≠ .training then s
    else
      let f := k.failed ||| failed
      let s := modLink s l fun k => { k with failed := f }
      match mode, partner with
      | some m, some c =>
        if !mayTrain k f m then s
        else
          let s := setLinkSt s l (if c = expectedPartner s l then .up else .miswired)
          let s := modLink s l fun k =>
            { k with mode := some m, upper := twoLane m && decide (f &&& 3#4 ≠ 0), partner := some c, txSeq := 0, rxSeq := 0, resend := [],
                     replays := 0, credit := creditsFull, freed := credits0, txq := [], turn := 0, tallyT1 := none, exchAt := none }
          tryReady (refreshParent (sendLinkPacket s l none))
      | _, _ => dropLink s l .down)

/-- LINK_LANE_LOSS (R274): the link retrains in two lanes, or goes DOWN when both pairs hold a failed lane. -/
def execLinkLaneLoss (l : LinkId) (lane : Fin 4) (s : State) : Res :=
  .next (
    let k := s.fabric.links[l]
    match k.st with
    | .down => s
    | .training => s
    | _ =>
      let f := k.failed ||| BitVec.ofNat 4 (2 ^ lane.1)
      let s := modLink s l fun k => { k with failed := f, degraded := true }
      if f &&& 3#4 ≠ 0 && f &&& 12#4 ≠ 0 then dropLink s l .down else dropLink s l .training)

/-! Receiving on a link (R279, R282, R284, R287, R292). -/

/-- A packet this link takes: it carries the type, the CRC holds, it is the next in LSEQ order, and no reserved bit is set. -/
def linkTakes (s : State) (l : LinkId) (p : Packet) : Bool :=
  let k := s.fabric.links[l]
  (decide (k.st = .up) || (decide (k.st = .miswired) && p.isLocal)) && decide (p.crc = crc32c p.bytes) && decide (p.lseq = k.rxSeq) && p.ok

/-- Kept packets that a LACK has not passed (R287). -/
def keptAfter (kept : List Packet) (lack : Nat) : List Packet :=
  match kept.findIdx? fun p => decide (p.lseq = lack) with
  | some i => kept.drop i
  | none => []

/-- Take a packet: LSEQ advances and its LACK frees resend room (R287). -/
def takePacket (s : State) (l : LinkId) (p : Packet) : State :=
  let s := modLink s l fun k =>
    let known := p.lack = k.txSeq || k.resend.any fun q => decide (q.lseq = p.lack)
    let kept := if known then keptAfter k.resend p.lack else k.resend
    let on := decide (kept.length < k.resend.length)
    { k with rxSeq := (k.rxSeq + 1) % 65536, resend := kept, replays := if on then 0 else k.replays,
             stuckAt := if on then s.align.ticks else k.stuckAt }
  pumpLink (s.fabric.links[l]).txq.length s l

/-- The input buffer space of a packet that has been disposed of goes back to the partner (R284). -/
def freeUnits (s : State) (l : LinkId) (p : Packet) : State := modLink s l fun k => { k with freed := k.freed.add p.vc p.units }

/-- Is a routed packet for this chip: addressed to it, a line multicast whose line it lies on, or a total sent along its line? -/
def forThisChip (s : State) (p : Packet) : Bool :=
  match lineDim p with
  | some d => onLine s p d
  | none => decide (p.dst = s.chipId) || redLine p

/-- Too old, or too far from its source (R292). -/
def stalePacket (s : State) (p : Packet) : Bool :=
  decide (524288 < signed 32 (s.tally.toNat + 2 ^ 32 - p.sent)) || (decide (p.hops = 31) && !forThisChip s p)

/-- Hold a packet in its port's input buffer (R290, R325, R361, R390). -/
def holdPacket (s : State) (l : LinkId) (p : Packet) : State := { s with fabric := { s.fabric with held := s.fabric.held ++ [(l, p)] } }

/-- Receive a routed packet of the row's kind. In S3 the chip wakes, and the port holds the packet (R390); what cannot be taken now is
held too. -/
def receiveRow (s : State) (l : LinkId) (p : Packet) (mine : State → Packet → Bool) (handle : State → LinkId → Packet → Option State) :
    State :=
  if linkTakes s l p && !p.isLocal && mine s p then
    let s := wakeChip (takePacket s l p)
    if stalePacket s p then freeUnits (discardPacket s) l p
    else if !isAwake s then holdPacket s l p
    else
      match handle s l p with
      | some s => freeUnits s l p
      | none => holdPacket s l p
  else s

/-- Send the kept packets from an LSEQ on again (R287). -/
def resendFrom (s : State) (l : LinkId) (from_ : List Packet) : State :=
  if from_.isEmpty then s
  else
    let s := from_.foldl (fun s p => s.emit (.packet l { p with lack := (s.fabric.links[l]).rxSeq })) s
    (s.count fun c => { c with rtyPackets := sat64 c.rtyPackets from_.length }).flagExc excRTY

/-- LINK_PACKET_RECEIVE (R284, R287): credits come back; a NAK has the kept packets from NAK_SEQ sent again. -/
def execLinkPacketReceive (l : LinkId) (pkt : Packet) (s : State) : Res :=
  .next (
    if linkTakes s l pkt && decide (pkt.ty = tyLINK) then
      let s := takePacket s l pkt
      let s := modLink s l fun k =>
        { k with credit := ⟨k.credit.c + pkt.ex 0 16, k.credit.d0 + pkt.ex 16 16, k.credit.d1 + pkt.ex 32 16, k.credit.e + pkt.ex 48 16⟩ }
      let s := if pkt.index.testBit 16 then resendFrom s l (keptAfter (s.fabric.links[l]).resend (pkt.index % 65536)) else s
      pumpLink (s.fabric.links[l]).txq.length s l
    else s)

/-- LINK_CREDIT_RETURN (R284). -/
def execLinkCreditReturn (l : LinkId) (s : State) : Res :=
  .next (if linkTrained s l.1 then sendLinkPacket s l none else s)

/-- LINK_REPLAY_TIMEOUT (R287): 1,050 ticks without progress of LACK; after 16 replays without any the link goes DOWN and retrains. -/
def execLinkReplayTimeout (l : LinkId) (s : State) : Res :=
  .next (
    let k := s.fabric.links[l]
    if !linkTrained s l.1 || k.resend.isEmpty || s.align.ticks < k.stuckAt + 1050 then s
    else if 16 ≤ k.replays then dropLink s l .down
    else resendFrom (modLink s l fun k => { k with replays := k.replays + 1, stuckAt := s.align.ticks }) l k.resend)

/-- RECEIVED_PACKET_DISCARD (R279, R287): a failed CRC answers with a NAK; a packet out of order has no answer; a reserved
type, bit or encoding is counted. -/
def execReceivedPacketDiscard (l : LinkId) (pkt : Packet) (s : State) : Res :=
  .next (
    let k := s.fabric.links[l]
    if !linkTrained s l.1 then s
    else if pkt.crc ≠ crc32c pkt.bytes then sendLinkPacket s l (some k.rxSeq)
    else if pkt.lseq ≠ k.rxSeq then s
    else if pkt.ok then s
    else freeUnits (discardPacket (takePacket s l pkt)) l pkt)

/-! Routed packets (R295, R288 to R293, R301). -/

/-- PACKET_FORWARD (R295). -/
def forwardPacket (s : State) (l : LinkId) (p : Packet) : Option State :=
  some (match lineDim p with
    | some d => lineOut s p false (some l) d
    | none => routeOut s p false (some l))

/-- The launch here that a packet's LAUNCH must name (R289): none once it halts. -/
def receivingTag (s : State) : Option Nat :=
  match s.launch with
  | some l => if l.st = .halting then none else launchTag s
  | none => none

/-- An ACK to the source of a packet, with its DELIVERED and FENCED counts (R289, R300). -/
def sendAck (s : State) (p : Packet) (delivered : Nat) (fenced : Nat := 0) : State :=
  sendSource s (ownPacket s tyACK p.src p.srcCore p.dstCore p.index
    (extOf [(0, if p.ty = tyREDCTL then (launchTag s).getD 0 else p.launch), (32, p.seg), (48, delivered % 256), (56, fenced % 256)]) [])

/-- The acceptance record of a packet (R290). -/
def acceptKey (s : State) (p : Packet) : Accepted :=
  ⟨p.src, p.srcCore, if p.ty = tyREDCTL then (launchTag s).getD 0 else p.launch, p.index, p.seg, s.tally.toNat⟩

/-- A record of the same packet stands (R290). -/
def accepted (s : State) (p : Packet) : Bool :=
  let k := acceptKey s p
  s.fabric.accepted.any fun a => decide (a.src = k.src ∧ a.srcCore = k.srcCore ∧ a.launch = k.launch ∧ a.index = k.index ∧ a.seg = k.seg)

def noteAccepted (s : State) (p : Packet) : State :=
  { s with fabric := { s.fabric with accepted := s.fabric.accepted ++ [acceptKey s p] } }

/-- Handle a tracked packet of a launch (R289, R290): one of another launch is dropped, a repeat acknowledged again, and one
without a record waits for room in the store. -/
def tracked (s : State) (p : Packet) (tag : Option Nat) (repeat_ : State → State) (fresh : State → Option State) : Option State :=
  if tag ≠ some p.launch then some s
  else if accepted s p then some (repeat_ (s.count fun c => { c with repeatDiscards := sat64 c.repeatDiscards 1 }))
  else if Config.acceptDepth ≤ s.fabric.accepted.length then none
  else fresh s

/-- The journal is full: the packet stays in the input buffer (R361). -/
def journalStall (s : State) (p : Packet) (fits : Bool) (k : State → State) : Option State :=
  if fits then some (k (noteAccepted s p)) else none

/-- A packet of a SEND (R283, R289, R300 to R304, R358, R364). -/
def handleSend (early : Bool) (s : State) (l : LinkId) (p : Packet) : Option State :=
  let addr := p.ex 0 21 + 1024 * p.seg
  let s := match lineDim p with | some d => lineOut s p false (some l) d | none => s
  let target := if 3 ≤ p.target then 0 else p.target
  let n := (membersOf s target p.dstCore).length
  tracked s p (receivingTag s) (fun s => sendAck s p n) fun s =>
    journalStall s p (journalFits s p.payload.length || Config.benchEnd < addr + p.payload.length) fun s =>
      if Config.benchEnd < addr + p.payload.length then discardPacket s
      else
        let old := (s.fabric.assembly.find? fun a => decide (a.src = p.src ∧ a.srcCore = p.srcCore ∧ a.index = p.index)).getD
          ⟨p.src, p.srcCore, p.index, 0⟩
        let whole := decide (p.ex 64 16 < old.got + 1)
        let rest := s.fabric.assembly.filter fun a => !decide (a.src = p.src ∧ a.srcCore = p.srcCore ∧ a.index = p.index)
        let s := { s with fabric := { s.fabric with assembly := if whole then rest else rest ++ [{ old with got := old.got + 1 }] } }
        let (s, m, gone) := deliverTo s early target p.dstCore (entryOf l) addr p.payload (Fin.ofNat 64 (p.ex 21 6)) whole
        sendAck s p m gone

/-- SEND_RECEIVE (R283, R304). -/
def execSendReceive (l : LinkId) (arr : Arrival) (s : State) : Res :=
  .next (receiveRow s l arr.pkt (fun s p => decide (p.ty = tySEND) && forThisChip s p) (handleSend arr.early))

/-- A POST (R208, R289, R304). -/
def handlePost (early : Bool) (s : State) (l : LinkId) (p : Packet) : Option State :=
  tracked s p (receivingTag s) (fun s => sendAck s p (membersOf s 0 p.dstCore).length) fun s =>
    journalStall s p (journalFits s 8) fun s =>
      let (s, m, gone) := deliverTo s early 0 p.dstCore (entryOf l) 0 [] (Fin.ofNat 64 (p.ex 32 6)) true
      sendAck s p m gone

def execPostReceive (l : LinkId) (arr : Arrival) (s : State) : Res :=
  .next (receiveRow s l arr.pkt (fun s p => decide (p.ty = tyPOST) && forThisChip s p) (handlePost arr.early))

/-- An ACK answers a tracked packet: its index, packet number, source core and launch. -/
def answers (p : Packet) (t : Tracked) : Bool :=
  decide (t.pkt.index = p.index ∧ t.pkt.seg = p.ex 32 16 ∧ t.pkt.srcCore = p.dstCore) &&
    (decide (t.pkt.ty = tyREDCTL) || decide (t.pkt.launch = p.launch)) && decide (t.pkt.ty ≠ tyREADREQ)

/-- Retire a tracked packet once every member has acknowledged it (R288). -/
def retire (s : State) (p : Packet) : State :=
  let ts := s.fabric.tracked.map fun t => if answers p t && !t.acked.contains p.src then { t with acked := t.acked ++ [p.src] } else t
  let s := { s with fabric := { s.fabric with tracked := ts.filter fun t => decide (t.acked.length < t.members) } }
  pumpReads s.fabric.reads.length s

def execAckReceive (l : LinkId) (pkt : Packet) (s : State) : Res :=
  .next (receiveRow s l pkt (fun s p => decide (p.ty = tyACK) && forThisChip s p) fun s _ p => some (retire s p))

/-- A sector's good bytes: its own, or its mirror's (R293). -/
def goodSector (s : State) (a : Nat) : Option (List Byte) :=
  if !s.hbm.bad.contains a then some (hbmRead s a 64)
  else ((mirrorParts s a 64).find? fun (_, m, _) => !s.hbm.bad.contains m).map fun (_, m, _) => hbmRead s m 64

/-- The answer to a READ_REQ: RESULT and bytes (R289, R293). -/
def readAnswer (s : State) (p : Packet) : Nat × List Byte :=
  let a := p.ex 0 38
  let n := 64 * (p.ex 38 4 + 1)
  let zero := List.replicate n (0 : Byte)
  if !inGeneral a n then (1, zero)
  else if p.ex 42 1 = 1 then
    let parts := (List.range (n / 64)).map fun i => goodSector s (a + 64 * i)
    if parts.all Option.isSome then (0, (parts.filterMap id).flatten) else (2, zero)
  else if badIn s a n then (2, zero)
  else (0, hbmRead s a n)

/-- A READ_REQ (R293). In Safe, and until HBM has been trained, no path reaches HBM (R404): DESIGN CHOICE (log entry 87), the request is
discarded without an answer. -/
def handleReadReq (s : State) (_ : LinkId) (p : Packet) : Option State :=
  if !s.hbm.trained || inStates s [0, 1] then some (discardPacket s)
  else
    let (r, bs) := readAnswer s p
    some (sendSource s (ownPacket s tyREADRESP p.src p.srcCore p.dstCore p.index (extOf [(0, r), (32, bs.length / 64 - 1)]) bs))

def execReadReqReceive (l : LinkId) (pkt : Packet) (s : State) : Res :=
  .next (receiveRow s l pkt (fun s p => decide (p.ty = tyREADREQ) && forThisChip s p) handleReadReq)

/-- The limit of Table 7.9 has passed for a request for a sector. -/
def sectorOver (s : State) (p : Packet) : Bool :=
  s.fabric.reads.any fun q => decide (q.id = p.index ∧ q.chip = p.dst ∧ q.since + 1048576 ≤ s.tally.toNat)

/-- E2E_RESEND (R291). -/
def execE2eResend (k : Nat) (s : State) : Res :=
  .next (match s.fabric.tracked[k]? with
    | none => s
    | some t =>
      let sector := decide (t.pkt.ty = tyREADREQ) && decide (t.pkt.ex 42 1 = 1)
      let halting := match s.launch with | some l => decide (l.st = .halting) | none => false
      if s.tally.toNat < t.sentAt + 10500 || halting || (sector && sectorOver s t.pkt) then s
      else if 16 ≤ t.resends && !sector then haltLaunch s .internal
      else
        let n := t.resends + 1
        let p := { t.pkt with sec := decide (9 ≤ n) }
        let s := { s with
          fabric := { s.fabric with tracked := s.fabric.tracked.set k { t with pkt := p, sentAt := s.tally.toNat, resends := n } } }
        sendAs ((s.count fun c => { c with rtyPackets := sat64 c.rtyPackets 1 }).flagExc excRTY) p t.line)

/-! The Tally (R305 to R309). -/

/-- Clamp to the rate limit of R307. -/
def clampRate (x : Int) : Int := max (-858993) (min 858993 x)

/-- Half ticks to the nearest whole tick, ties away from zero (R307). -/
def roundHalf (d2 : Int) : Int := if 0 ≤ d2 then (d2 + 1) / 2 else -((-d2 + 1) / 2)

/-- One exchange with the parent or the reference, with its offset in half ticks (R307, R308). -/
def exchange (s : State) (d2 : Int) : State :=
  let a := s.align
  let s :=
    if !a.stepped then
      let s := setTally s (s.tally + BitVec.ofInt 64 (roundHalf d2))
      { s with align := { s.align with stepped := true, integ := 0, rate := 0, lastD2 := d2 } }
    else
      let integ := clampRate (a.integ + 1024 * d2)
      { s with align := { a with integ := integ, rate := clampRate (integ + 8192 * d2), lastD2 := d2 } }
  let small := decide (d2.natAbs ≤ 2)
  let large := decide (4 < d2.natAbs)
  let good := if small then s.align.good + 1 else 0
  let bad : Nat := if large && a.aligned then s.align.bad + 1 else 0
  let s := { s with align := { s.align with good := good, bad := if bad = 4 then 0 else bad } }
  if bad = 4 then eventRecord s 6 0 [(0x10, 8, wrap 64 (roundHalf d2))]
  else if 16 ≤ good && !a.aligned then
    if s.items.any fun i => decide (i.kind = .tallyAlign ∧ i.closing = false) then alignDone s
    else { s with align := { s.align with aligned := true } }
  else s

/-- TALLY_EXCHANGE (R306): every 32,768 ticks a TALLY packet with the Tally. -/
def execTallyExchange (l : LinkId) (s : State) : Res :=
  .next (
    let k := s.fabric.links[l]
    let due := match k.exchAt with | some t => decide (t + 32768 ≤ s.align.ticks) | none => true
    if linkTrained s l.1 && due then
      queueOn (modLink s l fun k => { k with exchAt := some s.align.ticks }) l (ownPacket s tyTALLY (k.partner.getD 0) 0 0 tallyAsk 0 [])
    else s)

/-- TALLY_PACKET_RECEIVE (R306, R307): a request is answered with t2 - t1 in INDEX; a reply on the parent link gives d. -/
def execTallyPacketReceive (l : LinkId) (pkt : Packet) (stamp : Word) (s : State) : Res :=
  .next (
    if linkTakes s l pkt && decide (pkt.ty = tyTALLY) then
      let s := takePacket s l pkt
      let k := s.fabric.links[l]
      if pkt.index = tallyAsk then
        let p := ownPacket s tyTALLY (k.partner.getD 0) 0 0 (wrap 32 ((stamp.toNat : Int) - pkt.ex 0 64)) 0 []
        queueOn s l p
      else
        match k.tallyT1 with
        | none => s
        | some _ =>
          let s := modLink s l fun k => { k with tallyT1 := none }
          if s.align.role = some 0 && decide (s.align.parent = some l) then
            exchange s (signed 32 pkt.index - signed 64 (stamp.toNat + 2 ^ 64 - pkt.ex 0 64))
          else s
    else s)

/-- TALLY_REF_EDGE (R309): the offset to the nearest multiple of 2^19. -/
def execTallyRefEdge (s : State) : Res :=
  .next (if s.align.role = some 2 then
      let r : Int := s.tally.toNat % 2 ^ 19
      exchange s (2 * (if r < 2 ^ 18 then -r else 2 ^ 19 - r))
    else s)

end Sys2Proof.Machine
end

