-- ==== Sys2Proof/Machine/Contribute.lean ====
section
/-! DEFINITION. Released GRDYs: the rounds of a segment and the contributions that gather for them (R316, R317); the end of
rounds and of closed groups (R341, R345). -/
namespace Sys2Proof.Machine

def groupOf (s : State) (g : Nat) : Option Group := s.red.groups[Fin.ofNat 256 g]
def modGroup (s : State) (g : Nat) (f : Group → Group) : State :=
  { s with red := { s.red with groups := vmod s.red.groups (Fin.ofNat 256 g) fun x => x.map f } }

/-- Change one segment of a bucket. -/
def modSeg (s : State) (g bucket seg : Nat) (f : Seg → Seg) : State :=
  modGroup s g fun x => { x with buckets := x.buckets.modify bucket fun b => { b with segs := b.segs.modify seg f } }

/-- The segment of a bucket to which a core contributes. -/
def segOfCore (b : Bucket) (c : CoreId) : Option (Nat × Seg) :=
  ((List.range b.segs.length).zip b.segs).find? fun (_, g) => g.cores.contains c

/-- Bytes per bench element of a contribution: pairs for FP32P groups. -/
def contribBytes (f : Fmt) : Nat := if f = .fp32p then 8 else 4

/-- The elements of a contribution (R316). -/
def contribElems (f : Fmt) (n : Nat) (bs : List Byte) : List AccVal :=
  if f = .fp32p then (unpackElems 64 n bs).map fun x => ⟨BitVec.ofNat 32 x, BitVec.ofNat 32 (x / 2 ^ 32)⟩
  else (unpackElems 32 n bs).map fun x => ⟨BitVec.ofNat 32 x, 0⟩

/-- A round of a segment that has received nothing yet. -/
def newRound (gen bucket seg n : Nat) : RInst :=
  { gen := gen, bucket := bucket, seg := seg, n := n, st := .gathering, contribs := [], own := [], ownMissing := false,
    excluded := false, nanElems := 0, fp := 0, sentVals := [], bumped := false, arriving := [], kept := [], absent := [],
    formed := [], sent := [], got := none, result := [], missed := false, staleOut := false, stale := false, resent := false }

/-- Is this a round of the group's generation and segment? -/
def isRound (i : RInst) (gen bucket seg n : Nat) : Bool := i.gen = gen && i.bucket = bucket && i.seg = seg && i.n = n

/-- The round numbered n of a segment. -/
def roundOf (s : State) (g gen bucket seg n : Nat) : Option RInst :=
  (s.red.insts.find? fun (k, i) => k.1 = g && isRound i gen bucket seg n).map (·.2)

/-- Put a round back, or in. -/
def putRound (s : State) (g : Nat) (x : RInst) : State :=
  if (roundOf s g x.gen x.bucket x.seg x.n).isSome then
    { s with red := { s.red with
        insts := s.red.insts.map fun (k, i) => if k.1 = g && isRound i x.gen x.bucket x.seg x.n then (k, x) else (k, i) } }
  else { s with red := { s.red with insts := s.red.insts ++ [(Fin.ofNat 256 g, x)] } }

/-- A contribution to a group that is closed: a reduction completed with no effective members (R316). Its event is journaled like a
total's, since a replay does not release the GRDY again (R352; DESIGN CHOICE log entry 29). -/
def closedContribution (s : State) (c : CoreId) (ev : EventId) : State :=
  journalDelivery (s.modLaunch fun l => { l with short := true }) ⟨c, 0, [], ev, true⟩ none

/-- A round's span write to one core, journaled before its event (R323, R358). -/
def writeSpan (s : State) (g : Nat) (i : RInst) (c : Contribution) : State :=
  journalDelivery s ⟨c.core, c.span.base, i.result, c.ev, true⟩ (some (g, i.bucket, i.n))

/-- A released GRDY (R316, R317): the state after it, or its fault. The elements are taken as they stand (R233 keeps them so). One
for a round that was completed without it under a deadline receives the total at once. -/
def grdyRelease (s : State) (r : ThRef) (index : Nat) (span : SpanW) (ev : EventId) (group bucket : Nat) (deadline : Option Word) :
    State × Option IFault :=
  match groupOf s group with
  | none => (closedContribution s r.core ev, none)
  | some g =>
    if g.closing then (closedContribution s r.core ev, none)
    else
      match g.buckets[bucket]? with
      | none => (s, some .fieldRange)
      | some b =>
        match segOfCore b r.core with
        | none => (s, some .fieldRange)
        | some (i, sg) =>
          let sp : Spans := [(span.base, span.len)]
          if decide (span.len ≠ sg.count * contribBytes g.fmt) || pastBench sp || otherLane (s.core r.core).split r.t sp then
            (s, some .fieldRange)
          else
            let n := (sg.counts.lookup r.core).getD 0 + 1
            let s := modSeg s group bucket i fun x => { x with counts := (r.core, n) :: x.counts.filter (·.1 ≠ r.core) }
            let c : Contribution :=
              ⟨r.core, r.t, span, ev, index, deadline.map (·.toNat), s.align.ticks,
                contribElems g.fmt sg.count (benchRead s r.core span.base span.len)⟩
            let x := (roundOf s group g.gen bucket i n).getD (newRound g.gen bucket i n)
            let x := { x with contribs := x.contribs ++ [c] }
            let s := putRound s group x
            (if x.st = .done then writeSpan s group x c else s, none)

/-! The end of rounds. -/

/-- A round has begun here and has not written its spans. -/
def RInst.isOpen (i : RInst) : Bool := decide (i.st = .prepass ∨ i.st = .main)

/-- Every core of a segment has released its GRDY for the round (R317). -/
def allReleased (cores : List CoreId) (i : RInst) : Bool := cores.all fun c => i.contribs.any fun k => decide (k.core = c)

/-- A round has begun by R317 and has not written its spans: its cores have all released their GRDYs, or it went on without some. -/
def roundBegun (s : State) (g : Nat) (i : RInst) : Bool :=
  i.isOpen || (decide (i.st = .gathering) &&
    match ((groupOf s g).bind fun x => x.buckets[i.bucket]?).bind fun b => b.segs[i.seg]? with
    | some sg => allReleased sg.cores i
    | none => false)

/-- Some round begun here has not written its spans (R345). -/
def roundsOpen (s : State) : Bool := s.red.insts.any fun (k, i) => roundBegun s k.1 i

/-- A GROUP_CLOSE whose last begun round has written its spans completes (R341): RESULT is the LAYOUT_STALE count. -/
def finishClose (s : State) (g : Nat) : State :=
  match groupOf s g with
  | none => s
  | some x =>
    if x.closing && !(s.red.insts.any fun (k, i) => k.1 = g && roundBegun s g i) then
      let s := { s with red := { s.red with
        groups := vset s.red.groups (Fin.ofNat 256 g) none, insts := s.red.insts.filter fun (k, _) => k.1 ≠ g } }
      match s.items.find? fun i => decide (i.kind = .groupClose g x.gen ∧ i.closing = false) with
      | some it => finishItem s it stOK x.stale
      | none => s
    else s

/-- The highest round any core has contributed to. -/
def lastCount (x : Seg) : Nat := x.counts.foldl (fun n c => max n c.2) x.rounds

/-- R345: a halt abandons the unfinished rounds. Every core's next GRDY then belongs to the first round that no core has
contributed to (DESIGN CHOICE log entry 25). -/
def abandonRounds (s : State) : State :=
  let left (x : Seg) : Seg := { x with rounds := lastCount x, counts := x.cores.map fun c => (c, lastCount x) }
  let s := { s with red := { s.red with
    insts := s.red.insts.filter fun (_, i) => decide (i.st = .done)
    groups := s.red.groups.map fun g => g.map fun x =>
      { x with buckets := x.buckets.map fun b => { b with segs := b.segs.map left } } } }
  (List.range 256).foldl finishClose s

end Sys2Proof.Machine
end

