-- ==== Sys2Proof/Machine/Events.lean ====
section
/-! DEFINITION. Events and held posts: SEND, POST, GRDY, AWAIT and AWAITANY (R206 to R209, R219, R354). -/
namespace Sys2Proof.Machine

/-! SEND, POST and GRDY hold their effects until the COMMIT (R40). -/

/-- A core of the destination word: its row and column (Table 8.2). -/
def DestW.coreNo (d : DestW) : Nat := 16 * d.row + d.col

def sendFault (s : State) (c : Ctx) : Option IFault :=
  let g := Ctx.regs s c
  let sp := spanWord (g.get (fD c.w))
  let d := destWord (g.get (fA c.w))
  firstFault [(sp.len = 0 || decide (sp.len % 64 ≠ 0) || decide (1048576 < sp.len), .fieldRange),
              (otherLane (c.split s) c.th.t [(sp.base, sp.len)], .benchLane),
              (pastBench [(sp.base, sp.len), (d.addr, sp.len)], .benchRange), (holdFull s c.th, .passHoldFull)]

def execSend (th : ThRef) (s : State) : Res :=
  .next (issue (opRow 0x63 (fun _ => []) fun s c =>
    match sendFault s c with
    | some f => .fault f
    | none =>
      let g := Ctx.regs s c
      .done (holdEffect s c.th (.send c.ix (spanWord (g.get (fD c.w))) (destWord (g.get (fA c.w))) (fEvent35 c.w) (fSUB c.w)))) th s)

def execPost (th : ThRef) (s : State) : Res :=
  .next (issue (opRow 0x64 (fun _ => []) fun s c =>
    if holdFull s c.th then .fault .passHoldFull
    else .done (holdEffect s c.th (.post c.ix (destWord ((Ctx.regs s c).get (fA c.w))) (fEvent35 c.w)))) th s)

/-- GRDY (R209): with DL it is marked, and the completion carries VVX. -/
def execGrdy (th : ThRef) (s : State) : Res :=
  .next (issue (opRow 0x67 (fun _ => []) fun s c =>
    match firstFault [(otherEvent (c.split s) c.th.t (fEvent35 c.w), .fieldRange), (holdFull s c.th, .passHoldFull)] with
    | some f => .fault f
    | none =>
      let g := Ctx.regs s c
      let dl := bit c.w 34
      let s := if dl then markVvx s else s
      .done (holdEffect s c.th (.grdy c.ix (spanWord (g.get (fD c.w))) (fEvent35 c.w) (field c.w 24 8) (field c.w 0 24)
        (if dl then some (g.get (fA c.w)) else none)))) th s)

/-! AWAIT. -/

/-- Value of an event counter. -/
def evOf (s : State) (c : CoreId) (e : EventId) : Nat := (s.core c).ev[e].toNat

/-- In replay mode, apply journaled deliveries for an event until its counter reaches a count (R354). -/
def replayFor (s : State) (c : CoreId) (e : EventId) (count : Nat) : State :=
  if inReplay s then
    let n := match s.launch with | some l => l.journal.length | none => 0
    applyWaiting (fun d => d.core = c && d.ev = e) (fun s => decide (evOf s c e < count)) n s
  else s

/-- AWAIT: release at once when the counter suffices, else hold issue (R207). -/
def runAwait (s : State) (c : Ctx) : Exec :=
  let e := fEvent c.w
  let n := fIMM c.w
  if n = 0 || otherEvent (c.split s) c.th.t e then .fault .fieldRange
  else
    let s := replayFor s c.th.core e n
    if n ≤ evOf s c.th.core e then .done (consume s c.th e n)
    else .stay (s.modTh c.th fun t => { t with st := .awaiting e n })

def execAwait (th : ThRef) (s : State) : Res := .next (issue (opRow 0x65 (fun _ => []) runAwait) th s)

/-- The step past an instruction that held its thread for some cycles. -/
def finishWait (s : State) (r : ThRef) (waited : Nat) : State :=
  let t := s.th r
  let s := s.countCore r.core fun k => { k with awaitCycles := sat64 k.awaitCycles waited }
  let s := s.modTh r fun t => { t with st := .running, cycles := t.cycles + waited }
  let w := (wordAt t t.pos).getD 0
  nextPos (noteExec s ⟨r, t.pos, w.toNat⟩) r (t.pos + 1)

/-- AWAIT_RELEASE (R207): the counter has reached the count. -/
def execAwaitRelease (th : ThRef) (waited : Nat) (s : State) : Res :=
  .next (match (s.th th).st with
    | .awaiting e n =>
      let s' := replayFor s th.core e n
      if n ≤ evOf s' th.core e then finishWait (consume s' th e n) th waited else s'
    | _ => s)

/-! AWAITANY. -/

/-- The masked events, lowest first. -/
def maskedEvents (m : Word) : List EventId := (List.finRange 64).filter fun e => m.getLsbD e.1

/-- In replay mode, apply the next journaled delivery for a masked event while no masked counter is set (R354). -/
def replayAny (s : State) (c : CoreId) (es : List EventId) : State :=
  if inReplay s then
    let n := match s.launch with | some l => l.journal.length | none => 0
    applyWaiting (fun d => d.core = c && es.contains d.ev) (fun s => es.all fun e => evOf s c e = 0) n s
  else s

/-- The event AWAITANY takes: the logged one alone, or the lowest masked one that is set (R207). -/
def anyReady (s : State) (r : ThRef) (m : Word) : State × Option EventId :=
  match vvNext s r with
  | some v =>
    let e : EventId := Fin.ofNat 64 v.toNat
    let s := replayFor s r.core e 1
    (s, if 1 ≤ evOf s r.core e then some e else none)
  | none =>
    let s := replayAny s r.core (maskedEvents m)
    (s, (maskedEvents m).find? fun e => decide (1 ≤ evOf s r.core e))

/-- AWAITANY takes an event: it goes to s[D] and the log, and its counter falls by one. -/
def takeAny (s : State) (r : ThRef) (index : Nat) (d : Fin 32) (e : EventId) : State :=
  setReg (consume (markVvx (vvStep s r index (BitVec.ofNat 64 e.1))) r e 1) r d (BitVec.ofNat 64 e.1)

def runAwaitany (s : State) (c : Ctx) : Exec :=
  let m := (Ctx.regs s c).get (fA c.w)
  if (maskedEvents m).any (otherEvent (c.split s) c.th.t) then .fault .fieldRange
  else if (vvNext s c.th).isNone && vvFull s then .fault .vvLogFull
  else
    match anyReady s c.th m with
    | (s, some e) => .done (takeAny s c.th c.ix (fD c.w) e)
    | (s, none) => .stay (s.modTh c.th fun t => { t with st := .awaitingAny (fD c.w) m })

def execAwaitany (th : ThRef) (s : State) : Res := .next (issue (opRow 0x66 (fun _ => []) runAwaitany) th s)

/-- AWAITANY_RELEASE (R207): a masked counter has become non-zero. -/
def execAwaitanyRelease (th : ThRef) (waited : Nat) (s : State) : Res :=
  .next (match (s.th th).st with
    | .awaitingAny d m =>
      match anyReady s th m with
      | (s', some e) =>
        if (vvNext s' th).isNone && vvFull s' then raiseFault s' th .vvLogFull (s'.th th).pos ((wordAt (s'.th th) (s'.th th).pos).getD 0)
        else finishWait (takeAny s' th (s'.th th).pos d e) th waited
      | (s', none) => s'
    | _ => s)

end Sys2Proof.Machine
end

