-- ==== Sys2Proof/Machine/Passes.lean ====
section
/-! DEFINITION. Passes: the release of held effects, COMMIT, END, ANCHOR and the anchor's spill (R40, R41, R179, R208, R211,
R213 to R218, R226, R352). -/
namespace Sys2Proof.Machine

/-! Release of held effects (R40, R352). -/

/-- What a release does: it goes on, must wait, or raises a fault at an instruction index. -/
inductive Release where
  | done (s : State)
  | wait (s : State)
  | fault (f : IFault) (index : Nat)

/-- The next send index of a core (R41). -/
def takeIndex (s : State) (c : CoreId) : State × Nat :=
  let n := ((s.core c).sendIx + 1) % 2 ^ 32
  (s.modCore c fun k => { k with sendIx := n }, n)

/-- The highest index this chip has accepted from one of its own cores (R41, R353). -/
def localIndex (s : State) (c : CoreId) : Nat := (s.fabric.localAccepted.lookup c).getD 0
def noteLocal (s : State) (c : CoreId) (n : Nat) : State :=
  { s with fabric := { s.fabric with localAccepted := (c, n) :: s.fabric.localAccepted.filter (·.1 ≠ c) } }

/-- Deliver a send or post to cores of this chip, once per index. -/
def localDeliver (s : State) (from_ : CoreId) (ix target dstCore addr : Nat) (data : List Byte) (ev : EventId) : State :=
  if ix ≤ localIndex s from_ then s.count fun c => { c with repeatDiscards := sat64 c.repeatDiscards 1 }
  else deliverHere (noteLocal s from_ ix) target dstCore (coreCol from_).1 addr data ev

/-- The packets of a SEND (R283, Table 11.6). -/
def sendPackets (s : State) (r : ThRef) (ix : Nat) (d : DestW) (ev : EventId) (target : Nat) (data : List Byte) : List Packet :=
  let n := ceilDiv data.length 1024
  let tag := (launchTag s).getD 0
  (List.range n).map fun i =>
    let part := (data.drop (1024 * i)).take 1024
    ownPacket s tySEND d.chip d.coreNo r.core.1 ix
      (extOf [(0, d.addr), (21, ev.1), (27, target), (32, part.length / 64 - 1), (48, i), (64, n - 1), (96, tag)]) part

/-- Chips that acknowledge a packet, and those that need not (R288, R303). -/
def sendMembers (s : State) (p : Packet) : Nat × List Nat :=
  match lineDim p with
  | some dim => (torusSize s dim, if lineFirst p dim = s.chipId then [s.chipId] else [])
  | none => (1, [])

/-- The thread's released payload meets a failing half of its bench: it is not read before the response (R183, R213). -/
def payloadHeld (s : State) (r : ThRef) (span : SpanW) : Bool := benchHeld s r.core [(span.base, span.len)] []

/-- Release a SEND (R208). `again` says that it has taken effect before (R352): only its delivery here is repeated. -/
def releaseSend (s : State) (r : ThRef) (span : SpanW) (d : DestW) (ev : EventId) (target : Nat) (again : Bool) : Release :=
  let data := benchRead s r.core span.base span.len
  let (s', ix) := takeIndex s r.core
  if payloadHeld s r span then .wait s
  else if d.chip = s.chipId && decide (target ≤ 2) then
    .done (localDeliver s' r.core ix target d.coreNo d.addr data ev)
  else
    let ps := sendPackets s' r ix d ev target data
    let here : Bool := match ps with
      | p :: _ => (match lineDim p with | some dim => lineFirst p dim = s.chipId | none => false)
      | [] => false
    let s'' := if here then localDeliver s' r.core ix 0 d.coreNo d.addr data ev else s'
    if again then .done s''
    else if !trackRoom s ps.length then .wait s
    else
      .done (ps.foldl (fun s p =>
        let (m, a) := sendMembers s p
        if m ≤ a.length then s else sendTracked s p m a) s'')

/-- Release a POST. -/
def releasePost (s : State) (r : ThRef) (d : DestW) (ev : EventId) (again : Bool) : Release :=
  let (s', ix) := takeIndex s r.core
  if d.chip = s.chipId then .done (localDeliver s' r.core ix 0 d.coreNo 0 [] ev)
  else if again then .done s'
  else if !trackRoom s 1 then .wait s
  else
    let p := ownPacket s tyPOST d.chip d.coreNo r.core.1 ix (extOf [(0, (launchTag s).getD 0), (32, ev.1)]) []
    .done (sendTracked s' p 1 [])

/-- Release a GRDY (R316); it takes an index like a send (R41). -/
def releaseGrdy (s : State) (r : ThRef) (index : Nat) (span : SpanW) (ev : EventId) (group bucket : Nat)
    (deadline : Option Word) (again : Bool) : Release :=
  if !again && payloadHeld s r span then .wait s
  else
  let (s, _) := takeIndex s r.core
  if again then .done s
  else
    match grdyRelease s r index span ev group bucket deadline with
    | (s, none) => .done s
    | (_, some f) => .fault f index

/-- The additions of an ATOMIC_ADD, with their flags (R176). -/
def atomicAdd (s : State) (c : CoreId) (d : DmaDesc) : State × FlagWord :=
  let one (x y : Nat) : Nat × FlagWord :=
    let (v, fl) := join (if d.fmt = 0 then .fp32 else .int32) false ⟨BitVec.ofNat 32 x, 0⟩ ⟨BitVec.ofNat 32 y, 0⟩
    (v.hi.toNat, fl)
  (List.range d.rows).foldl (fun (s, fl) r =>
    let src := unpackElems 32 d.rowElems (benchRead s c (d.src + r * d.srcStride) (4 * d.rowElems))
    let at_ := d.dst + r * d.dstStride
    let old := unpackElems 32 d.rowElems (hbmRead s at_ (4 * d.rowElems))
    let sums := (old.zip src).map fun (x, y) => one x y
    (hbmWrite s at_ (packElems 32 (sums.map (·.1))), fl ||| (sums.map (·.2)).foldl (· ||| ·) 0)) (s, 0)

/-- An ATOMIC_ADD meets a failing bench half at its source or a failing sector at its destination (R169, R183). -/
def atomicHeld (s : State) (c : CoreId) (d : DmaDesc) : Bool :=
  (s.sites[siteOf s c].bad.any fun h => (srcExtents d).any fun e => e.hits h (h + 64)) ||
    s.hbm.bad.any fun x => (dstExtents d).any fun e => e.hits x (x + 64)

/-- An acknowledgement to come. -/
def awaitAck (s : State) (r : ThRef) (a : Ack) : State := s.modTh r fun t => { t with acks := t.acks ++ [a] }

/-- Release one held effect (R352: `again` for one that a replay has released before). An FADD's result goes into the log with the
addition (R42), and in a replay each FADD takes the next logged one. -/
def releaseOne (s : State) (r : ThRef) (again : Bool) : Held → Release
  | .send _ span d ev target => releaseSend s r span d ev target again
  | .post _ d ev => releasePost s r d ev again
  | .grdy index span ev group bucket deadline => releaseGrdy s r index span ev group bucket deadline again
  | .atomicAdd _ d =>
    if again then .done s
    else if atomicHeld s r.core d then .wait s
    else
      let (s, fl) := atomicAdd s r.core d
      .done (awaitAck s r (.add fl))
  | .fadd index a x dest =>
    if again then .done (awaitAck (s.modTh r fun t => { t with vvPos := t.vvPos + 1 }) r (.fadd ((vvNext s r).getD 0) dest index))
    else if hbmHeld s [(a, 8)] [] then .wait s
    else
      let old := ofBytes (hbmRead s a 8)
      let s := vvStep (hbmWrite s a (toBytes 8 (BitVec.ofNat 64 old + x).toNat)) r index (BitVec.ofNat 64 old)
      .done (awaitAck s r (.fadd (BitVec.ofNat 64 old) dest index))
  | .release index b =>
    let e := bufOf s b
    match e.st with
    | .free => .fault .bufState index
    | .filling => .wait (markWait s r)
    | .ready => .done (modBuf (endWait s r) b fun e => if e.uses ≤ 1 then bufEntry0 else { e with uses := e.uses - 1 })

/-- Release a thread's held effects in program order until one waits or raises a fault. The fuel is their number. -/
def releaseAll : Nat → State → ThRef → State
  | 0, s, _ => s
  | n + 1, s, r =>
    let t := s.th r
    match t.hold with
    | [] => s
    | h :: rest =>
      let again := inReplay s && decide (t.relCnt + 1 ≤ t.relMark)
      match releaseOne s r again h with
      | .wait s => s
      | .fault f ix => raiseFault s r f ix ((wordAt t ix).getD 0)
      | .done s => releaseAll n (s.modTh r fun t => { t with hold := rest, relCnt := t.relCnt + 1 }) r

/-! The end of a COMMIT (R213). -/

/-- The planes that a thread's pass may load: its lane's arrays in split mode, else all. -/
def lanePlanes (split : Bool) (t : ThreadId) (mine other : Vector Planes 4) : Vector Planes 4 :=
  Vector.ofFn fun a => if otherArray split t a.1 then other[a] else mine[a]

/-- A pass closes: its definitions and GATHERs in the buffer table are no longer repeats (R212). -/
def closeBufs (s : State) (r : ThRef) : State :=
  { s with bufs := s.bufs.map fun e =>
      { e with owner := (match e.owner with | some (th, _, _) => if th = r then none else e.owner | none => none),
               fills := e.fills.map fun f => if f.th = r then { f with step := none } else f } }

/-- Steps 3 and 4 of R213: the checkpoint, and the records of the pass cleared. -/
def checkpoint (s : State) (r : ThRef) : State :=
  let k := s.core r.core
  closeBufs (s.modTh r fun t =>
    { t with ckpt := ⟨t.regs, k.sendIx, t.pos, t.vvPos, t.relCnt, t.passed, t.steps⟩, consumed := [], written := 0, touched := [],
             statusSn := [], slotSn := [], faddRegs := [], acks := [], hold := [], stepNo := 0, detections := 0,
             planesAt := k.planes }) r

/-- Leave a backlog stream (R226): the main checkpoint comes back, with the backlog stream's flags ORed in. -/
def leaveWindow (s : State) (r : ThRef) : State :=
  match (s.th r).mainCkpt with
  | none => s
  | some m =>
    let s := traceThread s r 5 (s.th r).pos 0
    let ran := overrun s (s.th r)
    let s := s.countCore r.core fun k => { k with windowOverrun := sat64 k.windowOverrun ran }
    let s := s.modTh r fun t =>
      { t with regs := { m.regs with vfl := m.regs.vfl ||| t.regs.vfl }, pos := m.pos, stream := t.mainStream,
               mainStream := none, mainCkpt := none, window := none, passed := true, cue := [], refill := true, st := .running }
    checkpoint s r

/-- What a thread does after its COMMIT. -/
def afterCommit (s : State) (r : ThRef) : CommitKind → State
  | .commit => s.modTh r fun t => { t with st := .running }
  | .anchor n live => s.modTh r fun t => { t with st := .atAnchor n live, anchorNo := n }
  | .ended => s.modTh r fun t => { t with st := .ended }
  | .leaveWindow => leaveWindow s r

/-- Carry a COMMIT on: release what can be released; once everything is released and acknowledged, save the checkpoint and go
on (R213). -/
def carryCommit (s : State) (r : ThRef) : State :=
  let s := releaseAll (s.th r).hold.length s r
  let t := s.th r
  match t.st with
  | .committing k =>
    if t.hold.isEmpty && t.acks.isEmpty then
      let w := (wordAt t (t.pos - 1)).getD 0
      let s := checkpoint s r
      let s := afterCommit s r k
      traceThread s r 2 (t.pos - 1) w
    else s
  | _ => s

/-- A COMMIT in its thread's program order: it waits until the pass's operations have left the scoreboard. -/
def startCommit (kind : CommitKind) (s : State) (c : Ctx) : Exec :=
  if (s.th c.th).sb.isEmpty then .done (s.modTh c.th fun t => { t with st := .committing kind }) else .stay s

/-- Does a thread stand in a COMMIT of this row? -/
def isCommit : CommitKind → Bool
  | .commit => true
  | _ => false
def isEnd : CommitKind → Bool
  | .ended | .leaveWindow => true
  | _ => false
def isAnchor : CommitKind → Bool
  | .anchor _ _ => true
  | _ => false

/-- Issue the row's instruction, or carry on its COMMIT under way. -/
def commitRow (op : Nat) (mine : CommitKind → Bool) (run : State → Ctx → Exec) (r : ThRef) (s : State) : State :=
  let s := match (s.th r).st with
    | .committing _ => s
    | _ => issue (opRow op (fun _ => []) run) r s
  match (s.th r).st with
  | .committing k => if mine k then carryCommit s r else s
  | _ => s

def execCommit (th : ThRef) (s : State) : Res := .next (commitRow 0x02 isCommit (startCommit .commit) th s)

/-- END (R218); in a backlog stream it leaves the window (R226). -/
def execEndThread (th : ThRef) (s : State) : Res :=
  .next (commitRow 0x01 isEnd (fun s c => startCommit (if (s.th c.th).window.isSome then .leaveWindow else .ended) s c) th s)

/-! Anchors (R215 to R217). -/

/-- Live bits of the other lane's banks or tiles (R215). -/
def liveOther (split : Bool) (t : ThreadId) (live : Word) : Bool :=
  split && (if t = 0 then field live.toNat 12 12 ≠ 0 || field live.toNat 40 16 ≠ 0
    else field live.toNat 0 12 ≠ 0 || field live.toNat 24 16 ≠ 0)

def runAnchor (s : State) (c : Ctx) : Exec :=
  let live := (Ctx.regs s c).get (fA c.w)
  let t := s.th c.th
  let n := field c.w 0 16
  match firstFault [(liveOther (c.split s) c.th.t live, .fieldRange),
                    (t.window.isSome || decide (n ≠ t.anchorNo + 1), .anchorOrder)] with
  | some f => .fault f
  | none => startCommit (.anchor n live) s c

def execAnchor (th : ThRef) (s : State) : Res := .next (commitRow 0x03 isAnchor runAnchor th s)

/-- The live map of a core: what its held threads mark. -/
def coreLive (k : Core) : Word :=
  k.threads.toList.foldl (fun x t => match t.st with | .atAnchor _ live => x ||| live | _ => x) 0

/-- What an anchor holds of a core (R217). -/
def anchorCore (s : State) (c : CoreId) : AnchorCore :=
  let k := s.core c
  let live := coreLive k
  let bench := s.sites[siteOf s c].bench
  { banks := ((List.range 24).filter fun b => live.getLsbD b).map fun b => (b, bench.window (65536 * b) 65536),
    tiles := ((List.range 32).filter fun t => live.getLsbD (24 + t)).map fun t =>
      (t, k.tiles[Fin.ofNat 32 t], k.status[Fin.ofNat 32 t]),
    slots := if live.getLsbD 56 then some k.slots else none,
    ckpts := k.threads.map fun t => { t.ckpt with vvPos := 0, steps := 0 }, states := k.threads.map (·.st), windows := k.threads.map (·.window),
    anchors := k.threads.map (·.anchorNo), ev := k.ev, sendIx := k.sendIx }

/-- The 64-byte header of an anchor (R217): its number and a CRC-32C over the header. DESIGN CHOICE (log entry 77): the number stands
first, the code last, zeros between. -/
def anchorHeader (n : Nat) : List Byte :=
  let fields := toBytes 8 n ++ List.replicate 52 0
  fields ++ toBytes 4 (crc32c fields)

/-- The header of an anchor is complete (R217). -/
def AnchorRec.complete (a : AnchorRec) : Bool :=
  decide (a.header.length = 64 ∧ ofBytes (a.header.take 8) = a.number ∧ ofBytes (a.header.drop 60) = crc32c (a.header.take 60))

/-- The chip's record of an anchor. -/
def anchorRec (s : State) (n : Nat) : AnchorRec :=
  { number := n, header := anchorHeader n,
    cores := ((List.finRange 192).filter fun c => coreTakesPart s c).map fun c => (c, anchorCore s c),
    bufs := s.bufs, localAccepted := s.fabric.localAccepted }

/-- Every participating thread is held at this anchor, or has ended. -/
def allHeld (s : State) (n : Nat) : Bool :=
  s.participants.all fun r => match (s.th r).st with
    | .atAnchor m _ => m = n
    | .ended => true
    | _ => false

/-- The anchor at which some thread is held. -/
def heldAnchor (s : State) : Option Nat :=
  s.participants.findSome? fun r => match (s.th r).st with | .atAnchor n _ => some n | _ => none

/-- Journal entries that an anchor frees: those written before it, but totals of rounds not complete here (R361). -/
def journalKept (s : State) (l : Launch) : List JEntry :=
  l.journal.filter fun e => !e.applied || (match e.total with
    | some (g, b, n) => s.red.insts.any fun (k, i) => k.1 = g && i.bucket = b && i.n = n && decide (i.st ≠ .done)
    | none => false)

/-- A replay's counts of a core begin again at the anchor. -/
def releaseAnchor (t : Thread) : Thread :=
  match t.st with
  | .atAnchor _ _ => { t with st := .running, vvPos := 0, steps := 0, ckpt := { t.ckpt with vvPos := 0, steps := 0 } }
  | _ => { t with vvPos := 0, steps := 0, ckpt := { t.ckpt with vvPos := 0, steps := 0 } }

/-- A half of the anchor area is written, its header last: sectors of it, and of its mirror, that failed are good again (R169, R217).
The bytes of the rest are kept in the record (log entry 77). -/
def writeHalf (s : State) (l : Launch) (n : Nat) : State :=
  let base := l.d.anchorBase + n % 2 * Config.anchorHalf
  let s := hbmWrite s base (anchorHeader n)
  let bad := (mirrorParts s base Config.anchorHalf).foldl (fun l (_, m, len) => dropSectors l m len)
    (dropSectors s.hbm.bad base Config.anchorHalf)
  { s with hbm := { s.hbm with bad := bad } }

/-- The spill: the anchor is written to the half of its number, the log cleared, and every thread released (R216, R361). -/
def spillAnchor (s : State) : State :=
  match s.launch, heldAnchor s with
    | some l, some n =>
      if l.st = .active && allHeld s n then
        let rec_ := anchorRec s n
        let held := s.participants.filter fun r => match (s.th r).st with | .atAnchor _ _ => true | _ => false
        let l := { l with anchors := l.anchors.filter (fun a => a.number % 2 ≠ n % 2) ++ [rec_], anchorNo := n, vvLog := [],
                          journal := journalKept s l, attempts := 0 }
        let s := writeHalf s l n
        let s := { s with
          launch := some l,
          cores := s.cores.map fun k => { k with threads := k.threads.map releaseAnchor, detections := 0 } }
        held.foldl (fun s r => traceThread s r 4 ((s.th r).pos - 1) ((wordAt (s.th r) ((s.th r).pos - 1)).getD 0)) s
      else s
    | _, _ => s

/-- ATOMIC_ACKNOWLEDGE (R213): the oldest released addition of the thread is acknowledged. -/
def execAtomicAcknowledge (th : ThRef) (s : State) : Res :=
  .next (match (s.th th).acks with
    | [] => s
    | a :: rest =>
      let s := s.modTh th fun t => { t with acks := rest }
      let s := match a with
        | .add fl => orFlags s th fl
        | .fadd v d _ =>
          let s := s.modTh th fun t => { t with faddRegs := t.faddRegs.drop 1 }
          setReg s th d v
      carryCommit s th)

end Sys2Proof.Machine
end

