-- ==== Sys2Proof/Machine/Windows.lean ====
section
/-! DEFINITION. Windows of a backlog launch (R224 to R226) and the cue buffer (R190). -/
namespace Sys2Proof.Machine

/-- The registers of R189, with an argument in s1. -/
def startRegs (s : State) (r : ThRef) (arg : Word) : Regs :=
  let g := regs0.set 1 arg
  let g := g.set 2 (BitVec.ofNat 64 s.chipId)
  let g := g.set 3 (BitVec.ofNat 64 (coreRow r.core * 256 + (coreCol r.core).1))
  g.set 4 (BitVec.ofNat 64 r.t.1)

/-- The item bound to a window. -/
def boundTo (s : State) (w : Nat) : Option BoundItem := s.bound.find? (·.window = w)

/-- Nothing holds the thread but the launch and its own state (R44, R390). -/
def mayRun (s : State) (r : ThRef) : Bool :=
  (match s.launch with | some l => decide (l.st = .active) | none => false) && decide ((s.core r.core).sleep = .s0) &&
    decide (s.power.chip = .awake)

/-- Cycles that a thread has waited at a window (R224). -/
def windowWaited (s : State) (r : ThRef) (n : Nat) : State :=
  let s := s.countCore r.core fun k => { k with windowWait := sat64 k.windowWait n }
  s.modTh r fun t => { t with cycles := t.cycles + n, waitAt := none }

/-- WINDOW_WAIT (R224): the thread stands at a window that no item is bound to, and its wait until now is counted. -/
def execWindowWait (th : ThRef) (s : State) : Res :=
  .next (match windowAt s th with
    | some e =>
      if mayRun s th && decide ((s.th th).st = .running ∨ (s.th th).st = .inWindowWait e.window) && (boundTo s e.window).isNone then
        (windowWaited (s.modLaunch fun l => { l with waited := true }) th (windowOwed s (s.th th))).modTh th fun t =>
          { t with st := .inWindowWait e.window, waitAt := some s.align.ticks }
      else s
    | none => s)

/-- Enter a bound window (R225); an item with nothing for the thread closes it at once. -/
def enterWindow (s : State) (r : ThRef) (b : BoundItem) (budget : Nat) : State :=
  let t := s.th r
  match (b.sections.getD []).find? fun x => decide (x.th = r) with
  | none => s.modTh r fun t => { t with st := .running, passed := true }
  | some sec =>
    let s := s.modTh r fun t =>
      { t with mainCkpt := some { t.ckpt with pos := t.pos }, mainStream := t.stream, window := some b.window,
               stream := some sec.stream, pos := 0, regs := startRegs s r b.arg, cue := [], refill := true, noticed := 0, st := .running,
               passed := false, winAt := s.tally.toNat, winBudget := budget }
    let s := traceThread s r 5 0 1
    let k := s.core r.core
    s.modTh r fun x => { x with ckpt := ⟨x.regs, k.sendIx, 0, t.vvPos, x.relCnt, false, x.steps⟩, stepNo := 0 }

/-- WINDOW_ENTER (R224, R225): the window is bound; `waited` core cycles of the wait have passed since WINDOW_WAIT last counted it. -/
def execWindowEnter (th : ThRef) (waited : Nat) (s : State) : Res :=
  .next (match windowAt s th with
    | none => s
    | some e =>
      let t := s.th th
      let w := match t.st with | .inWindowWait _ => true | _ => false
      match boundTo s e.window with
      | none => s
      | some b =>
        if mayRun s th && (w || decide (t.st = .running)) then
          enterWindow (if w then windowWaited s th waited else s) th b e.budget
        else s)

/-! The cue buffer (R190). -/

/-- Lines of a thread's share, and how far ahead it fetches. -/
def cueLines (split : Bool) : Nat := if split then 8 else 16
def cueAhead (split : Bool) : Nat := if split then 5 else 11

/-- The next line the sequencer fetches: the first that is not resident from the issue position on. -/
def nextLine (t : Thread) (count : Nat) : Option Nat :=
  let cur := t.pos / 512
  let total := ceilDiv count 512
  ((List.range 12).map (cur + ·)).find? fun l => decide (l < total) && !t.cue.any (·.line = l)

/-- The words of a line, from HBM. -/
def lineWords (s : State) (st : Stream) (line : Nat) : List Word :=
  (unpackElems 64 (min 512 (st.count - 512 * line)) (hbmRead s (st.base + 4096 * line) 4096)).map (BitVec.ofNat 64)

/-- Make room for a line: drop the oldest behind the issue position. -/
def dropOldest (t : Thread) (room : Nat) : List CueLine :=
  if t.cue.length < room then t.cue
  else
    match t.cue.find? fun l => decide (l.line < t.pos / 512) with
    | some old => t.cue.filter (·.line ≠ old.line)
    | none => t.cue

/-- The line at the issue position and the one after it are resident. -/
def linesReady (t : Thread) (count : Nat) : Bool :=
  let cur := t.pos / 512
  t.cue.any (·.line = cur) && (t.cue.any (·.line = cur + 1) || decide (ceilDiv count 512 ≤ cur + 1))

/-- CUE_LINE_FETCH (R190): a line arrives; `missCycles` is what a thread lost waiting for it. -/
def execCueLineFetch (th : ThRef) (line missCycles : Nat) (s : State) : Res :=
  .next (
    let t := s.th th
    let split := (s.core th.core).split
    match t.stream with
    | none => s
    | some st =>
      if nextLine t st.count = some line && decide (line ≤ t.pos / 512 + cueAhead split) && decide (t.st ≠ .halted) &&
          !(s.hbm.bad.any fun a => decide (st.base + 4096 * line ≤ a + 63 ∧ a < st.base + 4096 * line + 4096)) then
        let cue := dropOldest t (cueLines split)
        if cue.length < cueLines split then
          let s := if t.refill || decide (line = t.pos / 512) then
              (s.countCore th.core fun k => { k with cueMiss := sat64 k.cueMiss missCycles }).modTh th fun t =>
                { t with cycles := t.cycles + missCycles }
            else s
          s.modTh th fun t =>
            let t := { t with cue := cue ++ [({ line := line, words := lineWords s st line } : CueLine)] }
            { t with refill := t.refill && !linesReady t st.count }
        else s
      else s)

end Sys2Proof.Machine
end

