-- ==== Sys2Proof/Machine/Launch.lean ====
section
/-! DEFINITION. Launches: the checks of the image (R28, R29, R223, R255), backlog items (R228), the start (R44, R189, R248),
the completion (R218, R230, R232, R261 to R263, R345). -/
namespace Sys2Proof.Machine

/-! The image (R28, R29). -/

/-- The header of Table 2.1, as stored. -/
structure ImageHeader where
  magic  : Nat
  major  : Nat
  minor  : Nat
  target : Nat
  count  : Nat
  flags  : Nat
  table  : Nat
  bytes  : Nat
  anchor : Nat
  vvCap  : Nat
  rsv    : Nat
deriving DecidableEq, Repr

/-- An entry of Table 2.2, as stored. -/
structure SectionRaw where
  row    : Nat
  col    : Nat
  thread : Nat
  rsv    : Nat
  offset : Nat
  count  : Nat
deriving DecidableEq, Repr

/-- A field of `n` bytes at an HBM address. -/
def hbmNat (s : State) (a n : Nat) : Nat := ofBytes (hbmRead s a n)

def readHeader (s : State) (a : Nat) : ImageHeader :=
  { magic := hbmNat s a 4, major := hbmNat s (a + 4) 2, minor := hbmNat s (a + 6) 2, target := hbmNat s (a + 8) 4,
    count := hbmNat s (a + 0xC) 2, flags := hbmNat s (a + 0xE) 2, table := hbmNat s (a + 0x10) 8, bytes := hbmNat s (a + 0x18) 8,
    anchor := hbmNat s (a + 0x20) 8, vvCap := hbmNat s (a + 0x28) 4, rsv := hbmNat s (a + 0x2C) 4 }

def readSection (s : State) (a : Nat) : SectionRaw :=
  { row := hbmNat s a 1, col := hbmNat s (a + 1) 1, thread := hbmNat s (a + 2) 1,
    rsv := hbmNat s (a + 3) 5 + hbmNat s (a + 0x18) 8, offset := hbmNat s (a + 8) 8, count := hbmNat s (a + 0x10) 8 }

/-- The section table of an image. -/
def readSections (s : State) (image : Nat) (h : ImageHeader) : List SectionRaw :=
  (List.range h.count).map fun i => readSection s (image + h.table + 32 * i)

/-- A range inside another. -/
def within (a n base len : Nat) : Bool := decide (base ≤ a ∧ a + n ≤ base + len)

def SectionRaw.th (x : SectionRaw) : ThRef := ⟨coreOf x.row x.col, Fin.ofNat 2 x.thread⟩
def SectionRaw.section_ (image : Nat) (x : SectionRaw) : Section := ⟨x.th, ⟨image + x.offset, x.count⟩⟩

/-- No two entries name the same core and thread. -/
def distinctTh : List SectionRaw → Bool
  | [] => true
  | x :: xs => !(xs.any fun y => decide (y.row = x.row ∧ y.col = x.col ∧ y.thread = x.thread)) && distinctTh xs

/-- The checks of R29 on an image, within a granted range and against an anchor area of `anchor` bytes. -/
def imageChecks (s : State) (image base len anchor : Nat) : List (Bool × Nat) :=
  let h := readHeader s image
  let xs := readSections s image h
  [(within image 64 base len && within (image + h.table) (32 * h.count) base len &&
      xs.all fun x => within (image + x.offset) (8 * x.count) base len, stBadAddress),
   (decide (h.magic = 0x4E525753 ∧ h.target = 0x960 ∧ h.major = 1 ∧ h.minor ≤ 3), stUnsupported),
   (decide (h.rsv = 0 ∧ h.flags < 8 ∧ image % 64 = 0 ∧ h.table % 64 = 0 ∧ h.anchor % 4096 = 0 ∧ 1 ≤ h.count ∧ h.count ≤ 384) &&
      (xs.all fun x => decide (x.rsv = 0 ∧ x.row < 12 ∧ x.col < 16 ∧ x.thread < 2 ∧ x.offset % 64 = 0 ∧ 1 ≤ x.count)) &&
      distinctTh xs, stMalformed),
   (decide (h.anchor ≤ anchor) && (!h.flags.testBit 1 || decide (s.life.state = some .ready)), stMalformed)]

/-- An area wholly within one declared MIRROR region (R182, R255); an area of no bytes holds nothing. -/
def inMirror (s : State) (a n : Nat) : Bool :=
  decide (n = 0) || s.regions.toList.any fun r =>
    match r with
    | some ⟨b, m, .mirror _⟩ => within a n b m
    | _ => false

/-! The window table (R222, R223). -/

/-- Where the window table of an image stands. -/
def windowTable (image : Nat) (h : ImageHeader) : Nat := image + roundUp (h.table + 32 * h.count) 64

/-- An entry of Table 9.1 with its reserved bytes. -/
def readWindow (s : State) (a : Nat) : WindowEntry × Nat × Nat × Nat × Nat :=
  let row := hbmNat s a 1
  let col := hbmNat s (a + 1) 1
  let th := hbmNat s (a + 2) 1
  (⟨⟨coreOf row col, Fin.ofNat 2 th⟩, hbmNat s (a + 4) 2, hbmNat s (a + 8) 4, hbmNat s (a + 0xC) 4⟩, row, col, th,
    hbmNat s (a + 3) 1 + hbmNat s (a + 6) 2)

def readWindows (s : State) (at_ : Nat) : List (WindowEntry × Nat × Nat × Nat × Nat) :=
  (List.range (hbmNat s (at_ + 4) 4)).map fun i => readWindow s (at_ + 0x10 + 16 * i)

/-- Entries in increasing order of row, column, thread and OPEN_INDEX, and windows of a thread rising with it (R223). -/
def windowsOrdered : List WindowEntry → Bool
  | a :: b :: rest =>
    let ka := a.th.core.1 * 2 + a.th.t.1
    let kb := b.th.core.1 * 2 + b.th.t.1
    (decide (ka < kb) || decide (ka = kb ∧ a.openIx < b.openIx ∧ a.window < b.window)) && windowsOrdered (b :: rest)
  | _ => true

/-- The instruction before an OPEN_INDEX is a COMMIT or an ANCHOR without a predicate (R223). -/
def passBoundary (s : State) (st : Stream) (ix : Nat) : Bool :=
  decide (ix = 0) ||
    let w := hbmNat s (st.base + 8 * (ix - 1)) 8
    (decide (fOPC w = 2) || decide (fOPC w = 3)) && decide (fPRED w = 0) && !fPN w

/-- The checks of R223. -/
def windowChecks (s : State) (image base len : Nat) : List (Bool × Nat) :=
  let h := readHeader s image
  let at_ := windowTable image h
  let count := hbmNat s at_ 4
  let n := hbmNat s (at_ + 4) 4
  let raw := readWindows s at_
  let ws := raw.map (·.1)
  let xs := (readSections s image h).map (·.section_ image)
  if !h.flags.testBit 2 then []
  else
    [(within at_ 16 base len && within at_ (16 + 16 * n) base len, stBadAddress),
     (decide (1 ≤ count ∧ count ≤ 4096 ∧ 1 ≤ n ∧ n ≤ 65536 ∧ hbmNat s (at_ + 8) 8 = 0) &&
        (raw.all fun (_, row, col, th, rsv) => decide (row < 12 ∧ col < 16 ∧ th < 2 ∧ rsv = 0)) && windowsOrdered ws &&
        (ws.all fun e =>
          decide (e.window < count) &&
          match xs.find? fun x => decide (x.th = e.th) with
          | some x => decide (e.openIx < x.stream.count) && passBoundary s x.stream e.openIx
          | none => false) &&
        ((List.range count).all fun w => ws.any fun e => decide (e.window = w)), stMalformed)]

/-! LAUNCH (R29, R255, R391). -/

/-- A wake event of a core (R390). -/
def wakeCore (s : State) (c : CoreId) : State :=
  s.modCore c fun k => { k with idleSince := none, sleep := k.sleep.woken }

/-- The launch a descriptor and its image ask for. -/
def launchOf (s : State) (d : Desc) : LaunchDesc :=
  let image := d.word 1
  let h := readHeader s image
  { image := image, start := d.word 2, arg := BitVec.ofNat 64 (d.word 3), rangeBase := d.word 4, rangeBytes := d.word 5,
    anchorBase := d.word 6, anchorBytes := d.word 7, multi := h.flags.testBit 1, backlog := h.flags.testBit 2, vvCap := h.vvCap,
    sections := (readSections s image h).map (·.section_ image),
    windows := if h.flags.testBit 2 then (readWindows s (windowTable image h)).map (·.1) else [],
    windowCount := if h.flags.testBit 2 then hbmNat s (windowTable image h) 4 else 0 }

/-- The checks of a LAUNCH (R29, R223, R250 to R252, R255). -/
def launchChecks (s : State) (d : Desc) : List (Bool × Nat) :=
  let image := d.word 1
  let base := d.word 4
  let len := d.word 5
  let ab := d.word 6
  let al := d.word 7
  let header := within image 64 base len
  let h := readHeader s image
  [(headOk d 0 && devAddr image && devAddr base && devAddr ab && decide (base % 65536 = 0 ∧ len % 65536 = 0 ∧ ab % 4096 = 0 ∧ al % 4096 = 0),
      stMalformed),
   (inStates s [3, 4] && !s.life.quiescePending && !(header && h.flags.testBit 2 && (launchItems s).any fun (_, x) => x.backlog), stRefused),
   (inGeneral base len && (decide (al = 0) || within ab al base len), stBadAddress)] ++
    imageChecks s image base len al ++ [(inMirror s ab al, stMalformed)] ++ windowChecks s image base len

/-- The reads that the checks of R29 make of an image within the granted range meet a stored error (R185). -/
def imageHeld (s : State) (image base len : Nat) : Bool :=
  within image 64 base len &&
    (badIn s image 64 ||
      (let h := readHeader s image
       within (image + h.table) (32 * h.count) base len && badIn s (image + h.table) (32 * h.count)))

/-- The reads that the checks of R223 make meet a stored error. -/
def windowsHeld (s : State) (image base len : Nat) : Bool :=
  let h := readHeader s image
  let at_ := windowTable image h
  let n := hbmNat s (at_ + 4) 4
  let xs := (readSections s image h).map (·.section_ image)
  h.flags.testBit 2 && within at_ 16 base len &&
    (badIn s at_ 16 ||
      (within at_ (16 + 16 * n) base len &&
        (badIn s (at_ + 16) (16 * n) ||
          (readWindows s at_).any fun (e, _) =>
            match xs.find? fun x => decide (x.th = e.th) with
            | some x => decide (0 < e.openIx ∧ e.openIx < x.stream.count) && badIn s (x.stream.base + 8 * (e.openIx - 1)) 8
            | none => false)))

/-- A read that the checks of a LAUNCH come to meets a stored error, which is answered under Table 7.9 first (R185). -/
def launchHeld (s : State) (d : Desc) : Bool :=
  let image := d.word 1
  let base := d.word 4
  let len := d.word 5
  let cs := launchChecks s d
  let early := within image 64 base len && badIn s image 64 && (launchItems s).any fun (_, x) => x.backlog
  (firstFail (cs.take 1)).isNone && inStates s [3, 4] && !s.life.quiescePending &&
    (early || ((firstFail (cs.take 3)).isNone &&
      (imageHeld s image base len || ((firstFail (cs.take 8)).isNone && windowsHeld s image base len))))

/-- LAUNCH (R29). -/
def execLaunch (sq : RingId) (s : State) : Res :=
  .next (dispatch s sq (fun d => decide (d.opc = 1) && decide ((s.subs[sq]).ty = 0) && !launchHeld s d) fun s d h =>
    checked s h (launchChecks s d)
      (let x := launchOf s d
       x.sections.foldl (fun s y => wakeCore s y.th.core) (acceptItem s d h (.launch x))))

/-! Backlog items (R228). -/

/-- The launch that backlog items bind to. -/
def backlogLaunch (s : State) : Option LaunchDesc := ((launchItems s).find? fun (_, d) => d.backlog).map (·.2)

/-- Sections of an item image that name a core and thread without an entry for the window. -/
def strayItem (s : State) (l : LaunchDesc) (image w : Nat) : Bool :=
  let h := readHeader s image
  (readSections s image h).any fun x => !(l.windows.any fun e => decide (e.window = w ∧ e.th = x.th))

/-- The checks of a backlog item (R228). -/
def itemChecks (s : State) (d : Desc) : List (Bool × Nat) :=
  let w := d.param
  let image := d.word 1
  match backlogLaunch s with
  | none => [(headOk d 12 && devAddr image && d.zeroFrom 3, stMalformed), (false, stRefused)]
  | some l =>
    let h := readHeader s image
    let base := l.rangeBase
    let len := l.rangeBytes
    let header := within image 64 base len
    let table := header && within (image + h.table) (32 * h.count) base len
    [(headOk d 12 && devAddr image && d.zeroFrom 3, stMalformed),
     (inStates s [3, 4] && !s.life.quiescePending, stRefused),
     (decide (w < l.windowCount) && (boundTo s w).isNone, stMalformed)] ++
    (if image = 0 then []
     else
       [(!(header && (h.flags.testBit 1 || h.flags.testBit 2)) && !(table && strayItem s l image w), stMalformed)] ++
         imageChecks s image base len l.anchorBytes)

/-- A read that the checks of a backlog item come to meets a stored error (R185). -/
def itemHeld (s : State) (d : Desc) : Bool :=
  match backlogLaunch s with
  | none => false
  | some l => (firstFail ((itemChecks s d).take 3)).isNone && decide (d.word 1 ≠ 0) && imageHeld s (d.word 1) l.rangeBase l.rangeBytes

/-- BACKLOG_ITEM (R228): the item is bound, or refused; its record of KIND 3 comes with the launch's completion (R230). -/
def execBacklogItem (sq : RingId) (s : State) : Res :=
  .next (dispatch s sq (fun d => decide (d.opc = 1) && decide ((s.subs[sq]).ty = 1) && !itemHeld s d) fun s d h =>
    checked s h (itemChecks s d)
      (let image := d.word 1
       let b : BoundItem := ⟨d.param, if image = 0 then none else some ((readSections s image (readHeader s image)).map (·.section_ image)),
         BitVec.ofNat 64 (d.word 2), h⟩
       let s := acceptItem s d h (.backlog d.param)
       { s with bound := s.bound ++ [b] }))

/-! The start (R44, R46, R47, R122, R132, R150, R178, R189, R248, R290, R301). -/

/-- A memory descriptor's item. -/
def ItemKind.isMemory : ItemKind → Bool
  | .copy _ _ _ _ _ => true
  | .fill _ _ _ => true
  | .wipe _ _ => true
  | .mirror _ _ => true
  | _ => false

/-- The LAUNCH that may start now (R248). -/
def nextLaunch (s : State) : Option (Item × LaunchDesc) :=
  match s.launch with
  | some _ => none
  | none =>
    (launchItems s).head?.bind fun (i, d) =>
      if (itemsBefore s i).all fun j => !(j.kind.isMemory && !j.closing) && (!i.ordered || decide (j.h.sq ≠ i.h.sq)) then some (i, d)
      else none

/-- A thread with a section: its stream and the registers of R189, its cue buffer still to be loaded. -/
def startThread (s : State) (d : LaunchDesc) (r : ThRef) : Thread :=
  match d.sections.find? fun x => decide (x.th = r) with
  | none => thread0
  | some x =>
    let g := startRegs s r d.arg
    { thread0 with st := .loading, stream := some x.stream, regs := g, ckpt := ⟨g, 0, 0, 0, 0, false, 0⟩ }

/-- A core at the start of a launch. -/
def startCore (s : State) (d : LaunchDesc) (c : CoreId) : Core :=
  let k := s.core c
  let mine := d.sections.any fun x => decide (x.th.core = c)
  { k with
    threads := Vector.ofFn fun t => startThread s d ⟨c, t⟩, split := d.sections.any fun x => decide (x.th.core = c ∧ x.th.t = 1),
    ev := Vector.replicate 64 0, sendIx := 0, tiles := Vector.replicate 32 tile0, status := Vector.replicate 32 TileStatus.zero,
    planes := Vector.replicate 4 planes0, slots := Vector.replicate 32 (Vector.replicate 32 slotRow0), detections := 0, storedAt := [],
    idleSince := if mine then none else k.idleSince }

/-- LAUNCH_START (R248): the device area agrees with the tables (R249, log entry 78), the LAUNCH takes its sequence number, the chip its
start state, and the work items are posted. DESIGN CHOICE (log entry 73): one that was accepted before the device entered DEGRADED still
starts, also where a logical core it names has no site. -/
def execLaunchStart (s : State) : Res :=
  .next (match nextLaunch s with
    | none => s
    | some (i, d) =>
      if !isAwake s || s.life.state = some .halted then s
      else
        let l : Launch :=
          { d := d, h := i.h, item := i.id, seq := (s.seq + 1) % 2 ^ 32, st := .starting, exc := 0, vvx := false, level := askedLevel s,
            late := false, lateTicks := 0, depth := false, waited := false, short := false, firstTick := none, halt := none,
            otherFaults := 0, faultTick := 0, sameCycle := [], vvLog := [], anchors := [], anchorNo := 0, attempts := 0, replay := false, replayFrom := 0, journal := [],
            restoreReq := [], replayedFor := [], replayedGather := [], peerWait := [], regather := 0 }
        let s := { s with
          seq := l.seq, cores := Vector.ofFn (startCore s d), bufs := Vector.replicate 256 bufEntry0,
          fabric := { s.fabric with accepted := [], assembly := [], localAccepted := [] } }
        startChange { s with launch := some l, hbm := { s.hbm with dev := s.hbm.dev.map fun d => devTables s d.image } })

/-- A thread that has loaded its cue buffer and whose core is awake (R44, R391). -/
def threadReady (s : State) (r : ThRef) : Bool :=
  let t := s.th r
  decide (t.st = .loading) && decide ((s.core r.core).sleep = .s0) &&
    match t.stream with
    | some st => linesReady t st.count
    | none => false

/-- The first pass's record of what an abort restores. -/
def openPass (s : State) (r : ThRef) : State := s.modTh r fun t => { t with planesAt := (s.core r.core).planes }

/-- LAUNCH_FIRST_ISSUE (R44 to R47): in the tick of S the threads that are ready begin; one ready later begins at once, and the
launch starts late. With S zero each begins as it is ready. The launch's start is its anchor 0 (DEDUCED log entry 22). -/
def execLaunchFirstIssue (s : State) : Res :=
  .next (match s.launch with
    | none => s
    | some l =>
      let ready := allThreads.filter (threadReady s)
      if !(l.st = .starting || l.st = .active) || ready.isEmpty || s.tally.toNat < l.d.start || s.power.changing.isSome || !isAwake s then s
      else
        let now := s.tally.toNat
        let after := ticksSince s l.d.start
        let late := l.d.start ≠ 0 && decide (0 < after)
        let first := decide (l.st = .starting)
        let s := if first then settleStrs (closeCounters s l.seq) 0 else s
        let s := s.modLaunch fun l =>
          { l with st := .active, firstTick := some (l.firstTick.getD now), late := l.late || late,
                   lateTicks := if late then min (max l.lateTicks after) (2 ^ 32 - 1) else l.lateTicks }
        let s := if (List.finRange 16).any fun c => clockSlow s c then s.flagExc excSTR else s
        let s := if l.level < s.power.level ∨ l.level < s.power.throttle then s.flagExc excTHR else s
        let s := ready.foldl (fun s r => openPass (s.modTh r fun t => { t with st := .running }) r) s
        if first then
          let rec0 := anchorRec s 0
          s.modLaunch fun l => { l with anchors := [rec0] }
        else s)

/-! The completion (R218, R261 to R263, R345). -/

/-- STATUS of a halt (R220, R261). -/
def Halt.status : Halt → Nat
  | .fault .dmaRange _ _ _ _ => stBadAddress
  | .fault .benchRange _ _ _ _ => stBadAddress
  | .fault _ _ _ _ _ => stMalformed
  | .checksum => stChecksum
  | .spare => stSpare
  | .security => stSecurity
  | .internal => stInternal

/-- STATUS of a LAUNCH (R261). DESIGN CHOICE (log entry 74): R261 and Table 10.9 give OK_FLAGGED for DEPTH, where R102 says that DEPTH
does not change the status; the model follows R261. -/
def launchStatus (l : Launch) : Nat :=
  match l.halt with
  | some h => h.status
  | none => if l.short then stLate else if l.exc ≠ 0 || l.depth || l.late then stFlagged else stOK

/-- Entries that are not FREE (R232). -/
def bufsHeld (s : State) : Nat := (s.bufs.toList.filter fun e => decide (e.st ≠ .free)).length

/-- The record of Table 10.12. -/
def launchRecord (s : State) (l : Launch) : Rec :=
  let held := bufsHeld s
  let ind := l.vvx.toNat + 2 * l.late.toNat + 4 * l.depth.toNat + (if held = 0 then 0 else 8) + 16 * l.waited.toNat
  let elapsed := match l.firstTick with | some t => s.tally.toNat - t | none => 0
  let fault := match l.halt with | some (.fault _ _ _ _ _) => true | _ => false
  { tag := l.h.tag, opc := l.h.opc, status := launchStatus l, sq := l.h.sq.1, kind := 0, slot := l.h.slot,
    body := recBody [(8, 1, l.exc.toNat), (9, 1, ind), (0xA, 2, l.otherFaults), (0xC, 4, if l.late then l.lateTicks else 0),
      (0x10, 4, l.seq), (0x14, 2, held), (0x18, 7, elapsed)],
    more := fault, irq := l.h.irq, closes := if fault then none else some l.item }

/-- The KIND 1 record of a fault (R262). -/
def faultRecord (l : Launch) : Option Rec :=
  match l.halt with
  | some (.fault f th index word window) =>
    some
      { tag := l.h.tag, opc := l.h.opc, status := launchStatus l, sq := l.h.sq.1, kind := 1, slot := l.h.slot,
        body := recBody [(8, 1, f.code), (9, 1, th.t.1), (0xA, 1, coreRow th.core), (0xB, 1, (coreCol th.core).1), (0xC, 4, index),
          (0x10, 8, word.toNat), (0x18, 2, window.getD 0xFFFF)],
        more := false, irq := l.h.irq, closes := some l.item }
  | _ => none

/-- The open work item of a bound backlog item. -/
def boundItemId (s : State) (b : BoundItem) : Option Nat :=
  (s.items.find? fun i => decide (i.h = b.h ∧ i.kind = .backlog b.window ∧ i.closing = false)).map (·.id)

/-- The KIND 3 record of a bound item (R230, R263). -/
def itemRecord (s : State) (l : Launch) (b : BoundItem) : Rec :=
  { tag := b.h.tag, opc := b.h.opc, status := launchStatus l, sq := b.h.sq.1, kind := 3, slot := b.h.slot,
    body := recBody [(8, 2, b.window), (0xC, 4, l.seq)], more := false, irq := b.h.irq, closes := boundItemId s b }

/-- Everything of the launch is done on this chip: it has halted, or every thread has ended, every effect is acknowledged,
every round written and no replay goes on (R218, R288, R345). -/
def launchFinished (s : State) (l : Launch) : Bool :=
  decide (l.st = .halting) ||
    (decide (l.st = .active) && !l.replay &&
      (s.participants.all fun r => decide ((s.th r).st = .ended) && (s.th r).acks.isEmpty) && s.fabric.tracked.isEmpty &&
      !roundsOpen s && l.restoreReq.isEmpty && l.peerWait.isEmpty)

/-- The arrays that RISE notices announced are shed: the scans find no array instruction any more (R392, R393). -/
def shedAll (s : State) : State :=
  let cols := (List.finRange 16).filter fun c => decide (s.power.domains[c].notices ≠ 0)
  let s := { s with
    cores := s.cores.map fun k => { k with risen := Vector.replicate 2 0 }
    power := { s.power with domains := s.power.domains.map fun d => { d with notices := 0 } } }
  cols.foldl (fun s c => s.emit (.notice c .fall)) s

/-- Every core is free again, and idle from now unless a queued launch names it (R387). -/
def releaseCores (s : State) : State :=
  let s := shedAll s
  { s with cores := Vector.ofFn fun c =>
      let k := s.core c
      { k with threads := Vector.replicate 2 thread0, split := false,
               idleSince := if awaited s c then none else some (k.idleSince.getD s.tally.toNat) } }

/-- LAUNCH_COMPLETE (R218): the items' records, then the launch's; what waited for the end of the launch happens (R47, R257). When
the record cannot be written its ring stops (R243). -/
def execLaunchComplete (writeOk : Bool) (s : State) : Res :=
  .next (match s.launch with
    | none => s
    | some l =>
      if !launchFinished s l then s
      else
        let s := settleStrs s 0
        let items := if l.d.backlog then s.bound.filterMap (boundItemId s) else []
        let s := if l.d.backlog then (s.bound.foldl (fun s b => writeRecord s (cqOf s b.h.sq) (itemRecord s l b)) s) else s
        let s := if l.d.backlog then { s with bound := [] } else s
        let s := traceDispatch s l.h.sq l.h.slot l.h.word
        let s := if l.halt.isSome then
            abandonRounds { s with fabric := { s.fabric with tracked := [], reads := [] } } else s
        let r := { launchRecord s l with after := items }
        let cq := cqOf s l.h.sq
        let s :=
          if writeOk then
            let s := writeRecord s cq r
            match faultRecord l with
            | some f => writeRecord s cq f
            | none => s
          else
            let s := stopComp s cq 3
            { s with items := s.items.filter fun i => decide (i.id ≠ l.item) }
        let s := releaseCores { s with launch := none, bufs := Vector.replicate 256 bufEntry0 }
        pumpRings (finishQuiesce (applyLevel s)))

end Sys2Proof.Machine
end

