-- ==== Sys2Proof/Machine/VecMath.lean ====
section
/-! DEFINITION. The functions of the vector engine (R144 to R146, R153). Each answers a value that lies on the same side of
every FP32 rounding boundary as the exact mathematical value and is exact when that value is exact; rounding it once by
`rne32` is the correctly rounded result R144 asks for. Irrational values are computed in fixed point with 320 fraction bits
and a sticky last bit; arguments and results of FP32 lie far further than 2^-300 from any rounding boundary. -/
namespace Sys2Proof.Machine

/-- Fraction bits of the fixed-point values below. -/
def fixBits : Nat := 320

/-- pi/2, ln 2 and the square root of 2/pi with 320 fraction bits, truncated. -/
def halfPiFix : Nat := 0x1921fb54442d18469898cc51701b839a252049c1114cf98e804177d4c76273644a29410f31c6809bb
def ln2Fix : Nat := 0xb17217f7d1cf79abc9e3b39803f2f6af40f343267298b62d8a0d175b8baafa2be7b876206debac98
def sqrt2OverPiFix : Nat := 0xcc42299ea1b284687e59e2805d5c717fa7053e60a24e0db1808e369004c73a5d3bf158aa88fa7b6e

/-- A value just above (`up`) or just below m * 2^e, nearer than any rounding boundary of FP32. -/
def nudge (up : Bool) (neg : Bool) (m : Nat) (e : Int) : Val :=
  .fin neg (if up then m * 2 ^ 96 + 1 else m * 2 ^ 96 - 1) (e - 96)

/-- A fixed-point magnitude of an irrational value, with its sticky bit. -/
def stickyFix (neg : Bool) (x : Nat) (e : Int) : Val := .fin neg (2 * x + 1) (e - 1)

/-- Bits of the integer square root from bit `n - 1` down, on top of `r`. -/
def isqrtFrom : Nat → Nat → Nat → Nat
  | 0, _, r => r
  | n + 1, x, r => if (r + 2 ^ n) * (r + 2 ^ n) ≤ x then isqrtFrom n x (r + 2 ^ n) else isqrtFrom n x r

/-- floor of the square root. -/
def isqrt (x : Nat) : Nat := isqrtFrom (Nat.log2 x / 2 + 1) x 0

/-- The square root of a positive value. -/
def sqrtVal (m : Nat) (e : Int) : Val :=
  let (m1, e1) := if e % 2 = 0 then (m, e) else (2 * m, e - 1)
  let x := m1 * 2 ^ 80
  let s := isqrt x
  if s * s = x then .fin false s (e1 / 2 - 40) else stickyFix false s (e1 / 2 - 40)

/-- The reciprocal square root of a positive value. -/
def rsqrtVal (m : Nat) (e : Int) : Val :=
  let (m1, e1) := if e % 2 = 0 then (m, e) else (2 * m, e - 1)
  let n := Nat.log2 m1 + 101
  let k := if n % 2 = 0 then n else n + 1
  let s := isqrt (2 ^ k / m1)
  if s * s * m1 = 2 ^ k then .fin false s (-(k : Int) / 2 - e1 / 2) else stickyFix false s (-(k : Int) / 2 - e1 / 2)

/-- The reciprocal of a non-zero value. -/
def rcpVal (neg : Bool) (m : Nat) (e : Int) : Val :=
  let k := Nat.log2 m + 100
  let q := 2 ^ k / m
  if q * m = 2 ^ k then .fin neg q (-(k : Int) - e) else stickyFix neg q (-(k : Int) - e)

/-- x * 2^-e as a fixed-point number of 320 fraction bits, truncated. -/
def toFix (m : Nat) (e : Int) : Nat :=
  let s := e + fixBits
  if 0 ≤ s then m <<< s.toNat else m >>> (-s).toNat

/-- Terms of the exponential series from term `i` on: `t` is the last term. -/
def expTerms : Nat → Nat → Nat → Nat → Nat → Nat
  | 0, _, _, _, acc => acc
  | n + 1, i, x, t, acc =>
    let t' := (t * x) >>> fixBits
    let t'' := t' / i
    expTerms n (i + 1) x t'' (acc + t'')

/-- Square a fixed-point number `n` times. -/
def squareTimes : Nat → Nat → Nat
  | 0, x => x
  | n + 1, x => squareTimes n ((x * x) >>> fixBits)

/-- e^x for a fixed-point x in [0, 1). -/
def expFix (x : Nat) : Nat :=
  let one := 2 ^ fixBits
  squareTimes 8 (expTerms 48 1 (x >>> 8) one one)

/-- e^x for a real x given in signed fixed point, as f * 2^k with f in [1, 2]. -/
def expReal (x : Int) : Nat × Int :=
  let k := x / (ln2Fix : Int)
  let r := x - k * (ln2Fix : Int)
  (expFix r.toNat, k)

/-- Signed fixed point of a value. -/
def signedFix (neg : Bool) (m : Nat) (e : Int) : Int := if neg then -(toFix m e : Int) else (toFix m e : Int)

/-- |x| < 2^k. -/
def below (m : Nat) (e k : Int) : Bool := m = 0 || decide (log2Floor m e < k)

/-- 2^x of a finite x. -/
def exp2Val (neg : Bool) (m : Nat) (e : Int) : Val :=
  if m = 0 then .fin false 1 0
  else if !below m e 10 then (if neg then .fin false 1 (-400) else .fin false 1 400)
  else if below m e (-30) then nudge (!neg) false 1 0
  else
    let x := signedFix neg m e
    let one : Int := (2 : Int) ^ fixBits
    let n := x / one
    let f := (x - n * one).toNat
    if f = 0 then .fin false 1 n
    else stickyFix false (expFix ((f * ln2Fix) >>> fixBits)) (n - fixBits)

/-- e^x of a finite x. -/
def expVal (neg : Bool) (m : Nat) (e : Int) : Val :=
  if m = 0 then .fin false 1 0
  else if !below m e 9 then (if neg then .fin false 1 (-400) else .fin false 1 400)
  else if below m e (-30) then nudge (!neg) false 1 0
  else
    let (f, k) := expReal (signedFix neg m e)
    stickyFix false f (k - fixBits)

/-- Terms of the inverse hyperbolic tangent: `p` is z^i, `i` odd. -/
def atanhTerms : Nat → Nat → Nat → Nat → Nat → Nat
  | 0, _, _, _, acc => acc
  | n + 1, i, z2, p, acc => atanhTerms n (i + 2) z2 ((p * z2) >>> fixBits) (acc + p / i)

/-- ln y for a fixed-point y in [1, 2). -/
def lnFix (y : Nat) : Nat :=
  let one := 2 ^ fixBits
  let z := ((y - one) <<< fixBits) / (y + one)
  2 * atanhTerms 104 1 ((z * z) >>> fixBits) z 0

/-- A signed fixed-point irrational value. -/
def stickyInt (x : Int) : Val := stickyFix (decide (x < 0)) x.natAbs (-(fixBits : Int))

/-- The base-2 logarithm of a positive value. -/
def log2Val (m : Nat) (e : Int) : Val :=
  let k := Nat.log2 m
  let ex : Int := k + e
  if m = 2 ^ k then Val.ofInt ex
  else
    let y := toFix m (-(k : Int))
    stickyInt (ex * (2 : Int) ^ fixBits + (((lnFix y <<< fixBits) / ln2Fix : Nat) : Int))

/-- The natural logarithm of a positive value. -/
def lnVal (m : Nat) (e : Int) : Val :=
  let k := Nat.log2 m
  let ex : Int := k + e
  if m = 2 ^ k && ex = 0 then Val.zero false
  else stickyInt (ex * (ln2Fix : Int) + ((lnFix (toFix m (-(k : Int))) : Nat) : Int))

/-- The hyperbolic tangent of a finite x. -/
def tanhVal (neg : Bool) (m : Nat) (e : Int) : Val :=
  if m = 0 then .fin neg 0 0
  else if below m e (-30) then nudge false neg m e
  else if !below m e 5 then nudge false neg 1 0
  else
    let (f, k) := expReal (toFix m (e + 1))
    let g := f <<< k.toNat
    let one := 2 ^ fixBits
    stickyFix neg (((g - one) <<< fixBits) / (g + one)) (-(fixBits : Int))

/-- 1 / (1 + e^-x) of a finite x. -/
def sigmoidVal (neg : Bool) (m : Nat) (e : Int) : Val :=
  if m = 0 then .fin false 1 (-1)
  else if below m e (-30) then nudge (!neg) false 1 (-1)
  else if !neg && !below m e 5 then nudge false false 1 0
  else if neg && !below m e 9 then .fin false 1 (-400)
  else
    let (f, k) := expReal (signedFix (!neg) m e)
    let g := if 0 ≤ k then f <<< k.toNat else f >>> (-k).toNat
    stickyFix false (2 ^ (fixBits + 1200) / (2 ^ fixBits + g)) (-1200)

/-- Alternating series of sine (`i` = 2) and cosine (`i` = 1): `t` is the last term, added or subtracted in turn. -/
def trigTerms : Nat → Nat → Nat → Nat → Int → Bool → Int
  | 0, _, _, _, acc, _ => acc
  | n + 1, i, r2, t, acc, sub =>
    let t' := ((t * r2) >>> fixBits) / (i * (i + 1))
    trigTerms n (i + 2) r2 t' (if sub then acc - t' else acc + t') (!sub)

/-- Sine or cosine of a finite argument in radians, reduced exactly by quarter turns (R144). -/
def trigVal (cos : Bool) (neg : Bool) (m : Nat) (e : Int) : Val :=
  if m = 0 then (if cos then .fin false 1 0 else .fin neg 0 0)
  else if below m e (-30) then (if cos then nudge false false 1 0 else nudge false neg m e)
  else
    let x := toFix m e
    let q := x / halfPiFix
    let r := x - q * halfPiFix
    let r2 := (r * r) >>> fixBits
    let quad := q % 4
    let useCos := if quad % 2 = 0 then cos else !cos
    let v : Int := if useCos then trigTerms 60 1 r2 (2 ^ fixBits) ((2 : Int) ^ fixBits) true
      else trigTerms 60 2 r2 r (r : Int) true
    let flip := if cos then quad = 1 || quad = 2 else (quad ≥ 2) != neg
    stickyInt (if flip then -v else v)

/-- Terms x^(2n+1) / (2n+1)!! of the error function's series. -/
def erfTerms : Nat → Nat → Nat → Nat → Nat → Nat
  | 0, _, _, _, acc => acc
  | n + 1, i, x2, t, acc =>
    let t' := ((t * x2) >>> fixBits) / i
    erfTerms n (i + 2) x2 t' (acc + t')

/-- erf(x / sqrt 2) of a finite x (R145). -/
def erfVal (neg : Bool) (m : Nat) (e : Int) : Val :=
  if m = 0 then .fin neg 0 0
  else if !below m e 3 then nudge false neg 1 0
  else if below m e (-60) then stickyFix neg (m * sqrt2OverPiFix) (e - fixBits)
  else
    let x := toFix m e
    let x2 := (x * x) >>> fixBits
    let (f, k) := expReal (-((x2 / 2 : Nat) : Int))
    let s := erfTerms 400 3 x2 x x
    let p := (s * (f >>> (-k).toNat)) >>> fixBits
    stickyFix neg ((p * sqrt2OverPiFix) >>> fixBits) (-(fixBits : Int))

/-- The functions of Table 6.2, and GELU and SILU of R145. -/
inductive VFun where
  | rcp | sqrt | rsqrt | exp2 | exp | log2 | log | tanh | sigmoid | sin | cos
deriving DecidableEq, Repr

/-- The exact value of a function at a value, with the INV and OVF of Table 6.2. -/
def VFun.value (f : VFun) (v : Val) : Val × FlagWord :=
  match f, v with
  | _, .nan => (.nan, 0)
  | .exp2, .inf n | .exp, .inf n => (if n then Val.zero false else .inf false, 0)
  | .log2, .inf n | .log, .inf n | .sqrt, .inf n => if n then (.nan, fINV) else (.inf false, 0)
  | .rsqrt, .inf n => if n then (.nan, fINV) else (Val.zero false, 0)
  | .rcp, .inf n => (Val.zero n, 0)
  | .tanh, .inf n => (.fin n 1 0, 0)
  | .sigmoid, .inf n => (if n then Val.zero false else .fin false 1 0, 0)
  | .sin, .inf _ | .cos, .inf _ => (.nan, fINV)
  | .rcp, .fin n m e => if m = 0 then (.inf n, fOVF) else (rcpVal n m e, 0)
  | .sqrt, .fin n m e =>
    if m = 0 then (.fin n 0 0, 0) else if n then (.nan, fINV) else (sqrtVal m e, 0)
  | .rsqrt, .fin n m e =>
    if m = 0 then (.inf n, fOVF) else if n then (.nan, fINV) else (rsqrtVal m e, 0)
  | .exp2, .fin n m e => (exp2Val n m e, 0)
  | .exp, .fin n m e => (expVal n m e, 0)
  | .log2, .fin n m e =>
    if m = 0 then (.inf true, fOVF) else if n then (.nan, fINV) else (log2Val m e, 0)
  | .log, .fin n m e =>
    if m = 0 then (.inf true, fOVF) else if n then (.nan, fINV) else (lnVal m e, 0)
  | .tanh, .fin n m e => (tanhVal n m e, 0)
  | .sigmoid, .fin n m e => (sigmoidVal n m e, 0)
  | .sin, .fin n m e => (trigVal false n m e, 0)
  | .cos, .fin n m e => (trigVal true n m e, 0)

/-- A function of an FP32 word, correctly rounded, with its flags (R144, R146). -/
def vfun (f : VFun) (x : W32) : W32 × FlagWord :=
  let (v, fl) := f.value (f32 x)
  let (r, fr) := rne32 false v
  (r, fl ||| fr)

/-- SILU of R145. -/
def silu (x : W32) : W32 × FlagWord :=
  match f32 x with
  | .inf n => (if n then 0x80000000#32 else 0x7F800000#32, 0)
  | _ =>
    let (s, fs) := vfun .sigmoid x
    let (r, fr) := fp32Mul false x s
    (r, fs ||| fr)

/-- GELU of R145. -/
def gelu (x : W32) : W32 × FlagWord :=
  match f32 x with
  | .inf n => (if n then 0x80000000#32 else 0x7F800000#32, 0)
  | .nan => (0x7FC00000#32, 0)
  | .fin n m e =>
    let (h, f1) := fp32Mul false 0x3F000000#32 x
    let (g, f2) := rne32 false (erfVal n m e)
    let (t, f3) := fp32Add false 0x3F800000#32 g
    let (r, f4) := fp32Mul false h t
    (r, f1 ||| f2 ||| f3 ||| f4)

end Sys2Proof.Machine
end

