-- ==== Sys2Proof/Machine/Vector.lean ====
section
/-! DEFINITION. Vector instructions: VOP and its functions, TOPK, the sequence slots, TSCALE and TACC (R136 to R156, R203,
R204). -/
namespace Sys2Proof.Machine

/-! Bench vectors (R136). -/

/-- Bytes of a bench vector, MX scales included. -/
def vecBytes (f : Fmt) (n : Nat) : Nat := runBytes f n + scaleBytes f n
/-- Alignment of a bench vector. -/
def vecAlign (f : Fmt) : Nat := if f = .fp32p || f = .nb12 then 8 else if f.bits ≤ 8 then 1 else f.bits / 8
/-- The exact values of a bench vector. -/
def vecValues (s : State) (c : CoreId) (v : VecW) (f : Fmt) (n : Nat) : List Val :=
  let bs := benchRead s c v.base (vecBytes f n)
  runValues f n (bs.take (runBytes f n)) (bs.drop (runBytes f n))
/-- Write a run as a bench vector: its scales follow its elements. -/
def writeVec (s : State) (c : CoreId) (base : Nat) (o : RunOut) : State := benchWrite s c base (o.bytes ++ o.scales)

/-! VOP. -/

/-- The shapes of VOP's functions. A function of `fp` or `pair` takes SAT_ACC first; `pair` says which of its sources it
reads as pairs. -/
inductive VKind where
  | fp (f : Bool → W32 → W32 → W32 → W32 × FlagWord)
  | cmp (f : Val → Val → Bool)
  | int (f : Int → Int → W32 × FlagWord)
  | convert
  | pair (pa pb : Bool) (f : Bool → Pair → Pair → Pair × FlagWord)
  | sum
  | fold (f : W32 → W32 → W32)
  | argmax

/-- A source of a VOP: bench vector or scalar register (R136). -/
structure VSrc where
  scalar : Bool
  value  : Word
deriving DecidableEq, Repr

def VSrc.vec (v : VSrc) : VecW := vecWord v.value
/-- The format of a bench source; a scalar counts as FP32, or INT32 for an integer operation. -/
def VSrc.fmt (v : VSrc) (int : Bool) : Option Fmt :=
  if v.scalar then some (if int then .int32 else .fp32) else Fmt.ofCode v.vec.fmt

/-- The fields of a VOP (Table 8.7). -/
structure VopOp where
  dst   : VecW
  srcs  : List VSrc
  n     : Nat
  mode  : RMode
  f8sat : Bool
  sat   : Bool
  seed  : Word
  stream : Nat
  index : Nat
deriving DecidableEq, Repr

def vopOp (s : State) (c : Ctx) : VopOp :=
  let g := Ctx.regs s c
  let all : List VSrc := [⟨bit c.w 19, g.get (fA c.w)⟩, ⟨bit c.w 18, g.get (fB c.w)⟩, ⟨bit c.w 17, g.get (fReg c.w 31)⟩]
  let (stream, index) := streamWord (g.get (fReg c.w 3))
  { dst := vecWord (g.get (fD c.w)), srcs := all.take (vopArity (fFUNC c.w)), n := (g.get (fReg c.w 26)).toNat,
    mode := rmodeOf (field c.w 15 2), f8sat := bit c.w 14, sat := bit c.w 13, seed := g.get (fReg c.w 8),
    stream := stream, index := index }

def VKind.isInt : VKind → Bool
  | .int _ => true
  | _ => false

/-- CONVERT and the reductions take no scalar source (R203). -/
def VKind.benchOnly : VKind → Bool
  | .convert | .sum | .fold _ | .argmax => true
  | _ => false

/-- The reductions write one element (R147). -/
def VKind.reduces : VKind → Bool
  | .sum | .fold _ | .argmax => true
  | _ => false

/-- Elements the destination takes. -/
def VopOp.outN (o : VopOp) (k : VKind) : Nat := if k.reduces then 1 else o.n

/-- A result format the operation may write (R137, R141, R147, Table 3.7). -/
def vopDstOk (k : VKind) (src : Option Fmt) (dst : Fmt) (mode : RMode) : Bool :=
  let wide (from_ : Fmt) : Bool := dst = .fp32 || dst = .fp32p || convAllowed from_ dst mode
  match k with
  | .fp _ | .sum | .fold _ => wide .fp32
  | .pair _ _ _ => wide .fp32p
  | .cmp _ => dst = .uint8 || dst = .int32
  | .argmax => dst = .int32
  | .int _ => dst = .int32 || convAllowed .int32 dst mode
  | .convert => match src with | some f => convAllowed f dst mode | none => false

/-- A source format the operation may read (R137, R141). -/
def vopSrcOk (k : VKind) (v : VSrc) : Bool :=
  match v.fmt k.isInt with
  | none => false
  | some f => ! k.isInt || f.isInt

/-- The bench bytes a VOP reads, those it writes, and both. -/
def vopReads (o : VopOp) : Spans :=
  (o.srcs.filter (! ·.scalar)).filterMap fun v => (Fmt.ofCode v.vec.fmt).map fun f => (v.vec.base, vecBytes f o.n)
def vopWrites (k : VKind) (o : VopOp) : Spans :=
  match Fmt.ofCode o.dst.fmt with
  | some f => [(o.dst.base, vecBytes f (o.outN k))]
  | none => []
def vopSpans (k : VKind) (o : VopOp) : Spans := vopWrites k o ++ vopReads o

/-- A vector that breaks the limits of R136. -/
def vecBad (v : VecW) : Bool :=
  match Fmt.ofCode v.fmt with
  | some f => v.base % vecAlign f ≠ 0
  | none => false

/-- A length outside R136. -/
def lenBad (n : Nat) : Bool := n = 0 || decide (65536 < n)

/-- CONVERT to or from NB12 needs whole blocks (R518). DESIGN CHOICE (log entry 67): other VOPs take NB12 sources and destinations with
any n, and fill the last block of a destination with +0. -/
def nbBad (k : VKind) (o : VopOp) : Bool :=
  match k with
  | .convert => (o.dst.fmt = Fmt.nb12.code || o.srcs.any fun v => v.vec.fmt = Fmt.nb12.code) && o.n % 64 ≠ 0
  | _ => false

/-- The faults of a VOP, in the order of Table 8.11. -/
def vopFault (s : State) (c : Ctx) (k : VKind) (o : VopOp) : Option IFault :=
  let sp := vopSpans k o
  let dstOk := match Fmt.ofCode o.dst.fmt with
    | some f => vopDstOk k (o.srcs.head?.bind (·.fmt false)) f o.mode
    | none => false
  firstFault [(k.benchOnly && o.srcs.any (·.scalar), .fieldRange), (!o.srcs.all (vopSrcOk k) || !dstOk, .formatIllegal),
              (otherLane (c.split s) c.th.t sp, .benchLane), (pastBench sp, .benchRange),
              (lenBad o.n || vecBad o.dst || (o.srcs.filter (! ·.scalar)).any (fun v => vecBad v.vec) || nbBad k o, .vecRange)]

/-- A source widened to FP32 as it is read, or read as a pair (R137, R67), with the flags of the widening. -/
def srcPairs (s : State) (c : CoreId) (n : Nat) (v : VSrc) : List Pair × FlagWord :=
  if v.scalar then (List.replicate n ⟨rne false (f32 (v.value.setWidth 32)), 0⟩, 0)
  else
    match v.fmt false with
    | none => ([], 0)
    | some .fp32p =>
      ((unpackElems 64 n (benchRead s c v.vec.base (8 * n))).map fun x => readPair (pairOf x), 0)
    | some f =>
      let xs := (vecValues s c v.vec f n).map (rne32 false)
      (xs.map fun x => ⟨x.1, 0⟩, orAll (xs.map (·.2)))

/-- The FP32 value of an element where a single one is computed with: RNE(hi + lo) of a pair (R66). -/
def single (p : Pair) : W32 := if p.lo = 0 then p.hi else rne false (pairVal p)

/-- A source of an integer operation (R141). -/
def srcInts (s : State) (c : CoreId) (n : Nat) (v : VSrc) : List Int :=
  if v.scalar then List.replicate n (signed 32 v.value.toNat)
  else
    match v.fmt true with
    | some f => (unpackElems f.bits n (benchRead s c v.vec.base (elemBytes f n))).map fun x =>
        if f = .uint8 then ((x % 256 : Nat) : Int) else signed f.bits x
    | none => []

/-- Numbers in the order of MIN and MAX: -0 below +0 (R141). -/
def belowMm (a b : W32) : Bool := Val.lt (f32 a) (f32 b) || (zero32 a && zero32 b && a.msb && !b.msb)
/-- NaN of either operand. -/
def nan32 (x : W32) : Bool := decide (f32 x = .nan)
/-- MIN and MAX (R141). -/
def vmin (a b : W32) : W32 := if nan32 a || nan32 b then qnan32 else if belowMm b a then b else a
def vmax (a b : W32) : W32 := if nan32 a || nan32 b then qnan32 else if belowMm a b then b else a

/-- The index of the largest element: NaN wins, ties go to the lowest (R147). -/
def argmaxFrom : Nat → Nat → W32 → List W32 → Nat
  | _, best, _, [] => best
  | i, best, b, x :: xs =>
    if nan32 b then best
    else if nan32 x || belowMm b x then argmaxFrom (i + 1) i x xs
    else argmaxFrom (i + 1) best b xs
def argmax (xs : List W32) : Nat := match xs with | [] => 0 | x :: rest => argmaxFrom 1 0 x rest

/-- A tree of R103 over FP32 words without flags (VMAX, VMIN). -/
def foldTree (f : W32 → W32 → W32) (xs : List W32) : W32 :=
  ((splitTree (fun a b => (⟨f a.hi b.hi, 0⟩, 0)) (xs.map fun x => ⟨x, 0⟩)).1.getD ⟨0, 0⟩).hi

/-- VSUM (R147): the tree of FP32 additions, or of pair additions. -/
def vsum (pair sat : Bool) (xs : List Pair) : Pair × FlagWord :=
  if pair then
    match xs with
    | [x] => (normPair x, pairFlags (pairVal x) (overflows32 (pairVal x)) (normPair x))
    | _ => let (v, fl) := splitTree (pairAdd sat) xs; (v.getD ⟨0, 0⟩, fl)
  else
    let (v, fl) := splitTree (join .fp32 sat) (xs.map fun x => ⟨single x, 0⟩)
    (v.getD ⟨0, 0⟩, fl)

/-- A list of results bound for a destination (R137). -/
def vopWrite (o : VopOp) (dst : Fmt) (rs : List Pair) : RunOut :=
  match dst with
  | .fp32 => ⟨packElems 32 (rs.map (·.hi.toNat)), [], 0⟩
  | .fp32p => ⟨packElems 64 (rs.map pairBits), [], 0⟩
  | _ => convRun dst o.mode o.f8sat (randOf o.mode o.seed o.stream o.index) (rs.map pairVal)

/-- What a VOP writes, with its flags. -/
def vopResult (s : State) (c : CoreId) (k : VKind) (o : VopOp) (dst : Fmt) : RunOut :=
  let src (i : Nat) : List Pair × FlagWord := match o.srcs[i]? with | some v => srcPairs s c o.n v | none => (List.replicate o.n ⟨0, 0⟩, 0)
  let ints (i : Nat) : List Int := match o.srcs[i]? with | some v => srcInts s c o.n v | none => []
  match k with
  | .fp f =>
    let (xa, fa) := src 0
    let (xb, fb) := src 1
    let (xc, fc) := src 2
    let rs := (xa.zip (xb.zip xc)).map fun (x, y, z) => f o.sat (single x) (single y) (single z)
    let out := vopWrite o dst (rs.map fun r => ⟨r.1, 0⟩)
    { out with flags := out.flags ||| fa ||| fb ||| fc ||| orAll (rs.map (·.2)) }
  | .cmp f =>
    let rs := ((src 0).1.zip (src 1).1).map fun (x, y) => f (f32 (single x)) (f32 (single y))
    ⟨packElems dst.bits (rs.map fun r => if r then 2 ^ dst.bits - 1 else 0), [], 0⟩
  | .int f =>
    let rs := ((ints 0).zip (ints 1)).map fun (x, y) => f x y
    let fl := orAll (rs.map (·.2))
    if dst = .int32 then ⟨packElems 32 (rs.map (·.1.toNat)), [], fl⟩
    else
      let out := convertRun .int32 dst o.mode o.f8sat (randOf o.mode o.seed o.stream o.index)
        (rs.map fun r => Val.ofInt r.1.toInt)
      { out with flags := out.flags ||| fl }
  | .convert =>
    match o.srcs with
    | v :: _ =>
      match v.fmt false with
      | some f => convertRun f dst o.mode o.f8sat (randOf o.mode o.seed o.stream o.index) (vecValues s c v.vec f o.n)
      | none => ⟨[], [], 0⟩
    | [] => ⟨[], [], 0⟩
  | .pair pa pb f =>
    let (xa, fa) := src 0
    let (xb, fb) := src 1
    let rs := (xa.zip xb).map fun (x, y) =>
      f o.sat (if pa then x else ⟨single x, 0⟩) (if pb then y else ⟨single y, 0⟩)
    let out := vopWrite o dst (rs.map (·.1))
    { out with flags := out.flags ||| fa ||| fb ||| orAll (rs.map (·.2)) }
  | .sum =>
    let (xs, fa) := src 0
    let (r, fl) := vsum (dst = .fp32p) o.sat xs
    let out := vopWrite o dst [r]
    { out with flags := out.flags ||| fa ||| fl }
  | .fold f =>
    let (xs, fa) := src 0
    let out := vopWrite o dst [⟨foldTree f (xs.map single), 0⟩]
    { out with flags := out.flags ||| fa }
  | .argmax =>
    let (xs, fa) := src 0
    ⟨packElems 32 [argmax (xs.map single)], [], fa⟩

/-- A VOP of a kind. -/
def runVop (k : VKind) (s : State) (c : Ctx) : Exec :=
  let o := vopOp s c
  guardBench s c (vopReads o) (vopWrites k o) <|
  match vopFault s c k o, Fmt.ofCode o.dst.fmt with
  | some f, _ => .fault f
  | none, none => .fault .formatIllegal
  | none, some dst =>
    let out := vopResult s c.th.core k o dst
    .done (orFlags (writeVec (takeEntry s c [.vector] .vec) c.th.core o.dst.base out) c.th out.flags)

/-- A function of one FP32 source. -/
def unary (f : W32 → W32 × FlagWord) : VKind := .fp fun _ a _ _ => f a
/-- A function of Table 6.2. -/
def vopFun (f : VFun) : VKind := unary (vfun f)

/-- ABS and NEG act on the sign of a number; a NaN is written canonical (R59). -/
def vabs (a : W32) : W32 := if nan32 a then qnan32 else a &&& 0x7FFFFFFF#32
def vneg (a : W32) : W32 := if nan32 a then qnan32 else a ^^^ 0x80000000#32

/-- SELECT: a mask equal to zero takes the second source (R141). -/
def vselect (a b m : W32) : W32 := if zero32 m then b else a

/-- TWOSUM (R143): e is +0 when s is not finite or zero. Without an overflow the pair is exact; a rounding inside that overflows
raises OVF with INX (R95), and an e it leaves not finite is written as +0 (log entry 64). -/
def vtwosum (sat : Bool) (a b : W32) : Pair × FlagWord :=
  let (h, fl) := fp32Add sat a b
  if fl &&& fOVF ≠ 0 || !fin32 h then (⟨h, 0⟩, fl)
  else
    let (x, e, o) := twoSum sat a b
    (⟨x, if zero32 x || !fin32 e then 0 else e⟩, if o then fOVF ||| fINX else 0)

/-- TWOPROD (R143), with the flags of the pair against the exact product; where e underflows the pair is as the rule computes it
(log entry 63). -/
def vtwoprod (sat : Bool) (a b : W32) : Pair × FlagWord :=
  let (h, fl) := fp32Mul sat a b
  if fl &&& fOVF ≠ 0 || !fin32 h then (⟨h, 0⟩, fl)
  else
    let (x, e) := twoProd sat a b
    let r : Pair := ⟨x, if zero32 x then 0 else e⟩
    (r, pairFlags (Val.mul (f32 a) (f32 b)).1 false r)

def execVopAdd (th : ThRef) (s : State) : Res := .next (issue (vopRow 0x00 (runVop (.fp fun sat a b _ => fp32Add sat a b))) th s)
def execVopSub (th : ThRef) (s : State) : Res := .next (issue (vopRow 0x01 (runVop (.fp fun sat a b _ => fp32Sub sat a b))) th s)
def execVopMul (th : ThRef) (s : State) : Res := .next (issue (vopRow 0x02 (runVop (.fp fun sat a b _ => fp32Mul sat a b))) th s)
def execVopFma (th : ThRef) (s : State) : Res := .next (issue (vopRow 0x03 (runVop (.fp fp32Fma))) th s)
def execVopMin (th : ThRef) (s : State) : Res := .next (issue (vopRow 0x04 (runVop (.fp fun _ a b _ => (vmin a b, 0)))) th s)
def execVopMax (th : ThRef) (s : State) : Res := .next (issue (vopRow 0x05 (runVop (.fp fun _ a b _ => (vmax a b, 0)))) th s)
def execVopAbs (th : ThRef) (s : State) : Res := .next (issue (vopRow 0x06 (runVop (unary fun a => (vabs a, 0)))) th s)
def execVopNeg (th : ThRef) (s : State) : Res := .next (issue (vopRow 0x07 (runVop (unary fun a => (vneg a, 0)))) th s)
def execVopCmpeq (th : ThRef) (s : State) : Res := .next (issue (vopRow 0x08 (runVop (.cmp Val.eqv))) th s)
def execVopCmpne (th : ThRef) (s : State) : Res := .next (issue (vopRow 0x09 (runVop (.cmp fun a b => !Val.eqv a b))) th s)
def execVopCmplt (th : ThRef) (s : State) : Res := .next (issue (vopRow 0x0A (runVop (.cmp Val.lt))) th s)
def execVopCmple (th : ThRef) (s : State) : Res :=
  .next (issue (vopRow 0x0B (runVop (.cmp fun a b => Val.lt a b || Val.eqv a b))) th s)
def execVopSelect (th : ThRef) (s : State) : Res :=
  .next (issue (vopRow 0x0C (runVop (.fp fun _ a b m => (vselect a b m, 0)))) th s)
def execVopIadd (th : ThRef) (s : State) : Res := .next (issue (vopRow 0x0D (runVop (.int fun a b => satInt32 (a + b)))) th s)
def execVopIsub (th : ThRef) (s : State) : Res := .next (issue (vopRow 0x0E (runVop (.int fun a b => satInt32 (a - b)))) th s)
def execVopImin (th : ThRef) (s : State) : Res := .next (issue (vopRow 0x0F (runVop (.int fun a b => satInt32 (min a b)))) th s)
def execVopImax (th : ThRef) (s : State) : Res := .next (issue (vopRow 0x10 (runVop (.int fun a b => satInt32 (max a b)))) th s)
def execVopConvert (th : ThRef) (s : State) : Res := .next (issue (vopRow 0x11 (runVop .convert)) th s)
def execVopTwosum (th : ThRef) (s : State) : Res :=
  .next (issue (vopRow 0x12 (runVop (.pair false false fun sat a b => vtwosum sat a.hi b.hi))) th s)
def execVopTwoprod (th : ThRef) (s : State) : Res :=
  .next (issue (vopRow 0x13 (runVop (.pair false false fun sat a b => vtwoprod sat a.hi b.hi))) th s)
def execVopPadd (th : ThRef) (s : State) : Res := .next (issue (vopRow 0x14 (runVop (.pair true true pairAdd))) th s)
def execVopPaddf (th : ThRef) (s : State) : Res := .next (issue (vopRow 0x15 (runVop (.pair true false pairAdd))) th s)
def execVopPscale (th : ThRef) (s : State) : Res :=
  .next (issue (vopRow 0x16 (runVop (.pair true false fun sat p f => pscale sat p f.hi))) th s)
def execVopRcp (th : ThRef) (s : State) : Res := .next (issue (vopRow 0x17 (runVop (vopFun .rcp))) th s)
def execVopSqrt (th : ThRef) (s : State) : Res := .next (issue (vopRow 0x18 (runVop (vopFun .sqrt))) th s)
def execVopRsqrt (th : ThRef) (s : State) : Res := .next (issue (vopRow 0x19 (runVop (vopFun .rsqrt))) th s)
def execVopExp2 (th : ThRef) (s : State) : Res := .next (issue (vopRow 0x1A (runVop (vopFun .exp2))) th s)
def execVopExp (th : ThRef) (s : State) : Res := .next (issue (vopRow 0x1B (runVop (vopFun .exp))) th s)
def execVopLog2 (th : ThRef) (s : State) : Res := .next (issue (vopRow 0x1C (runVop (vopFun .log2))) th s)
def execVopLog (th : ThRef) (s : State) : Res := .next (issue (vopRow 0x1D (runVop (vopFun .log))) th s)
def execVopTanh (th : ThRef) (s : State) : Res := .next (issue (vopRow 0x1E (runVop (vopFun .tanh))) th s)
def execVopSigmoid (th : ThRef) (s : State) : Res := .next (issue (vopRow 0x1F (runVop (vopFun .sigmoid))) th s)
def execVopGelu (th : ThRef) (s : State) : Res := .next (issue (vopRow 0x20 (runVop (unary gelu))) th s)
def execVopSilu (th : ThRef) (s : State) : Res := .next (issue (vopRow 0x21 (runVop (unary silu))) th s)
def execVopSin (th : ThRef) (s : State) : Res := .next (issue (vopRow 0x22 (runVop (vopFun .sin))) th s)
def execVopCos (th : ThRef) (s : State) : Res := .next (issue (vopRow 0x23 (runVop (vopFun .cos))) th s)
def execVopVsum (th : ThRef) (s : State) : Res := .next (issue (vopRow 0x24 (runVop .sum)) th s)
def execVopVmax (th : ThRef) (s : State) : Res := .next (issue (vopRow 0x25 (runVop (.fold vmax))) th s)
def execVopVmin (th : ThRef) (s : State) : Res := .next (issue (vopRow 0x26 (runVop (.fold vmin))) th s)
def execVopVargmax (th : ThRef) (s : State) : Res := .next (issue (vopRow 0x27 (runVop .argmax)) th s)

/-! TOPK (R148, R149). -/

/-- Does an element of key `a` rank above one of key `b` (R148)? A NaN outranks every number. -/
def ranksAbove (value : Bool) (a b : W32) : Bool :=
  let key (x : W32) : Val := if value then f32 x else (f32 x).abs
  if nan32 b then false else nan32 a || Val.lt (key b) (key a)

/-- Put an element into a list in rank order, behind its equals. -/
def rankInsert (value : Bool) (x : W32 × Nat) : List (W32 × Nat) → List (W32 × Nat)
  | [] => [x]
  | y :: ys => if ranksAbove value x.1 y.1 then x :: y :: ys else y :: rankInsert value x ys

/-- The k highest-ranked of a list, with their indices, in rank order. -/
def topk (value : Bool) (k : Nat) (xs : List W32) : List (W32 × Nat) :=
  xs.zipIdx.foldl (fun acc x => (rankInsert value x acc).take k) []

/-- In increasing index. -/
def byIndex (l : List (W32 × Nat)) : List (W32 × Nat) := l.mergeSort fun a b => a.2 ≤ b.2

/-- The bench bytes TOPK reads and those it writes. -/
def topkReads (src : VecW) (n : Nat) : Spans := [(src.base, match Fmt.ofCode src.fmt with | some f => vecBytes f n | none => 0)]
def topkWrites (vals idx : VecW) (k : Nat) : Spans := [(vals.base, 4 * k), (idx.base, 2 * k)]

def topkFault (s : State) (c : Ctx) (vals src idx : VecW) (n k : Nat) : Option IFault :=
  let fmt := Fmt.ofCode src.fmt
  let srcBad := match fmt with | some f => !widens f | none => true
  let sp := topkReads src n ++ topkWrites vals idx k
  firstFault [(srcBad || decide (vals.fmt ≠ Fmt.fp32.code), .formatIllegal), (otherLane (c.split s) c.th.t sp, .benchLane),
              (pastBench sp, .benchRange),
              (lenBad n || vecBad src || decide (vals.base % 4 ≠ 0) || decide (idx.base % 2 ≠ 0), .vecRange),
              (decide (4096 < n) || decide (min n 256 < k), .topkRange)]

/-- TOPK's results (R148). DESIGN CHOICE (log entry 68): where the two outputs of one instruction overlap (here, and in SLOTFINAL and
SMAX) the second is written over the first, in the order of the rule. -/
def runTopk (s : State) (c : Ctx) : Exec :=
  let g := Ctx.regs s c
  let vals := vecWord (g.get (fD c.w))
  let src := vecWord (g.get (fA c.w))
  let idx := vecWord (g.get (fB c.w))
  let n := (g.get (fReg c.w 31)).toNat
  let k := field c.w 23 8 + 1
  guardBench s c (topkReads src n) (topkWrites vals idx k) <|
  match topkFault s c vals src idx n k with
  | some f => .fault f
  | none =>
    let (xs, fl) := srcPairs s c.th.core n ⟨false, g.get (fA c.w)⟩
    let ranked := topk (bit c.w 22) k (xs.map (·.hi))
    let out := if bit c.w 21 then byIndex ranked else ranked
    let s := takeEntry s c [.vector] .vec
    let s := benchWrite s c.th.core vals.base (packElems 32 (out.map (·.1.toNat)))
    let s := benchWrite s c.th.core idx.base (packElems 16 (out.map (·.2)))
    .done (orFlags s c.th fl)

def execTopk (th : ThRef) (s : State) : Res := .next (issue (opRow 0x51 (fun _ => [.vector]) runTopk) th s)

/-! Sequence slots (R150 to R154). -/

/-- A slot of a core. -/
def slotOf (s : State) (c : CoreId) (i : Fin 32) : Slot := (s.core c).slots[i]

/-- Write a slot; its state before the pass's first write is kept (R154). -/
def putSlot (s : State) (r : ThRef) (i : Fin 32) (v : Slot) : State :=
  let old := slotOf s r.core i
  let s := s.modTh r fun t =>
    { t with slotSn := if t.slotSn.any (·.slot = i) then t.slotSn else t.slotSn ++ [⟨i, old⟩] }
  s.modCore r.core fun k => { k with slots := vset k.slots i v }

def execSlotinit (th : ThRef) (s : State) : Res :=
  .next (issue (opRow 0x54 (fun _ => [.vector]) fun s c =>
    let i := fReg c.w 41
    if otherSlot (c.split s) c.th.t i.1 then .fault .tileOwnership
    else .done (putSlot (takeEntry s c [.vector] .vec) c.th i (Vector.replicate 32 slotRow0))) th s)

/-- What SLOT_FINAL gives one row: the reciprocal and the log-sum-exp, with flags (R153). -/
def slotFinalRow (r : SlotRow) : W32 × W32 × FlagWord :=
  let v := pairVal (readPair r.l)
  if v.isZero then (0, 0xFF800000#32, 0)
  else
    let (rv, f1) := VFun.rcp.value v
    let (rc, f2) := rne32 false rv
    let (lv, f3) := VFun.log2.value v
    let (lg, f4) := rne32 false lv
    let (ls, f5) := fp32Add false r.m lg
    (rc, ls, f1 ||| f2 ||| f3 ||| f4 ||| f5)

/-- The bench bytes SLOTFINAL writes. -/
def slotFinalWrites (rec lse : VecW) : Spans := [(rec.base, 128), (lse.base, 128)]

def slotFinalFault (s : State) (c : Ctx) (slot : Fin 32) (rec lse : VecW) : Option IFault :=
  let sp := slotFinalWrites rec lse
  firstFault [(decide (rec.fmt ≠ Fmt.fp32.code ∨ lse.fmt ≠ Fmt.fp32.code), .formatIllegal),
              (otherSlot (c.split s) c.th.t slot.1, .tileOwnership), (otherLane (c.split s) c.th.t sp, .benchLane),
              (pastBench sp, .benchRange), (decide (rec.base % 4 ≠ 0) || decide (lse.base % 4 ≠ 0), .vecRange)]

def runSlotfinal (s : State) (c : Ctx) : Exec :=
  let g := Ctx.regs s c
  let slot := fReg c.w 41
  let rec_ := vecWord (g.get (fD c.w))
  let lse := vecWord (g.get (fB c.w))
  guardBench s c [] (slotFinalWrites rec_ lse) <|
  match slotFinalFault s c slot rec_ lse with
  | some f => .fault f
  | none =>
    let old := slotOf s c.th.core slot
    let rows := old.toList.map slotFinalRow
    let s := takeEntry s c [.vector] .vec
    let s := benchWrite s c.th.core rec_.base (packElems 32 (rows.map (·.1.toNat)))
    let s := benchWrite s c.th.core lse.base (packElems 32 (rows.map (·.2.1.toNat)))
    let s := putSlot s c.th slot (old.map fun r => { r with a := (slotFinalRow r).1 })
    .done (orFlags s c.th (orAll (rows.map (·.2.2))))

def execSlotfinal (th : ThRef) (s : State) : Res := .next (issue (opRow 0x55 (fun _ => [.vector]) runSlotfinal) th s)

/-- One row of SOFTMAX_STEP (R151): the scores of its w columns, which columns are present. Answers the row of the slot after
the step, the probabilities and the flags. -/
def softmaxRow (sigma : W32) (old : SlotRow) (scores : List (W32 × Bool)) : SlotRow × List W32 × FlagWord :=
  let none_ : SlotRow × List W32 × FlagWord := ({ old with a := 0x3F800000#32 }, scores.map fun _ => 0, 0)
  if scores.all fun x => !x.2 then none_
  else
    let xs := scores.map fun (v, p) => (fp32Mul false sigma v, p)
    let f1 := orAll ((xs.filter (·.2)).map fun x => x.1.2)
    let mx := foldTree vmax ((xs.filter (·.2)).map fun x => x.1.1)
    let mn := vmax old.m mx
    if mn = 0xFF800000#32 then
      let (r, p, _) := none_
      (r, p, f1)
    else
      let term (x : W32) : W32 × FlagWord :=
        let (d, fd) := fp32Sub false x mn
        let (e, fe) := vfun .exp2 d
        (e, fd ||| fe)
      let ps := xs.map fun (x, p) => if p then term x.1 else (0, 0)
      let (r, f2) := vsum false false (ps.map fun p => ⟨p.1, 0⟩)
      let (f, f3) := term old.m
      let (l1, f4) := pscale false old.l f
      let (l2, f5) := pairAdd false l1 ⟨r.hi, 0⟩
      (⟨mn, l2, f⟩, ps.map (·.1), f1 ||| orAll (ps.map (·.2)) ||| f2 ||| f3 ||| f4 ||| f5)

/-- The fields of SMAX (Table 8.8). -/
structure SmaxOp where
  dst   : Strided
  fac   : VecW
  sigma : W32
  d     : Int
  slot  : Fin 32
  arr   : Nat
  na    : Nat
  tile  : Nat
  w     : Nat
  causal : Bool
  fmt   : Option Fmt
  mode  : RMode
  f8sat : Bool
deriving DecidableEq, Repr

def smaxOp (s : State) (c : Ctx) : SmaxOp :=
  let g := Ctx.regs s c
  { dst := stridedWord (g.get (fD c.w)), fac := vecWord (g.get (fA c.w)), sigma := (g.get (fB c.w)).setWidth 32,
    d := (g.get (fReg c.w 31)).toInt, slot := fReg c.w 26, arr := field c.w 24 2, na := 2 ^ field c.w 22 2,
    tile := field c.w 19 3, w := field c.w 12 7 + 1, causal := bit c.w 11, fmt := Fmt.ofCode (field c.w 7 4),
    mode := if bit c.w 6 then .rtz else .rne, f8sat := bit c.w 5 }

def SmaxOp.arrays (o : SmaxOp) : List Nat := (List.range o.na).map (o.arr + ·)

/-- The bench bytes of SMAX. -/
def smaxSpans (o : SmaxOp) : Spans :=
  let row := match o.fmt with | some f => elemBytes f o.w | none => 0
  (o.fac.base, 128) :: (List.range 32).map fun i => (o.dst.base + i * o.dst.stride, row)

/-- The faults of SMAX (R151, R204). DESIGN CHOICE (log entry 69): R136 gives alignment for bench vectors, so the strided probabilities
raise nothing when their base or stride is no multiple of the element size. -/
def smaxFault (s : State) (c : Ctx) (o : SmaxOp) : Option IFault :=
  let sp := smaxSpans o
  let spread := (o.na = 2 && o.arr % 2 = 1) || (o.na = 4 && decide (o.arr ≠ 0))
  let fmtBad := match o.fmt with
    | none => true
    | some f => f.isMx || f = .nb12 || !(f = .fp32 || f = .fp32p || convAllowed .fp32 f o.mode)
  firstFault [(spread || decide (32 * o.na < o.w), .fieldRange), (fmtBad || decide (o.fac.fmt ≠ Fmt.fp32.code), .formatIllegal),
              (o.arrays.any (otherArray (c.split s) c.th.t) || otherSlot (c.split s) c.th.t o.slot.1, .tileOwnership),
              (otherLane (c.split s) c.th.t sp, .benchLane), (pastBench sp, .benchRange),
              (decide (o.fac.base % 4 ≠ 0), .vecRange)]

/-- The step on every row: the slot after it, the rows of probabilities, the flags. -/
def smaxRows (k : Core) (o : SmaxOp) : List (SlotRow × List W32 × FlagWord) :=
  (List.range 32).map fun i =>
    softmaxRow o.sigma (k.slots[o.slot])[Fin.ofNat 32 i] ((List.range o.w).map fun j =>
      (tileGet k (tileIx (o.arr + j / 32) o.tile) i (j % 32), !o.causal || decide ((j : Int) ≤ (i : Int) + o.d)))

def runSmax (s : State) (c : Ctx) : Exec :=
  let o := smaxOp s c
  guardBench s c [] (smaxSpans o) <|
  match smaxFault s c o, o.fmt with
  | some f, _ => .fault f
  | none, none => .fault .formatIllegal
  | none, some fmt =>
    let rows := smaxRows (s.core c.th.core) o
    let s := takeEntry s c [.vector] .vec
    let s := rows.zipIdx.foldl (fun s ((_, ps, fl), i) =>
      let out := convRun fmt o.mode o.f8sat (fun _ => 0) (ps.map f32)
      orFlags (benchWrite s c.th.core (o.dst.base + i * o.dst.stride) out.bytes) c.th (fl ||| out.flags)) s
    let s := benchWrite s c.th.core o.fac.base (packElems 32 (rows.map fun r => r.1.a.toNat))
    .done (putSlot s c.th o.slot (Vector.ofFn fun i => (rows.getD i.1 (slotRow0, [], 0)).1))

def execSmax (th : ThRef) (s : State) : Res := .next (issue (opRow 0x52 (fun _ => [.vector]) runSmax) th s)

/-! TSCALE and TACC (R152, R156). -/

/-- The tiles of an add-mode write by the vector engine. -/
def vecTileFaults (s : State) (c : Ctx) (arr tile : Nat) (pair : Bool) : List (Bool × IFault) × List (Bool × IFault) ×
    List (Bool × IFault) :=
  ([(otherArray (c.split s) c.th.t arr, .tileOwnership)],
   [(pair && tile % 2 = 1, .tileRange)],
   [((withPartners pair [tileIx arr tile]).any fun x => !tileWritten s c.th x, .passTileOrder)])

/-- The bench bytes TSCALE reads. -/
def tscaleReads (c : Ctx) (fac : VecW) : Spans := if bit c.w 35 then [] else [(fac.base, 128)]

def tscaleFault (s : State) (c : Ctx) (fac : VecW) : Option IFault :=
  let slot := bit c.w 35
  let pair := bit c.w 34
  let sp := tscaleReads c fac
  let (own, tiles, order) := vecTileFaults s c (field c.w 39 2) (field c.w 36 3) pair
  firstFault ([(!slot && decide (fac.fmt ≠ Fmt.fp32.code), .formatIllegal)] ++ own ++
    [(slot && otherSlot (c.split s) c.th.t (field c.w 41 5), .tileOwnership), (otherLane (c.split s) c.th.t sp, .benchLane)] ++
    tiles ++ [(pastBench sp, .benchRange), (!slot && decide (fac.base % 4 ≠ 0), .vecRange)] ++ order)

def runTscale (s : State) (c : Ctx) : Exec :=
  let g := Ctx.regs s c
  let fac := vecWord (g.get (fD c.w))
  guardBench s c (tscaleReads c fac) [] <|
  match tscaleFault s c fac with
  | some f => .fault f
  | none =>
    let pair := bit c.w 34
    let acc : Acc := if pair then .fp32p else .fp32
    let tile := tileIx (field c.w 39 2) (field c.w 36 3)
    let facs : List W32 :=
      if bit c.w 35 then (slotOf s c.th.core (fReg c.w 41)).toList.map (·.a)
      else (unpackElems 32 32 (benchRead s c.th.core fac.base 128)).map (BitVec.ofNat 32)
    let k := s.core c.th.core
    let cells := (List.range 32).map fun i => (List.range 32).map fun j =>
      let v := accGet k acc tile i j
      if pair then pscale false v (facs.getD i 0)
      else let (x, fl) := fp32Mul false v.hi (facs.getD i 0); ((⟨x, 0⟩ : Pair), fl)
    let fl := orAll (cells.flatMap fun row => row.map (·.2))
    let old := statusOf s c.th.core tile
    let s := takeEntry s c [.vector] .vec
    let s := (withPartners pair [tile]).foldl (fun s t => touchTile s c.th t (BitVec.allOnes 32) (BitVec.allOnes 32)) s
    let s := s.modCore c.th.core fun k => putAcc k acc tile fun x y => ((cells.getD x.1 []).getD y.1 (⟨0, 0⟩, 0)).1
    .done (putStatus s c.th.core tile pair { old with flags := old.flags ||| fl })

def execTscale (th : ThRef) (s : State) : Res := .next (issue (opRow 0x53 (fun _ => [.vector]) runTscale) th s)

/-- The bench bytes TACC reads. -/
def taccReads (c : Ctx) (v : VecW) : Spans := [(v.base, if bit c.w 35 then 8192 else 4096)]

def taccFault (s : State) (c : Ctx) (v : VecW) : Option IFault :=
  let pair := bit c.w 35
  let fmt : Fmt := if pair then .fp32p else .fp32
  let sp := taccReads c v
  let (own, tiles, order) := vecTileFaults s c (field c.w 39 2) (field c.w 36 3) pair
  firstFault ([(decide (v.fmt ≠ fmt.code), .formatIllegal)] ++ own ++ [(otherLane (c.split s) c.th.t sp, .benchLane)] ++ tiles ++
    [(pastBench sp, .benchRange), (decide (v.base % vecAlign fmt ≠ 0), .vecRange)] ++ order)

def runTacc (s : State) (c : Ctx) : Exec :=
  let g := Ctx.regs s c
  let v := vecWord (g.get (fD c.w))
  guardBench s c (taccReads c v) [] <|
  match taccFault s c v with
  | some f => .fault f
  | none =>
    let pair := bit c.w 35
    let acc : Acc := if pair then .fp32p else .fp32
    let tile := tileIx (field c.w 39 2) (field c.w 36 3)
    let bits := if pair then 64 else 32
    let xs : List Pair := (unpackElems bits 1024 (benchRead s c.th.core v.base (1024 * (bits / 8)))).map pairOf
    let bench (i j : Nat) : AccVal := xs.getD (32 * i + j) ⟨0, 0⟩
    let nb := (g.get (fA c.w)).toNat
    let part : TileStatus := ⟨field nb 0 16, bit nb 16, 0⟩
    let old := statusOf s c.th.core tile
    let k := s.core c.th.core
    let s := takeEntry s c [.vector] .vec
    let (s, fl) := if bit c.w 34 then joinTile s c.th acc tile (accGet k acc tile) bench
      else joinTile s c.th acc tile bench (accGet k acc tile)
    .done (putStatus s c.th.core tile pair (old.merge part fl))

def execTacc (th : ThRef) (s : State) : Res := .next (issue (opRow 0x56 (fun _ => [.vector]) runTacc) th s)

end Sys2Proof.Machine
end

