-- ==== Sys2Proof/Machine/RedTree.lean ====
section
/-! DEFINITION. The combining order of gradient reduction (R319 to R322), the joins of partials (R327, R330, R338), thinned chunks
(R337, R339), the mean (R323) and the bytes of a partial (R342, R344, Table 12.6, Table 12.9). -/
namespace Sys2Proof.Machine

/-! The tree (R319, R320). -/

/-- Is this chip below a partial? -/
def PKey.covers (k : PKey) (c : Nat) : Bool :=
  match k with
  | .v d => c = d
  | .p n i => c / 8 = n && c % 8 / 2 = i
  | .q n j => c / 8 = n && c % 8 / 4 = j
  | .o n => c / 8 = n
  | .a y z => chipY c = y && chipZ c = z
  | .b z => chipZ c = z
  | .total => true

/-- The inputs of a partial that hold a member, in the order of R319. -/
def PKey.inputs (ms : List Nat) (k : PKey) : List PKey :=
  let all : List PKey := match k with
    | .v _ => []
    | .p n i => [.v (8 * n + 2 * i), .v (8 * n + 2 * i + 1)]
    | .q n j => [.p n (2 * j), .p n (2 * j + 1)]
    | .o n => [.q n 0, .q n 1]
    | .a y z => (List.range 16).map fun x => .o (256 * x + 16 * y + z)
    | .b z => (List.range 16).map fun y => .a y z
    | .total => (List.range 16).map fun z => .b z
  all.filter fun k => ms.any k.covers

/-- The partial that a partial enters. -/
def PKey.parent (k : PKey) : Option PKey :=
  match k with
  | .v c => some (.p (c / 8) (c % 8 / 2))
  | .p n i => some (.q n (i / 2))
  | .q n _ => some (.o n)
  | .o n => some (.a (n / 16 % 16) (n % 16))
  | .a _ z => some (.b z)
  | .b _ => some .total
  | .total => none

/-- The element of a list with the least key, the earlier of equals. -/
def leastBy (f : Nat → Nat) : List Nat → Nat
  | [] => 0
  | [x] => x
  | x :: xs => let y := leastBy f xs; if f x ≤ f y then x else y

/-- The chip that forms a partial (Table 12.5). A chain is formed at its last input's point. -/
def PKey.point (ms : List Nat) (root : Nat) (k : PKey) : Nat :=
  let below := ms.filter k.covers
  match k with
  | .v c => c
  | .p _ _ => leastBy (fun c => (c % 8) ^^^ root) below
  | .q _ _ => leastBy (fun c => (c % 8) ^^^ root) below
  | _ => 8 * (leastBy (fun c => 4096 - (chipZ c * 256 + chipY c * 16 + chipX c)) below / 8) + root

/-- Levels of the joins of a chain after its first input (R334). -/
def joinLevels (acc : Nat) : List Nat → List Nat
  | [] => []
  | l :: ls => let m := 1 + max acc l; m :: joinLevels m ls

/-- The level of a chain's output from its inputs' levels: each join is one deeper than its deeper input (R334). -/
def chainLevel : List Nat → Nat
  | [] => 0
  | l :: ls => (joinLevels l ls).getLastD l

/-- The static level of a partial (R334). The fuel is the tree's depth. -/
def PKey.level : Nat → List Nat → PKey → Nat
  | 0, _, _ => 0
  | n + 1, ms, k => chainLevel ((k.inputs ms).map (PKey.level n ms))

/-- Depth of the tree. -/
def treeDepth : Nat := 7

/-- The inputs of a partial, each with the level of the join that takes it (R334). -/
def PKey.limits (ms : List Nat) (k : PKey) : List (PKey × Nat) :=
  let ins := k.inputs ms
  match ins.map (PKey.level treeDepth ms) with
  | [] => []
  | l :: ls =>
    let js := joinLevels l ls
    ins.zip (js.headD l :: js)

/-- The partials a chip forms, from its chip value up, from a given one on. -/
def lineageFrom (ms : List Nat) (root c : Nat) : Nat → PKey → List PKey
  | 0, _ => []
  | n + 1, k =>
    if k.point ms root = c then k :: (match k.parent with | some p => lineageFrom ms root c n p | none => []) else []

/-- The partials a chip forms. -/
def lineage (ms : List Nat) (root c : Nat) : List PKey := lineageFrom ms root c treeDepth (.v c)

/-- The last partial a chip forms: the one it sends. -/
def topKey (ms : List Nat) (root c : Nat) : PKey := (lineage ms root c).getLastD (.v c)

/-- The chips to which a chip passes a total on, step by step: as the total's point, as a b-point, as an a-point, as an o-point, each in
increasing order (R322). One that took its own output as the total at a pair or quad point answers the members below it (R340). -/
def totalSteps (ms : List Nat) (root c : Nat) (own : Bool) : List (List Nat) :=
  let top := topKey ms root c
  (lineage ms root c).reverse.map fun k =>
    let dests := match k with
      | .v _ => []
      | .p _ _ => if own && decide (k = top) then ms.filter k.covers else []
      | .q _ _ => if own && decide (k = top) then ms.filter k.covers else []
      | .o _ => ms.filter k.covers
      | _ => (k.inputs ms).map (PKey.point ms root)
    (ms.filter dests.contains).filter (· ≠ c)

/-- The dimension of the torus line that a chip and some others make up. -/
def lineOf (s : State) (ds : List Nat) : Option Nat :=
  (List.range 3).find? fun dim =>
    decide (2 ≤ torusSize s dim ∧ ds.length + 1 = torusSize s dim) && ds.all fun d => decide (withDim d dim 0 = withDim s.chipId dim 0)

/-- Where a total goes from here: along a line where the receivers of a step and this chip are exactly the chips of one, else to each
receiver (R322). DEDUCED (log entry 38): the sender counts as a chip of the line. -/
def totalDests (s : State) (ms : List Nat) (root : Nat) (own : Bool) : List (Nat × Option Nat) :=
  (totalSteps ms root s.chipId own).flatMap fun ds =>
    match lineOf s ds with
    | some dim => [(s.chipId, some dim)]
    | none => ds.map fun d => (d, none)

/-! Joins (R319). -/

/-- Joins of blocks one by one, and whether any bumped (R327). -/
def nbAddAll (a b : List Nb) : List Nb × Bool :=
  let r := (a.zip b).map fun (x, y) => ((nbAdd x y).1, max x.scale y.scale)
  (r.map (·.1), r.any fun (z, s) => decide (s < z.scale))

/-- A block of 64 entries drawn from blocks: entry j is an entry of a block, or 0. The block takes the largest scale of the blocks
it draws from (DESIGN CHOICE log entry 26). -/
def realignBlock (bs : List Nb) (entries : List (Option Nat)) : Nb :=
  let used := entries.filterMap id
  let from_ (e : Nat) : Nb := bs.getD (e / 64) ⟨-128, 0, false, false, 0, 0, []⟩
  let s : Int := used.foldl (fun m e => max m (from_ e).scale) (-128)
  let ms := entries.map fun e =>
    match e with
    | none => some 0
    | some e => ((nbShift (s - (from_ e).scale).toNat [(from_ e).m.getD (e % 64) (some 0)]).headD (some 0))
  { scale := s, bumps := used.foldl (fun m e => max m (from_ e).bumps) 0, nan := ms.any Option.isNone,
    pred := used.any fun e => (from_ e).pred, rsv := 0, check := nbCheck ms, m := ms }

/-- Lists of 64, the last one filled up. -/
def blocksOf {α : Type} (pad : α) : Nat → List α → List (List α)
  | 0, _ => []
  | n + 1, l => (l.take 64 ++ List.replicate (64 - (l.take 64).length) pad) :: blocksOf pad n (l.drop 64)

/-- A chunk's blocks aligned to a list of indices (R338). -/
def realign (c : Chunk) (idx : List Nat) : List Nb :=
  let at_ (e : Nat) : Option Nat := match c.idx with
    | none => some e
    | some l => l.idxOf? e
  (blocksOf none (ceilDiv idx.length 64) (idx.map at_)).map (realignBlock c.blocks)

/-- The union of two increasing lists. -/
def unionIdx : Nat → List Nat → List Nat → List Nat
  | 0, _, _ => []
  | _, [], l => l
  | _, l, [] => l
  | n + 1, x :: xs, y :: ys =>
    if x < y then x :: unionIdx n xs (y :: ys)
    else if y < x then y :: unionIdx n (x :: xs) ys
    else x :: unionIdx n xs ys

/-- Indices of a dense chunk. -/
def denseIdx : List Nat := List.range 1024

/-- Combine two chunks (R338): whether it bumped, whether it turned dense. -/
def chunkAdd (a b : Chunk) : Chunk × Bool × Bool :=
  let u : Option (List Nat) := match a.idx, b.idx with
    | some x, some y =>
      let u := unionIdx (x.length + y.length) x y
      if 512 < u.length then none else some u
    | _, _ => none
  let (bs, bump) := match u with
    | some l => nbAddAll (realign a l) (realign b l)
    | none => nbAddAll (if a.idx.isNone then a.blocks else realign a denseIdx) (if b.idx.isNone then b.blocks else realign b denseIdx)
  (⟨a.no, u, bs⟩, bump, u.isNone)

/-- combine of R319: the left operand first. Counts add; flags join. -/
def combine (fmt : Fmt) (a b : Partial) : Partial × FlagWord :=
  let (d, bump, dense, fl) : PData × Bool × Bool × FlagWord :=
    match a.data, b.data with
    | .none, d => (d, false, false, 0)
    | d, .none => (d, false, false, 0)
    | .exps x, .exps y => (.exps ((x.zip y).map fun (i, j) => max i j), false, false, 0)
    | .fp x, .fp y =>
      let r := (x.zip y).map fun (i, j) => join (if fmt = Fmt.fp32p then Acc.fp32p else Acc.fp32) false i j
      (.fp (r.map (·.1)), false, false, (r.map (·.2)).foldl (· ||| ·) 0)
    | .nb x, .nb y => let (r, bump) := nbAddAll x y; (.nb r, bump, false, 0)
    | .thin x, .thin y =>
      let r := (x.zip y).map fun (i, j) => chunkAdd i j
      (.thin (r.map (·.1)), r.any (·.2.1), r.any (·.2.2), 0)
    | d, _ => (d, false, false, 0)
  ({ count := a.count + b.count, nans := a.nans + b.nans, excluded := a.excluded || b.excluded,
     bumped := a.bumped || b.bumped || bump, dense := a.dense || b.dense || dense, data := d }, fl)

/-- One step of a chain: absent inputs take no part, an awaited one holds it up (R319). -/
def chainStep (fmt : Fmt) (acc : Ready × FlagWord) (x : Ready × FlagWord) : Ready × FlagWord :=
  match acc.1, x.1 with
  | .waiting, _ => acc
  | _, .waiting => (.waiting, 0)
  | .absent, _ => (x.1, acc.2 ||| x.2)
  | .present _, .absent => (acc.1, acc.2 ||| x.2)
  | .present a, .present b => let (c, fl) := combine fmt a b; (.present c, acc.2 ||| x.2 ||| fl)

/-- A partial as this chip has it: kept, absent, or formed from its inputs when it lies on the chip's own line (R319, R320). -/
def evalKey (fmt : Fmt) (ms : List Nat) (c : Nat) (i : RInst) (ph : Bool) : Nat → PKey → Ready × FlagWord
  | 0, _ => (.waiting, 0)
  | n + 1, k =>
    match i.kept.find? fun x => decide (x.key = k) && x.prepass = ph with
    | some x => (.present x.part, 0)
    | none =>
      if i.absent.contains k then (.absent, 0)
      else if k.covers c && decide (k ≠ .v c) then
        ((k.inputs ms).map (evalKey fmt ms c i ph n)).foldl (chainStep fmt) (.absent, 0)
      else (.waiting, 0)

/-! Leaves (R326, R330, R337). -/

/-- Selected entries of a chunk: the k highest-ranked, in index order (R337). -/
def selectChunk (k : Nat) (xs : List W32) : List Nat := (byIndex (topk false k xs)).map (·.2)

/-- Lists of `n` elements. -/
def pieces {α : Type} (n : Nat) : Nat → List α → List (List α)
  | 0, _ => []
  | m + 1, l => l.take n :: pieces n m (l.drop n)

/-- k of a thinning code (POLICY bits [4:3]). -/
def thinOf (policy : BitVec 8) : Option Nat :=
  match field policy.toNat 3 2 with
  | 0 => none
  | 1 => some 32
  | 2 => some 64
  | _ => some 128

/-- The units that share an agreed scale: blocks, or chunks' selected entries with their indices (R330, R331). -/
def scaleUnits (policy : BitVec 8) (v : List W32) : List (List Nat × List W32) :=
  match thinOf policy with
  | none => (pieces 64 (v.length / 64) v).map fun b => (List.range 64, b)
  | some k => (pieces 1024 (v.length / 1024) v).map fun b => let ix := selectChunk k b; (ix, ix.map fun j => b.getD j 0)

/-- The exponent bytes of the prepass (R330). -/
def leafExps (policy : BitVec 8) (v : List W32) : List Int := (scaleUnits policy v).map fun (_, xs) => nbTop (xs.map f32)

/-- The encoded chip value (R326, R337), with what it says of each element and whether an encode bumped. -/
def leafNb (policy : BitVec 8) (pred : Bool) (scales : List Int) (v : List W32) : PData × List (Option AccVal) × Bool :=
  let us := (scaleUnits policy v).zip scales
  match thinOf policy with
  | none =>
    let bs := us.map fun ((_, xs), s) => nbEncode pred s (xs.map f32)
    (.nb bs, (bs.flatMap nbDecode).map (fun x => some ⟨x, 0⟩), bs.any fun b => decide (0 < b.bumps))
  | some _ =>
    let cs := us.zipIdx.map fun (((ix, xs), s), no) =>
      let bs := (blocksOf (Val.zero false) (ceilDiv xs.length 64) (xs.map f32)).map (nbEncode pred s)
      ((⟨no, some ix, bs⟩ : Chunk), bs.flatMap nbDecode)
    let sent := cs.flatMap fun (c, ds) =>
      (List.range 1024).map fun e => ((c.idx.getD []).idxOf? e).map fun j => (⟨ds.getD j 0, 0⟩ : AccVal)
    (.thin (cs.map (·.1)), sent, cs.any fun (c, _) => c.blocks.any fun b => decide (0 < b.bumps))

/-- The agreed scale from a total exponent (R330). -/
def agreedScale (members : Nat) (e : Int) : Int := min 127 (max (-128) (e + 1 + ((Nat.log2 members : Int) + 1)))

/-! The mean (R323). -/

/-- A value divided by a count, exact but for a sticky last bit far below every rounding position. -/
def divVal (v : Val) (c : Nat) : Val :=
  match v with
  | .fin n m e => .fin n (2 * (m * 2 ^ 300 / c) + (if m * 2 ^ 300 % c = 0 then 0 else 1)) (e - 301)
  | v => v

/-- The elements of a total; absent ones are +0 (R339). -/
def totalVals (fmt : Fmt) (d : PData) (n : Nat) : List Val :=
  match d with
  | .fp xs => xs.map fun x => if fmt = .fp32p then pairVal x else f32 x.hi
  | .nb bs => bs.flatMap fun b => b.m.map (nbVal b.scale)
  | .thin cs => cs.flatMap fun c =>
      let vs := c.blocks.flatMap fun b => b.m.map (nbVal b.scale)
      match c.idx with
      | none => vs
      | some l => (List.range 1024).map fun e => match l.idxOf? e with | some j => vs.getD j (Val.zero false) | none => Val.zero false
  | _ => List.replicate n (Val.zero false)

/-- One element of the result as bytes, with its flags; a pair's lo is rounded once as R90 rounds bl (log entry 63). -/
def meanElem (fmt : Fmt) (count : Nat) (v : Val) : List Byte × FlagWord :=
  if count = 0 then (List.replicate (contribWidth fmt) 0, 0)
  else
    let q := divVal v count
    let (h, fl) := rne32 false q
    if fmt = .fp32p then
      let l := if zero32 h || !fin32 h then 0#32 else rne false (Val.add q (f32 h).negate).1
      (toBytes 4 h.toNat ++ toBytes 4 l.toNat, if fin32 h then pairFlags q false ⟨h, l⟩ else fl)
    else (toBytes 4 h.toNat, fl)
where contribWidth (f : Fmt) : Nat := if f = .fp32p then 8 else 4

/-- The result over a span, with the flags of the division (R323). -/
def meanOf (fmt : Fmt) (p : Partial) (n : Nat) : List Byte × FlagWord :=
  let r := (totalVals fmt p.data n).map (meanElem fmt p.count)
  (r.flatMap (·.1), (r.map (·.2)).foldl (· ||| ·) 0)

/-! Bytes (Tables 12.6, 12.9). -/

/-- A chunk's bytes. IDX_CRC covers the U indices (DEDUCED log entry 27). -/
def chunkBytes (c : Chunk) : List Byte :=
  match c.idx with
  | none => toBytes 4 c.no ++ toBytes 2 1024 ++ [1, 0] ++ toBytes 8 0 ++ c.blocks.flatMap nbPack
  | some l =>
    let ix := l.flatMap (toBytes 2)
    toBytes 4 c.no ++ toBytes 2 l.length ++ [0, 0] ++ toBytes 4 (crc32c ix) ++ toBytes 4 0 ++ ix ++
      List.replicate (128 * ceilDiv l.length 64 - ix.length) 0xFF ++ c.blocks.flatMap nbPack

/-- The data of a partial. -/
def dataBytes (fmt : Fmt) (d : PData) : List Byte :=
  match d with
  | .fp xs => xs.flatMap fun x => toBytes 4 x.hi.toNat ++ (if fmt = .fp32p then toBytes 4 x.lo.toNat else [])
  | .nb bs => bs.flatMap nbPack
  | .thin cs => cs.flatMap chunkBytes
  | .exps es => es.map fun e => BitVec.ofInt 8 e
  | .none => []

/-- The bytes of a partial: its data, filled up to 64 bytes, and its summary (R342, Table 12.9). -/
def partialBytes (fmt : Fmt) (p : Partial) : List Byte :=
  let d := dataBytes fmt p.data
  let d := d ++ List.replicate (roundUp d.length 64 - d.length) 0
  let head := toBytes 2 p.count ++ toBytes 2 p.nans ++ toBytes 2 (ceilDiv (d.length + 64) 1024) ++
    toBytes 1 (p.excluded.toNat + 2 * p.bumped.toNat + 4 * p.dense.toNat) ++ toBytes 1 0
  d ++ head ++ toBytes 4 (crc32c head) ++ List.replicate 52 0

/-- `n` blocks from bytes. -/
def readBlocks : Nat → List Byte → List Nb
  | 0, _ => []
  | n + 1, bs => nbUnpack (bs.take 104) :: readBlocks n (bs.drop 104)

/-- One chunk from bytes and what follows it; none when a check fails (R328). -/
def readChunk (bs : List Byte) : Option (Chunk × List Byte) :=
  let u := ofBytes ((bs.drop 4).take 2)
  let form := ofBytes ((bs.drop 6).take 1)
  let n := ceilDiv u 64
  let list := if form = 0 then (bs.drop 16).take (2 * u) else []
  let after := bs.drop (16 + if form = 0 then 128 * n else 0)
  let blocks := readBlocks n after
  if decide (1 < form) || decide (form = 0 ∧ 512 < u) || decide (form = 1 ∧ u ≠ 1024) ||
      decide (ofBytes ((bs.drop 8).take 4) ≠ if form = 0 then crc32c list else 0) || !(blocks.all nbValid) then none
  else some (⟨ofBytes (bs.take 4), if form = 0 then some (unpackElems 16 u list) else none, blocks⟩, after.drop (104 * n))

/-- `n` chunks. -/
def readChunks : Nat → List Byte → Option (List Chunk)
  | 0, _ => some []
  | n + 1, bs =>
    match readChunk bs with
    | none => none
    | some (c, rest) => (readChunks n rest).map (c :: ·)

/-- The data of a partial for `n` elements; none when a block or list fails its check. -/
def readData (fmt : Fmt) (thin prepass : Bool) (n : Nat) (bs : List Byte) : Option PData :=
  if bs.isEmpty then some .none
  else if prepass then some (.exps ((bs.take (n / if thin then 1024 else 64)).map fun b => b.toInt))
  else if fmt ≠ .nb12 then
    some (.fp (if fmt = .fp32p then (unpackElems 64 n bs).map fun x => ⟨BitVec.ofNat 32 x, BitVec.ofNat 32 (x / 2 ^ 32)⟩
      else (unpackElems 32 n bs).map fun x => ⟨BitVec.ofNat 32 x, 0⟩))
  else if thin then (readChunks (n / 1024) bs).map .thin
  else
    let blocks := readBlocks (n / 64) bs
    if blocks.all nbValid then some (.nb blocks) else none

/-- A partial from its packets' bytes; none when its summary or its data fails (R328, R344). -/
def readPartial (fmt : Fmt) (thin prepass : Bool) (n : Nat) (bs : List Byte) : Option Partial :=
  let sum := bs.drop (bs.length - 64)
  let head := sum.take 8
  let fl := ofBytes ((head.drop 6).take 1)
  if ofBytes ((sum.drop 8).take 4) ≠ crc32c head then none
  else
    (readData fmt thin prepass n (bs.take (bs.length - 64))).map fun d =>
      { count := ofBytes (head.take 2), nans := ofBytes ((head.drop 2).take 2), excluded := bit fl 0, bumped := bit fl 1,
        dense := bit fl 2, data := d }

end Sys2Proof.Machine
end

