-- ==== Sys2Proof/Machine/Reduction.lean ====
section
/-! DEFINITION. Gradient reduction (12_gradient_reduction.md): groups, rounds of segments, the combining points of this chip, totals
and their return, deadlines, stale generations, the Assayer. -/
namespace Sys2Proof.Machine

/-! Segments and rounds. -/

/-- A segment of an open group. -/
def rxOf (s : State) (no bucket seg : Nat) : Option RX :=
  match groupOf s no with
  | none => none
  | some g =>
    match g.buckets[bucket]? with
    | none => none
    | some b => (b.segs[seg]?).map fun sg => ⟨no, g, bucket, b, seg, sg⟩

/-- The segment whose root a packet names (R342). -/
def rxOfRoot (s : State) (no bucket core : Nat) : Option RX :=
  match groupOf s no with
  | none => none
  | some g =>
    match g.buckets[bucket]? with
    | none => none
    | some b =>
      match b.segs.findIdx? fun x => decide ((x.cores.headD 0).1 = core) with
      | none => none
      | some seg => rxOf s no bucket seg

/-- The segment root (R318): CORES is kept in increasing order. -/
def RX.root (x : RX) : CoreId := x.sg.cores.headD 0
/-- The partial this chip sends. -/
def RX.top (s : State) (x : RX) : PKey := topKey x.g.members x.g.rootSlot s.chipId
/-- The static level of a partial. -/
def RX.level (x : RX) (k : PKey) : Nat := k.level treeDepth x.g.members
/-- A round of the segment. -/
def RX.round (s : State) (x : RX) (n : Nat) : RInst :=
  (roundOf s x.no x.g.gen x.bucket x.seg n).getD (newRound x.g.gen x.bucket x.seg n)
/-- The first phase of a round: the prepass, or the main reduction (R330). -/
def RX.prepassFirst (x : RX) : Bool := decide (x.g.fmt = .nb12) && !x.g.policy.getLsbD 1
/-- Thinning or RETAIN keeps a residual (R318). -/
def RX.retains (x : RX) : Bool := x.g.policy.getLsbD 2 || (thinOf x.g.policy).isSome
/-- Device addresses of the segment's residual and of its part of the scale array (Table 12.3). -/
def RX.residualAt (x : RX) : Nat := x.g.resBase + x.bk.resOff + 4 * x.sg.offset
def RX.unit (x : RX) : Nat := if (thinOf x.g.policy).isSome then 1024 else 64
def RX.scalesAt (x : RX) : Nat := x.g.resBase + x.bk.scaleOff + x.sg.offset / x.unit

/-- The deadline of a round: the earliest of its GRDYs on this chip (R334). -/
def RInst.deadline (i : RInst) : Option Nat :=
  (i.contribs.filterMap (·.deadline)).foldl (fun m d => some (match m with | none => d | some x => min x d)) none

/-- The phase under way. -/
def RInst.phase (i : RInst) : Option Bool :=
  match i.st with
  | .prepass => some true
  | .main => some false
  | _ => none

/-! Sending (R321, R342). -/

/-- The packets of a partial or total. -/
def redPackets (s : State) (x : RX) (i : RInst) (ix dst level : Nat) (ph total : Bool) (p : Partial) : List Packet :=
  let bs := partialBytes x.g.fmt p
  let n := ceilDiv bs.length 1024
  (List.range n).map fun k =>
    let part := (bs.drop (1024 * k)).take 1024
    ownPacket s tyREDDATA dst x.root.1 x.root.1 ix
      (extOf [(0, x.no), (8, x.bucket), (32, part.length / 64 - 1), (36, ph.toNat), (37, total.toNat), (38, if k + 1 = n then 1 else 0),
        (40, level), (48, x.g.gen), (64, k), (80, i.n % 65536), (96, (launchTag s).getD 0)]) part

/-- Send a partial or total to chips, or along lines, each with an index of its own; none while the tracking buffer lacks room (R288). -/
def sendRed (s : State) (x : RX) (i : RInst) (dsts : List (Nat × Option Nat)) (level : Nat) (ph total : Bool) (p : Partial) :
    Option (State × RInst) :=
  if !trackRoom s (ceilDiv (partialBytes x.g.fmt p).length 1024 * dsts.length) then none
  else
    some (dsts.foldl (fun (s, i) (d, line) =>
      let (s, ix) := takeIndex s x.root
      let ps := redPackets s x i ix d level ph total p
      let (m, acked) := match line with | some dim => (torusSize s dim, [s.chipId]) | none => (1, [])
      (ps.foldl (fun s q => sendTracked s q m acked line) s, { i with sent := i.sent ++ ps })) (s, i))

/-- Send a RED_CTL from a segment root (R343). -/
def sendRedCtl (s : State) (group bucket gen inst core dst dstCore op level : Nat) : State :=
  let (s, ix) := takeIndex s (Fin.ofNat 192 core)
  sendTracked s (ownPacket s tyREDCTL dst dstCore core ix
    (extOf [(0, group), (8, bucket), (32, gen), (48, op), (52, level % 64), (58, inst % 64)]) []) 1 []

/-- The RED_CTL that answers a RED_DATA packet. -/
def answerRed (s : State) (p : Packet) (op level : Nat) : State :=
  sendRedCtl s (p.ex 0 8) (p.ex 8 24) (p.ex 48 16) (p.ex 80 16) p.dstCore p.src p.srcCore op level

/-! The chip value and its partials (R318, R326, R330 to R333, R337). -/

/-- v: the split tree over the contributions in increasing logical ID, then the residual (R318). -/
def chipValue (s : State) (x : RX) (i : RInst) : List AccVal × FlagWord :=
  let pair := decide (x.g.fmt = .fp32p)
  let cols := x.sg.cores.map fun c => match i.contribs.find? fun k => decide (k.core = c) with | some k => k.data | none => []
  let sums := (List.range x.sg.count).map fun e =>
    let (v, fl) := splitTree (join (if pair then .fp32p else .fp32) false) (cols.map fun d => d.getD e ⟨0, 0⟩)
    ((v.getD ⟨0, 0⟩ : AccVal), fl)
  let sums :=
    if x.retains then
      let r := unpackElems 32 x.sg.count (hbmRead s x.residualAt (4 * x.sg.count))
      (sums.zip r).map fun ((v, fl), r) =>
        let (w, f) := join (if pair then .fp32p else .fp32) false v ⟨BitVec.ofNat 32 r, 0⟩
        (w, fl ||| f)
    else sums
  (sums.map (·.1), (sums.map (·.2)).foldl (· ||| ·) 0)

/-- An element's value. -/
def elemVal (f : Fmt) (v : AccVal) : Val := if f = .fp32p then pairVal v else f32 v.hi

/-- The scales that PREDICTED agrees on (R331). -/
def predictedScales (s : State) (x : RX) : List Int :=
  (hbmRead s x.scalesAt (x.sg.count / x.unit)).map fun b => min 127 (b.toInt + x.g.margin)

/-- Put the chip's own partial of a phase into the window (R326, R330, R332, R333, R337). -/
def addLeaf (s : State) (x : RX) (i : RInst) (ph : Bool) (scales : List Int) : RInst :=
  let bad := i.own.any fun v => !(elemVal x.g.fmt v).isFinite
  let ws := i.own.map (·.hi)
  let (d, sent, bump) : PData × List (Option AccVal) × Bool :=
    if i.excluded then (.none, [], false)
    else if ph then (.exps (leafExps x.g.policy ws), [], false)
    else if x.g.fmt = .nb12 then leafNb x.g.policy (x.g.policy.getLsbD 1) scales ws
    else (.fp i.own, i.own.map some, false)
  let p : Partial :=
    { count := if i.excluded then 0 else 1, nans := if bad && !i.excluded then 1 else 0, excluded := i.excluded, bumped := bump,
      dense := false, data := d }
  { i with kept := i.kept ++ [⟨.v s.chipId, ph, s.chipId, p, 0⟩], sentVals := if ph then i.sentVals else sent,
           bumped := i.bumped || bump }

/-- The round begins here: the root forms v and its first partial (R317, R318). -/
def beginRound (s : State) (x : RX) (i : RInst) : RInst :=
  let (v, fl) := chipValue s x i
  let vals := v.map (elemVal x.g.fmt)
  let bad := vals.any fun v => !v.isFinite
  let ph := x.prepassFirst
  let i := { i with own := v, fp := i.fp ||| fl, excluded := bad && x.g.policy.getLsbD 0,
                    nanElems := (vals.filter fun v => decide (v = .nan)).length, st := if ph then .prepass else .main }
  addLeaf s x i ph (if x.g.fmt = .nb12 && !ph then predictedScales s x else [])

/-- The residual or the scale array that a round's beginning reads meets a stored error; the round waits for the response (R183, R185). -/
def leafHeld (s : State) (x : RX) : Bool :=
  hbmHeld s ((if x.retains then [(x.residualAt, 4 * x.sg.count)] else []) ++
    (if x.g.fmt = .nb12 && x.g.policy.getLsbD 1 then [(x.scalesAt, x.sg.count / x.unit)] else [])) []

/-- What a round's end writes in parts of sectors meets a stored error: the scales and the bucket's entry (R169, R185). -/
def endHeld (s : State) (x : RX) : Bool :=
  hbmHeld s [] ((x.g.tableAt + 0x60 + 64 * x.bucket, 16) ::
    (if x.g.fmt = .nb12 && x.g.policy.getLsbD 1 then [(x.scalesAt, x.sg.count / x.unit)] else []))

/-- The round goes on without a chip value (R334). -/
def beginMissing (s : State) (x : RX) (i : RInst) : RInst :=
  { i with ownMissing := true, missed := true, absent := i.absent ++ [.v s.chipId],
           st := if x.prepassFirst then .prepass else .main }

/-- Every core of CORES has released its GRDY for the round. -/
def allContributed (x : RX) (i : RInst) : Bool := allReleased x.sg.cores i

/-- ... no later than the tick of the deadline (R46, R334). -/
def inTime (s : State) (i : RInst) : Bool :=
  match i.deadline.bind (tickOf s) with
  | none => true
  | some t => i.contribs.all fun k => decide (k.tick ≤ t)

/-! Deadlines (R334, R336). -/

/-- Proceed without the inputs whose limit has passed (R334). A missing input stays missing for the round. -/
def expire (s : State) (x : RX) (i : RInst) : RInst :=
  match i.deadline with
  | none => i
  | some d =>
    let i := if i.st = .gathering && decide (d ≤ s.tally.toNat) && !allContributed x i then beginMissing s x i else i
    match i.phase with
    | none => i
    | some ph =>
      if i.formed.contains ph then i
      else
        let ms := x.g.members
        let late := ((lineage ms x.g.rootSlot s.chipId).flatMap (PKey.limits ms)).filterMap fun (k, l) =>
          if !k.covers s.chipId && decide (d + x.g.stageTicks * l ≤ s.tally.toNat) && !i.absent.contains k &&
              !(i.kept.any fun y => decide (y.key = k) && y.prepass = ph) then some k else none
        { i with
          absent := i.absent ++ late
          arriving := i.arriving.filter fun a => a.total || !late.contains (topKey ms x.g.rootSlot a.src) }

/-- The mask of R336: bit k says that the k-th input of the points on this chip was present. -/
def inputMask (s : State) (x : RX) (i : RInst) : Nat :=
  let ms := x.g.members
  let ks := (lineage ms x.g.rootSlot s.chipId).flatMap fun k => k.inputs ms
  (ks.zipIdx.foldl (fun m (k, n) =>
    match (evalKey x.g.fmt ms s.chipId i false treeDepth k).1 with
    | .present _ => m + 2 ^ n
    | _ => m) 0) % 2 ^ 64

/-- Enter the mask of a round with a deadline in the value-varying log; a full log faults at the round's first GRDY (R42, R336;
DESIGN CHOICE log entry 28). -/
def logMask (s : State) (x : RX) (i : RInst) : State :=
  match i.deadline, i.contribs with
  | some _, c :: _ =>
    let r : ThRef := ⟨c.core, c.t⟩
    if vvFull s then raiseFault s r .vvLogFull c.index ((wordAt (s.th r) c.index).getD 0)
    else vvLogEntry s r c.index (BitVec.ofNat 64 (inputMask s x i)) true
  | _, _ => s

/-! Totals (R322, R323, R331, R335, R339). -/

/-- The new residual of a round's elements (R333, R335, R339): unchanged without one and for an excluded or missing value. -/
def residualOf (x : RX) (i : RInst) : Option (List Byte) :=
  if !x.retains || i.excluded || i.own.isEmpty then none
  else
    let whole (v : AccVal) : W32 := if x.g.fmt = .fp32p then rne false (pairVal v) else v.hi
    let left (v w : AccVal) : W32 :=
      if x.g.fmt = .fp32p then rne false (Val.add (pairVal v) (pairVal w).negate).1 else (fp32Sub false v.hi w.hi).1
    let keep := i.missed && x.g.policy.getLsbD 2
    some ((i.own.zip (i.sentVals ++ List.replicate i.own.length none)).flatMap fun (v, w) =>
      toBytes 4 (match w with
        | some w => if keep then whole v else left v w
        | none => whole v).toNat)

/-- Write the residual. -/
def writeResidual (s : State) (x : RX) (i : RInst) : State :=
  match residualOf x i with
  | some bs => hbmWrite s x.residualAt bs
  | none => s

/-- The scales that a total leaves in the scale array (R331). -/
def writeScales (s : State) (x : RX) (p : Partial) : State :=
  if x.g.fmt = .nb12 && x.g.policy.getLsbD 1 then
    match p.data with
    | .nb bs => hbmWrite s x.scalesAt (bs.map fun b => BitVec.ofInt 8 b.scale)
    | .thin cs => hbmWrite s x.scalesAt (cs.map fun c => BitVec.ofInt 8 (c.blocks.foldl (fun m b => max m b.scale) (-128)))
    | _ => s
  else s

/-- The device fields of a bucket's entry, from the segments' results of the latest round (Table 12.3). -/
def bucketFields (gen : Nat) (b : Bucket) (n : Nat) : List Byte :=
  let rs := (b.segs.filterMap (·.res)).filter fun r => r.n = n
  let inst := (b.segs.map (·.rounds)).foldl min 0xFFFFFFFF
  toBytes 2 (rs.foldl (fun m r => min m r.eff) 0xFFFF) ++ toBytes 2 (rs.foldl (fun m r => max m r.nanM) 0) ++
    toBytes 4 (rs.foldl (fun m r => m + r.nanE) 0) ++ toBytes 2 gen ++
    toBytes 1 (rs.foldl (fun (m : BitVec 8) (r : SegRes) => m ||| r.rflags) 0).toNat ++ toBytes 1 (rs.foldl (fun (m : FlagWord) (r : SegRes) => m ||| r.fp) 0).toNat ++ toBytes 4 inst

/-- Write the device fields of a bucket's entry (R314). -/
def writeEntry (s : State) (no bucket n : Nat) : State :=
  match groupOf s no with
  | none => s
  | some g =>
    match g.buckets[bucket]? with
    | none => s
    | some b => hbmWrite s (g.tableAt + 0x60 + 64 * bucket) (bucketFields g.gen b n)

/-- RFLAGS of a round (Table 12.3). -/
def roundFlags (x : RX) (i : RInst) (p : Partial) : BitVec 8 :=
  BitVec.ofNat 8 (i.missed.toNat + (if p.count < x.g.members.length then 2 else 0) + 4 * i.stale.toNat + 8 * i.excluded.toNat +
    16 * (p.bumped || i.bumped).toNat + 32 * p.dense.toNat + 64 * i.resent.toNat)

/-- The output of a phase has been formed and sent, or the round has passed it by, and every consumer has acknowledged it (R325). -/
def outputAcked (s : State) (i : RInst) (ph total : Bool) : Bool :=
  let outs := i.sent.filter fun p => (p.ex 36 1 = 1) = ph && (p.ex 37 1 = 1) = total
  (i.formed.contains ph || decide (i.st = .done)) && i.got.isNone &&
    outs.all fun p => !(s.fabric.tracked.any fun t => decide (t.pkt.index = p.index ∧ t.pkt.srcCore = p.srcCore))

/-- Complete a round on this chip: spans, residual, scales, the entry (R323). Completed rounds are dropped once no GRDY of theirs is still
to reach, their outputs are acknowledged, and a RED_CTL can name them no more. -/
def completeRound (s : State) (x : RX) (i : RInst) (level : Nat) (p : Partial) : State × RInst :=
  let (bs, fl) := meanOf x.g.fmt p x.sg.count
  let stale := i.staleOut || decide (level < x.level .total)
  let i := { i with
    st := .done, fp := i.fp ||| fl, result := bs, got := none, arriving := [], stale := stale }
  let s := i.contribs.foldl (fun s c => writeSpan s x.no i c) s
  let s := writeScales (writeResidual s x i) x p
  let r : SegRes := ⟨i.n, p.count, p.nans, i.nanElems, roundFlags x i p, i.fp⟩
  let s := modSeg s x.no x.bucket x.seg fun g => { g with rounds := i.n, res := some r }
  let s := writeEntry s x.no x.bucket i.n
  let s := if p.count < x.g.members.length then s.modLaunch fun l => { l with short := true } else s
  let old (k : Fin 256) (y : RInst) : Bool :=
    k.1 = x.no && y.gen = i.gen && y.bucket = i.bucket && y.seg = i.seg && decide (y.n + 32 ≤ i.n ∧ y.st = .done) && allContributed x y &&
      outputAcked s y true (decide (x.top s = .total)) && outputAcked s y false (decide (x.top s = .total))
  ({ s with red := { s.red with insts := s.red.insts.filter fun (k, y) => !old k y } }, i)

/-- The scales from the prepass's total (R330). -/
def prepassScales (x : RX) (p : Partial) : List Int :=
  let es := match p.data with | .exps es => es | _ => List.replicate (x.sg.count / x.unit) (-128)
  es.map (agreedScale x.g.members.length)

/-- Take a total: pass it on, then use it; none while the tracking buffer or the journal lacks room (R288, R361), or a sector's error is
answered. -/
def takeTotal (s : State) (x : RX) (i : RInst) (ph : Bool) (level : Nat) (p : Partial) : Option (State × RInst) :=
  let dests := totalDests s x.g.members x.g.rootSlot i.staleOut
  if !ph && (!journalFits s (i.contribs.length * x.sg.count * contribBytes x.g.fmt) || endHeld s x) then none
  else
    match sendRed s x i dests level ph true p with
    | none => none
    | some (s, i) =>
      if ph then
        let i := { i with got := none }
        if i.st = .prepass then
          let i := { i with st := .main }
          some (s, if i.ownMissing then i else addLeaf s x i false (prepassScales x p))
        else some (s, { i with ownMissing := true, missed := true, absent := i.absent ++ [.v s.chipId], st := .main })
      else
        let i := if i.st = .gathering then { i with missed := true, ownMissing := true } else i
        some (completeRound s x i level p)

/-- A partial without members or elements. -/
def emptyPartial : Partial := ⟨0, 0, false, false, false, .none⟩

/-- Carry a round on: form this chip's output of the phase once its inputs are there, send it to its consumer or take it as the
total, and use totals (R319 to R323). -/
def advance : Nat → State → RX → RInst → State × RInst
  | 0, s, _, i => (s, i)
  | n + 1, s, x, i =>
    match i.got with
    | some (ph, level, p) =>
      (match takeTotal s x i ph level p with
        | none => (s, i)
        | some (s, i) => advance n s x i)
    | none =>
      match i.phase with
      | none => (s, i)
      | some ph =>
        if i.formed.contains ph then (s, i)
        else
          let top := x.top s
          let (r, fl) := evalKey x.g.fmt x.g.members s.chipId i ph treeDepth top
          let last := decide (top = .total) || i.staleOut
          let done (s : State) (i : RInst) : State × RInst :=
            (if ph then s else logMask s x i, { i with formed := ph :: i.formed, fp := i.fp ||| fl })
          match r with
          | .waiting => (s, i)
          | .absent =>
            let (s, i) := done s i
            if last then advance n s x { i with got := some (ph, x.level top, emptyPartial) } else (s, i)
          | .present p =>
            if last then
              let (s, i) := done s i
              advance n s x { i with got := some (ph, x.level top, p) }
            else
              match top.parent with
              | none => (s, i)
              | some up =>
                match sendRed s x i [(up.point x.g.members x.g.rootSlot, none)] (x.level top) ph false p with
                | none => (s, i)
                | some (s, i) => let (s, i) := done s i; (s, i)

/-- The packets that a RESEND of a level from a chip asks for, of the later phase where both were sent; a line's go to that chip alone
(R329, R343). -/
def resendSet (s : State) (i : RInst) (asker level : Nat) : List Packet :=
  let outs := i.sent.filter fun q => decide ((q.dst = asker ∨ q.dst = s.chipId) ∧ q.ex 40 8 = level)
  let mains := outs.filter fun q => q.ex 36 1 = 0
  (if mains.isEmpty then outs else mains).map fun q => { q with dst := asker }

/-- Send a partial's packets again, with the same INDEX and PKT (R329). -/
def resendOuts (s : State) (outs : List Packet) : State :=
  let open_ (s : State) (q : Packet) : Bool :=
    s.fabric.tracked.any fun t => decide (t.pkt.index = q.index ∧ t.pkt.seg = q.seg ∧ t.pkt.srcCore = q.srcCore)
  let s := outs.foldl (fun s q => if open_ s q then sendSource s q else sendTracked s q 1 []) s
  (s.count fun c => { c with rtyPackets := sat64 c.rtyPackets outs.length }).flagExc excRTY

/-- Partials asked for again go out once the inputs they were waiting for are there (R329). -/
def serveRedo (s : State) (i : RInst) : State × RInst :=
  let outs := i.redo.flatMap fun (c, l) => resendSet s i c l
  if i.redo.isEmpty || !i.again.isEmpty || !trackRoom s outs.length then (s, i) else (resendOuts s outs, { i with redo := [] })

/-- Carry a round on and put it back. -/
def carryRound (s : State) (x : RX) (i : RInst) : State :=
  let (s, i) := advance 6 s x (expire s x i)
  let (s, i) := serveRedo s i
  finishClose (putRound s x.no i) x.no

/-! The launch and a device that may work on reductions. -/

/-- SEGMENT_INSTANCE_BEGIN (R317, R318): the next round of a segment begins once every core has released its GRDY; on a round that
has begun it carries on what waited for room. -/
def execSegmentInstanceBegin (group : Fin 256) (bucket seg : Nat) (s : State) : Res :=
  .next (match rxOf s group.1 bucket seg, receivingTag s with
    | some x, some _ =>
      let i := x.round s (x.sg.rounds + 1)
      if i.isOpen then carryRound s x i
      else if !allContributed x i || (inTime s i && leafHeld s x) then s
      else carryRound s x (if inTime s i then beginRound s x i else beginMissing s x i)
    | _, _ => s)

/-- REDUCTION_STAGE_DEADLINE (R334). -/
def execReductionStageDeadline (group : Fin 256) (bucket seg : Nat) (s : State) : Res :=
  .next (match rxOf s group.1 bucket seg, receivingTag s with
    | some x, some _ =>
      let i := x.round s (x.sg.rounds + 1)
      let j := expire s x i
      if decide (j = i) || x.g.closing && !roundBegun s group.1 i then s else carryRound s x j
    | _, _ => s)

/-! The reduction window (R325). -/

/-- Bytes a round holds in its root's window: packets arriving, inputs and output of each phase until the output is
acknowledged. -/
def roundBytes (s : State) (x : RX) (i : RInst) : Nat :=
  let total := decide (x.top s = .total)
  let part (ph : Bool) : Nat :=
    if outputAcked s i ph total then 0
    else
      let ins := (i.kept.filter fun k => k.prepass = ph && decide (k.chip ≠ s.chipId)).foldl
        (fun n k => n + (partialBytes x.g.fmt k.part).length) 0
      let out := (i.sent.filter fun p => (p.ex 36 1 = 1) = ph && (p.ex 37 1 = 1) = total).foldl (fun n p => n + p.payload.length) 0
      ins + out
  (i.arriving.flatMap (·.pkts)).foldl (fun n p => n + p.2.length) 0 + part true + part false

/-- Bytes in use in the window of a root core. -/
def windowUsed (s : State) (no : Nat) (core : CoreId) : Nat :=
  s.red.insts.foldl (fun n (k, i) =>
    if k.1 = no then
      match rxOf s no i.bucket i.seg with
      | some x => if x.root = core then n + roundBytes s x i else n
      | none => n
    else n) 0

/-! The Assayer (R328, R329). -/

/-- The round of a packet: the number with its low bits that lies nearest the next one. -/
def roundNo (x : RX) (inst bits : Nat) : Nat :=
  let next := x.sg.rounds + 1
  let d := (inst + 2 ^ bits - next % 2 ^ bits) % 2 ^ bits
  if d < 2 ^ (bits - 1) then next + d else next + d - 2 ^ bits

/-- A partial that is arriving, as far as its packets are here with `p` among them: packet j. -/
def packetOf (i : RInst) (p : Packet) (j : Nat) : Option (List Byte) :=
  if j = p.seg then some p.payload
  else (i.arriving.find? fun a => decide (a.src = p.src ∧ a.index = p.index)).bind fun a => a.pkts.lookup j

/-- `n` bytes of the partial from `a`; none while a packet of them is missing. -/
def streamBytes (have_ : Nat → Option (List Byte)) (a n : Nat) : Option (List Byte) :=
  let ps := (List.range ((a + n - 1) / 1024 - a / 1024 + 1)).map fun k => have_ (a / 1024 + k)
  let bs := (((ps.filterMap id).flatten).drop (a % 1024)).take n
  if ps.all Option.isSome && decide (bs.length = n) then some bs else none

/-- A block of the partial is whole and fails its check (R328). -/
def blockFails (have_ : Nat → Option (List Byte)) (a : Nat) : Bool :=
  match streamBytes have_ a 104 with
  | some bs => !nbValid (nbUnpack bs)
  | none => false

/-- In the chunks of a partial from `a` on, one of the blocks or index lists that share a byte with addresses `lo` to `hi - 1` is whole
and fails (R328). The fuel is the number of chunks. -/
def chunksFail (have_ : Nat → Option (List Byte)) (lo hi : Nat) : Nat → Nat → Bool
  | 0, _ => false
  | n + 1, a =>
    match streamBytes have_ a 16 with
    | none => false
    | some h =>
      let u := ofBytes ((h.drop 4).take 2)
      let form := ofBytes ((h.drop 6).take 1)
      let k := ceilDiv u 64
      let at_ := a + 16 + (if form = 0 then 128 * k else 0)
      let listFails := decide (form = 0 ∧ a < hi ∧ lo < at_) && (match streamBytes have_ (a + 16) (2 * u) with
        | some l => decide (ofBytes ((h.drop 8).take 4) ≠ crc32c l)
        | none => false)
      if 1 < form || 1024 < u then false
      else
        listFails || ((List.range k).any fun j => decide (at_ + 104 * j < hi ∧ lo < at_ + 104 * (j + 1)) && blockFails have_ (at_ + 104 * j)) ||
          chunksFail have_ lo hi n (at_ + 104 * k)

/-- A block or an index list of an NB12 packet fails its check at the receiving port, on the way as at its destination, where this chip
has the group open. DEDUCED (log entry 88): what lies in several packets is checked with the last of them to arrive. -/
def portFails (s : State) (p : Packet) : Bool :=
  match rxOfRoot s (p.ex 0 8) (p.ex 8 24) p.dstCore with
  | none => false
  | some x =>
    if x.g.gen ≠ p.ex 48 16 || x.g.fmt ≠ .nb12 || p.ex 36 1 = 1 then false
    else
      let have_ := packetOf (x.round s (roundNo x (p.ex 80 16) 16)) p
      let lo := 1024 * p.seg
      let hi := lo + p.payload.length
      if (thinOf x.g.policy).isSome then chunksFail have_ lo hi (x.sg.count / 1024) 0
      else (List.range (x.sg.count / 64)).any fun b => decide (104 * b < hi ∧ lo < 104 * (b + 1)) && blockFails have_ (104 * b)

/-- Failures noted of a partial, and of one of its packets. -/
def failsOf (s : State) (p : Packet) : Nat :=
  (s.red.fails.filter fun (c, k, ix, _) => decide (c = p.src ∧ k = p.srcCore ∧ ix = p.index)).length
def failsOfPacket (s : State) (p : Packet) : Nat :=
  (s.red.fails.filter fun f => decide (f = (p.src, p.srcCore, p.index, p.seg))).length

/-- Note a failure. -/
def noteFail (s : State) (p : Packet) (pkt : Nat) : State :=
  ({ s with red := { s.red with fails := s.red.fails ++ [(p.src, p.srcCore, p.index, pkt)] } }).countRun fun c =>
    { c with assayerFails := sat64 c.assayerFails 1 }

/-- Mark a packet's round as repaired. -/
def markResent (s : State) (x : RX) (n : Nat) : State :=
  match roundOf s x.no x.g.gen x.bucket x.seg n with
  | some i => putRound s x.no { i with resent := true }
  | none => s

/-- A failure at the port (R329): first a NAK as for a failed link CRC, then RED_CTL RESEND, then the halt. -/
def portFailure (s : State) (l : LinkId) (p : Packet) : State :=
  let again := 1 ≤ failsOfPacket s p
  let third := 2 ≤ failsOf s p
  let s := noteFail s p p.seg
  if third then haltLaunch (freeUnits (takePacket s l p) l p) .checksum
  else if again && trackRoom s 1 then
    let s := answerRed (freeUnits (takePacket s l p) l p) p 2 (p.ex 40 8)
    match rxOfRoot s (p.ex 0 8) (p.ex 8 24) p.dstCore with
    | some x => markResent s x (roundNo x (p.ex 80 16) 16)
    | none => s
  else sendLinkPacket s l (some (s.fabric.links[l]).rxSeq)

/-- Ask the source of a partial for all of it again, to be taken anew; its third failure halts the launch (R329). -/
def askAgain (s : State) (src srcCore index : Nat) (ask : State → State) : State :=
  let third := 2 ≤ (s.red.fails.filter fun (c, k, ix, _) => decide (c = src ∧ k = srcCore ∧ ix = index)).length
  let s := ({ s with red := { s.red with fails := s.red.fails ++ [(src, srcCore, index, 65536)] } }).countRun fun c =>
    { c with assayerFails := sat64 c.assayerFails 1 }
  if third then haltLaunch s .checksum
  else
    ask { s with fabric := { s.fabric with
      accepted := s.fabric.accepted.filter fun a => !decide (a.src = src ∧ a.srcCore = srcCore ∧ a.index = index) } }

/-- A failure at the engine input (R329): RED_CTL RESEND at once. -/
def engineFailure (s : State) (p : Packet) : State := askAgain s p.src p.srcCore p.index fun s => answerRed s p 2 (p.ex 40 8)

/-- PACKET_FORWARD (R295, R328): the port's check first. -/
def execPacketForward (l : LinkId) (pkt : Packet) (s : State) : Res :=
  .next (
    if linkTakes s l pkt && !pkt.isLocal && !forThisChip s pkt && decide (pkt.ty = tyREDDATA) && isAwake s && portFails s pkt then
      portFailure s l pkt
    else receiveRow s l pkt (fun s p => !forThisChip s p) forwardPacket)

/-! Arrival of RED_DATA (R325, R328, R335, R340). -/

/-- Add a packet to its partial; the whole partial's bytes once every packet is there. -/
def addPacket (i : RInst) (p : Packet) : RInst × Option (List Byte) :=
  let same (a : Arriving) : Bool := decide (a.src = p.src ∧ a.index = p.index)
  let a := (i.arriving.find? same).getD ⟨p.src, p.index, p.ex 40 8, p.ex 36 1 = 1, p.ex 37 1 = 1, none, []⟩
  let a := { a with last := if p.ex 38 1 = 1 then some p.seg else a.last, pkts := a.pkts ++ [(p.seg, p.payload)] }
  let rest := i.arriving.filter fun a => !same a
  match a.last with
  | some k =>
    let parts := (List.range (k + 1)).map fun j => a.pkts.lookup j
    if parts.all Option.isSome then ({ i with arriving := rest }, some ((parts.filterMap id).flatten))
    else ({ i with arriving := rest ++ [a] }, none)
  | none => ({ i with arriving := rest ++ [a] }, none)

/-- A packet whose round goes on here. -/
def takeRed (s : State) (x : RX) (i : RInst) (p : Packet) (key : PKey) : State :=
  let ph := decide (p.ex 36 1 = 1)
  let (j, whole) := addPacket i p
  match whole with
  | none => putRound s x.no j
  | some bs =>
    match readPartial x.g.fmt (thinOf x.g.policy).isSome ph x.sg.count bs with
    | none => engineFailure (putRound s x.no { j with resent := true }) p
    | some q =>
      if p.ex 37 1 = 1 then
        carryRound s x (if j.got.isNone && (!ph || decide (j.st = .prepass ∨ j.st = .gathering)) then { j with got := some (ph, p.ex 40 8, q) } else j)
      else carryRound s x { j with kept := j.kept ++ [⟨key, ph, p.src, q, p.index⟩], again := j.again.filter (· ≠ key) }

/-- Accept and acknowledge a packet (R289, R290). -/
def acceptRed (s : State) (p : Packet) : State := sendAck (noteAccepted s p) p 1

/-- A packet of another generation, or of a group that is not open (R340). -/
def staleRed (s : State) (p : Packet) : State :=
  let s := modGroup (acceptRed s p) (p.ex 0 8) fun g => { g with stale := g.stale + 1 }
  answerRed s p 1 0

/-- A packet with no record yet. -/
def freshRed (s : State) (p : Packet) : Option State :=
  if !trackRoom s 1 then none
  else
    match groupOf s (p.ex 0 8) with
    | none => some (staleRed s p)
    | some g =>
      if g.gen ≠ p.ex 48 16 then some (staleRed s p)
      else
        match rxOfRoot s (p.ex 0 8) (p.ex 8 24) p.dstCore with
        | none => some (discardPacket (acceptRed s p))
        | some x =>
          let n := roundNo x (p.ex 80 16) 16
          let known := roundOf s x.no g.gen x.bucket x.seg n
          let i := (if n = x.sg.rounds + 1 then expire s x (x.round s n) else x.round s n)
          let ph := decide (p.ex 36 1 = 1)
          let late := decide (n ≤ x.sg.rounds) || decide (i.st = .done)
          let room := windowUsed s x.no x.root + p.payload.length ≤ g.redLen
          if p.ex 37 1 = 1 then
            if late then some (acceptRed s p)
            else if !room then none
            else some (takeRed (acceptRed s p) x i p .total)
          else
            let key := topKey g.members g.rootSlot p.src
            let mine := decide (key.parent.map (PKey.point g.members g.rootSlot) = some s.chipId) && g.members.contains p.src
            if !mine then some (discardPacket (acceptRed s p))
            else if !i.again.contains key && (late || i.absent.contains key || i.formed.contains ph || (ph && decide (i.st = .main))) then
              some (answerRed (acceptRed s p) p 0 0)
            else if g.closing && !((known.map (roundBegun s x.no)).getD false) then some (staleRed s p)
            else if !room then none
            else some (takeRed (acceptRed s p) x i p key)

/-- A RED_DATA packet for this chip; one that goes along a line is sent on (R303, R322). -/
def handleRedData (s : State) (l : LinkId) (p : Packet) : Option State :=
  let s := match linkDim l with | some (dim, _) => if redLine p then lineForward s p (some l) dim else s | none => s
  tracked s p (receivingTag s) (fun s => sendAck s p 1) fun s => freshRed s p

/-- RED_DATA_RECEIVE (R328): the port's check first. -/
def execRedDataReceive (l : LinkId) (pkt : Packet) (s : State) : Res :=
  .next (
    let mine (s : State) (p : Packet) : Bool := decide (p.ty = tyREDDATA) && forThisChip s p
    if linkTakes s l pkt && mine s pkt && isAwake s && portFails s pkt then portFailure s l pkt
    else receiveRow s l pkt mine handleRedData)

/-! RED_CTL (R329, R335, R340, R343). -/

/-- The segment and round that a RED_CTL names. -/
def ctlRound (s : State) (p : Packet) : Option (RX × RInst) :=
  match rxOfRoot s (p.ex 0 8) (p.ex 8 24) p.dstCore with
  | none => none
  | some x =>
    if x.g.gen ≠ p.ex 32 16 then none
    else (roundOf s x.no x.g.gen x.bucket x.seg (roundNo x (p.ex 58 6) 6)).map fun i => (x, i)

/-- Receive a RED_CTL of one OP: `act` answers none while the tracking buffer lacks room. -/
def redCtlRow (op : Nat) (act : State → Packet → RX → RInst → Option State) (l : LinkId) (pkt : Packet) (s : State) : State :=
  receiveRow s l pkt (fun s p => decide (p.ty = tyREDCTL) && decide (p.ex 48 4 = op) && forThisChip s p) fun s _ p =>
    tracked s p ((receivingTag s).map fun _ => 0) (fun s => sendAck s p 1) fun s =>
      match ctlRound s p with
      | none => some (acceptRed s p)
      | some (x, i) => (act s p x i).map fun s => acceptRed s p

/-- The chips that fed a round's points here. -/
def feeders (s : State) (i : RInst) : List Nat := ((i.kept.map (·.chip)).filter (· ≠ s.chipId)).eraseDups

/-- MISSED (R335): passed on to every point that fed this one; the residual is corrected, unless a later round has begun on it. -/
def missedAct (s : State) (_ : Packet) (x : RX) (i : RInst) : Option State :=
  let fs := feeders s i
  if !trackRoom s fs.length || (decide (i.st = .done) && endHeld s x) then none
  else
    let s := fs.foldl (fun s c => sendRedCtl s x.no x.bucket x.g.gen i.n x.root.1 c x.root.1 0 0) s
    if i.missed then some s
    else
      let i := { i with missed := true }
      let s := putRound s x.no i
      if decide (i.st = .done) && decide (i.n = x.sg.rounds) then
        let s := if (x.round s (i.n + 1)).isOpen then s else writeResidual s x i
        let s := modSeg s x.no x.bucket x.seg fun g => { g with res := g.res.map fun r => if r.n = i.n then { r with rflags := r.rflags ||| 1 } else r }
        some (writeEntry s x.no x.bucket i.n)
      else some s

def execRedCtlMissed (l : LinkId) (pkt : Packet) (s : State) : Res := .next (redCtlRow 0 missedAct l pkt s)

/-- STALE (R340): the point's own output becomes the total of the phase under way, and of the rest of the round. -/
def staleAct (s : State) (_ : Packet) (x : RX) (i : RInst) : Option State :=
  match i.phase with
  | none => some s
  | some ph =>
    let i := { i with staleOut := true }
    if i.formed.contains ph && i.got.isNone then
      let top := x.top s
      let out := match (evalKey x.g.fmt x.g.members s.chipId i ph treeDepth top).1 with | .present p => p | _ => emptyPartial
      some (carryRound s x { i with got := some (ph, x.level top, out) })
    else some (carryRound s x i)

def execRedCtlStale (l : LinkId) (pkt : Packet) (s : State) : Res := .next (redCtlRow 1 staleAct l pkt s)

/-- RESEND (R329, R343): every packet of the partial of that level sent to the asking chip goes out again, of the later phase where both
were sent. `bad` names the chips whose retained inputs fail their check: those inputs are asked for again first. A leaf encoded again is
what it was. -/
def resendAct (bad : List Nat) (s : State) (p : Packet) (x : RX) (i : RInst) : Option State :=
  let outs := resendSet s i p.src (p.ex 52 6)
  let ph := outs.all fun q => q.ex 36 1 = 1
  let ks := i.kept.filter fun k => decide (k.prepass = ph ∧ k.chip ≠ s.chipId) && bad.contains k.chip
  if !trackRoom s (if ks.isEmpty then outs.length else ks.length) then none
  else if ks.isEmpty then some (resendOuts (markResent s x i.n) outs)
  else
    let s := ks.foldl (fun s k => askAgain s k.chip x.root.1 k.index fun s =>
      sendRedCtl s x.no x.bucket x.g.gen i.n x.root.1 k.chip x.root.1 2 (x.level k.key)) s
    some (putRound s x.no { i with
      resent := true, kept := i.kept.filter (fun k => !ks.contains k), again := i.again ++ ks.map (·.key), redo := i.redo ++ [(p.src, p.ex 52 6)] })

def execRedCtlResend (l : LinkId) (ask : Resend) (s : State) : Res := .next (redCtlRow 2 (resendAct ask.bad) l ask.pkt s)

/-- REDUCTION_WINDOW_SPACE (R325): a held RED_DATA packet is taken once the window has space. -/
def execReductionWindowSpace (k : Nat) (s : State) : Res :=
  .next (match s.fabric.held[k]? with
    | none => s
    | some (l, p) =>
      if p.ty = tyREDDATA && forThisChip s p && isAwake s then
        match handleRedData s l p with
        | none => s
        | some s => freeUnits { s with fabric := { s.fabric with held := s.fabric.held.eraseIdx k } } l p
      else s)

/-! GROUP_OPEN and GROUP_CLOSE (R312 to R314, R341). -/

/-- Member chip IDs of a bitmap, in increasing order (R312). -/
def membersOfMap (bs : List Byte) : List Nat :=
  (bs.zipIdx.flatMap fun (b, i) => if b = 0 then [] else (List.range 8).filterMap fun k => if b.getLsbD k then some (8 * i + k) else none)

/-- A segment entry (Table 12.4). -/
def readSeg (bs : List Byte) : Seg :=
  let mask := ofBytes ((bs.drop 8).take 24)
  ⟨ofBytes (bs.take 4), ofBytes ((bs.drop 4).take 4), (List.finRange 192).filter fun c => mask.testBit c.1, 0, [], none⟩

/-- A bucket with its SEG_LIST address and whether its reserved fields are zero (Table 12.3). -/
def readBucket (s : State) (a : Nat) : Bucket × Nat × Nat × Bool :=
  let n := hbmNat s (a + 4) 2
  let list := hbmNat s (a + 8) 8
  (⟨hbmNat s a 4, (List.range (min n 192)).map fun i => readSeg (hbmRead s (list + 32 * i) 32), hbmNat s (a + 0x10) 8, hbmNat s (a + 0x18) 8⟩,
    list, n, decide (hbmNat s (a + 6) 2 = 0 ∧ hbmNat s (a + 0x30) 16 = 0))

/-- Segments in order of OFFSET cover the elements exactly. -/
def covered (at_ : Nat) : List Seg → Option Nat
  | [] => some at_
  | g :: gs => if g.offset = at_ then covered (at_ + g.count) gs else none

/-- No core contributes to two segments. -/
def coresApart : List Seg → Bool
  | [] => true
  | g :: gs => gs.all (fun h => h.cores.all fun c => !g.cores.contains c) && coresApart gs

/-- A bucket's segments and arrays are as R313 asks. -/
def bucketOk (thin nb12 : Bool) (resBytes : Nat) (b : Bucket) : Bool :=
  let u := if thin then 1024 else 64
  decide (0 < b.elements ∧ b.elements % u = 0) &&
    (b.segs.all fun g => decide (0 < g.count ∧ g.count % u = 0 ∧ g.offset % u = 0) && !g.cores.isEmpty) && coresApart b.segs &&
    decide (covered 0 (b.segs.mergeSort fun x y => x.offset ≤ y.offset) = some b.elements) &&
    decide (b.resOff + 4 * b.elements ≤ resBytes) && (!nb12 || decide (b.scaleOff + b.elements / u ≤ resBytes))

/-- The combining form of a segment (R313). -/
def formBytes (fmt : Nat) (thin : Bool) (n : Nat) : Nat :=
  if fmt = 0 then 4 * n else if fmt = 1 then 8 * n else 104 * n / 64 + (if thin then 16 * (n / 1024) else 0)

/-- The device's copy of what a GROUP_OPEN names (R314), with the parts that only its checks need: BUCKETS, and each bucket's list
address, SEGMENTS and reserved fields. -/
def groupOfDesc (s : State) (d : Desc) : Group × Nat × List (Nat × Nat × Bool) :=
  let table := d.word 3
  let n := hbmNat s table 4
  let bs := (List.range (if n ≤ 16777216 then n else 0)).map fun b => readBucket s (table + 0x40 + 64 * b)
  let red := hbmNat s (table + 0x10) 8
  ({ gen := field (d.word 1) 0 16, policy := BitVec.ofNat 8 (d.word 1 / 2 ^ 16), fmt := (Fmt.ofCode (field (d.word 1) 24 4)).getD .fp32,
     members := membersOfMap (hbmRead s (d.word 2) 4096), rootSlot := hbmNat s (table + 4) 1 % 8, margin := hbmNat s (table + 5) 1 % 4,
     stageTicks := hbmNat s (table + 8) 4, redBase := field red 0 21, redLen := field red 21 21, resBase := d.word 4, resBytes := d.word 5,
     tableAt := table, buckets := bs.map (·.1), stale := 0, closing := false }, n, bs.map (·.2))

/-- Check 5 of GROUP_OPEN (R313). -/
def groupChecks (s : State) (d : Desc) : List (Bool × Nat) :=
  let (g, n, raw) := groupOfDesc s d
  let fmt := field (d.word 1) 24 4
  let thin := (thinOf g.policy).isSome
  let t := g.tableAt
  let nodes (c : Nat) : Bool := g.members.contains (c / 8 * 8 + g.rootSlot)
  let widest := (g.buckets.flatMap (·.segs)).foldl (fun m x => max m (formBytes fmt thin x.count)) 0
  [(inGeneral (d.word 2) 4096 && inGeneral t 64 && inGeneral (d.word 4) (d.word 5), stBadAddress),
   (decide (1 ≤ n ∧ n ≤ 16777216), stMalformed),
   (inGeneral (t + 0x40) (64 * n), stBadAddress),
   (raw.all (fun (_, k, _) => decide (1 ≤ k ∧ k ≤ 192)), stMalformed),
   (raw.all (fun (a, k, _) => inGeneral a (32 * k)), stBadAddress),
   (decide (fmt = 0 ∨ fmt = 1 ∨ fmt = 0xE) && (decide (fmt = 0xE) || (!thin && !g.policy.getLsbD 1)) &&
     decide (field (d.word 1) 32 32 = g.members.length) && g.members.contains s.chipId && g.members.all nodes &&
     raw.all (·.2.2) &&
     decide (hbmNat s (t + 4) 1 < 8 ∧ hbmNat s (t + 5) 1 < 4 ∧ hbmNat s (t + 6) 2 = 0 ∧ hbmNat s (t + 0xC) 4 = 0 ∧
       hbmNat s (t + 0x18) 40 = 0 ∧ hbmNat s (t + 0x10) 8 < 2 ^ 42) &&
     decide (d.word 4 % 65536 = 0 ∧ d.word 5 % 65536 = 0 ∧ g.redBase % 65536 = 0 ∧ g.redLen % 65536 = 0) &&
     g.buckets.all (bucketOk thin (decide (fmt = 0xE)) g.resBytes) &&
     decide (4 * widest + 65536 ≤ g.redLen ∧ g.redBase + g.redLen ≤ Config.benchEnd), stMalformed)]

/-- The checks of GROUP_OPEN before the reads of R313 (R55, R250 to R252, R254). -/
def groupEarly (s : State) (d : Desc) : List (Bool × Nat) :=
  let fmt := field (d.word 1) 24 4
  [(headOk d 8 && d.zeroFrom 6 && decide (field (d.word 1) 28 4 = 0 ∧ field (d.word 1) 21 3 = 0) && decide (fmt = 0 ∨ fmt = 1 ∨ fmt = 0xE) &&
      devAddr (d.word 2) && devAddr (d.word 3) && devAddr (d.word 4), stMalformed),
   (inStates s [3, 4], stRefused), ((groupOf s (d.param % 256)).isNone, stRefused)]

/-- A read that the checks come to meets a stored error, which is answered under Table 7.9 first (R185). -/
def groupHeld (s : State) (d : Desc) : Bool :=
  let cs := groupChecks s d
  let n := hbmNat s (d.word 3) 4
  let lists := (groupOfDesc s d).2.2
  (firstFail (groupEarly s d)).isNone && (firstFail (cs.take 1)).isNone &&
    (badIn s (d.word 2) 4096 || badIn s (d.word 3) 64 ||
      ((firstFail (cs.take 3)).isNone && (badIn s (d.word 3 + 64) (64 * n) ||
        ((firstFail (cs.take 5)).isNone && lists.any fun (a, k, _) => badIn s a (32 * k)))))

/-- GROUP_OPEN (R252, R313, R314). -/
def execGroupOpen (sq : RingId) (s : State) : Res :=
  .next (dispatch s sq (fun d => decide (d.opc = 0x0B) && !groupHeld s d) fun s d h =>
    let no := d.param % 256
    checked s h (groupEarly s d ++ groupChecks s d)
      (answerDesc { s with red := { s.red with groups := vset s.red.groups (Fin.ofNat 256 no) (some (groupOfDesc s d).1) } } h stOK 0))

/-- A group is closed to new GRDYs: contributions to rounds that have not begun take the path of R316, and the sources of partials
kept for them learn that the generation is stale (R340, R341). -/
def closeGroup (s : State) (no : Nat) : State :=
  let s := modGroup s no fun g => { g with closing := true }
  let idle (k : Fin 256) (i : RInst) : Bool := k.1 = no && decide (i.st = .gathering) && !roundBegun s no i
  let waiting := s.red.insts.filter fun (k, i) => idle k i
  let s := { s with red := { s.red with insts := s.red.insts.filter fun (k, i) => !idle k i } }
  waiting.foldl (fun s (_, i) =>
    let s := i.contribs.foldl (fun s c => closedContribution s c.core c.ev) s
    match rxOf s no i.bucket i.seg with
    | none => s
    | some x =>
      let from_ := (feeders s i ++ (i.arriving.filter fun a => !a.total).map (·.src)).eraseDups
      from_.foldl (fun s c => sendRedCtl s no i.bucket x.g.gen i.n x.root.1 c x.root.1 1 0) s) s

/-- GROUP_CLOSE (R253, R341). -/
def execGroupClose (sq : RingId) (s : State) : Res :=
  .next (dispatch s sq (fun d => decide (d.opc = 0x0C)) fun s d h =>
    let no := d.param % 256
    let gen := field (d.word 1) 0 16
    let current := match groupOf s no with | some g => decide (g.gen = gen) && !g.closing | none => false
    checked s h [(headOk d 8 && decide (d.word 1 < 65536) && d.zeroFrom 2, stMalformed), (inStates s [3, 4, 5, 6], stRefused), (current, stStale)]
      (finishClose (closeGroup (acceptItem s d h (.groupClose no gen)) no) no))

end Sys2Proof.Machine
end

