-- ==== Sys2Proof/Machine/Enclave.lean ====
section
/-! DEFINITION. The Enclave (16): its self-tests and error state, the mailbox requests, SPDM, IDE keys, the entropy buffer, and the
verification of firmware images. Signatures are not computed: whether one verifies comes with the command. -/
namespace Sys2Proof.Machine

/-! Keys (R432 to R434, R450, Table 16.7). -/

/-- Change a mailbox. -/
def modMail (s : State) (mb : Fin 2) (f : Mailbox → Mailbox) : State := { s with sec := { s.sec with mail := vmod s.sec.mail mb f } }

/-- Every IDE key is destroyed and every stream Insecure. -/
def dropIde (s : State) : State := { s with sec := { s.sec with ide := Vector.replicate 4 ideStream0 } }

/-- Every key and secret outside the OTP store is destroyed (R434, R450). -/
def zeroiseKeys (s : State) : State :=
  let s := dropIde s
  { s with sec := { s.sec with idKey := none, sessions := [], drbg := [], mail := s.sec.mail.map fun m => { m with nonce := none } } }

/-- A running request ends with SECURITY_REFUSED (R450). -/
def endRunning (s : State) : State :=
  match s.sec.queue with
  | mb :: _ => modMail s mb fun m => if m.answer.isNone then { m with answer := some (stSecurity, []) } else m
  | [] => s

/-- Enter the error state (R434). -/
def enterError (s : State) : State :=
  let s := zeroiseKeys s
  endRunning { s with sec := { s.sec with error := true, tested := false, errors := s.sec.errors + 1 } }

/-- The approved-mode indicator (R433). -/
def approvedMode (s : State) : Bool := s.sec.tested && !s.sec.error && s.sec.debugBy.isNone

/-- ENCLAVE_SELF_TESTS (R433, R440): after them the identity key is derived in PROVISIONED, OWNED and RETURNED. -/
def execEnclaveSelfTests (pass : Bool) (publicKey : List Byte) (s : State) : Res :=
  .next (if s.sec.enclaveUp || publicKey.length ≠ 1952 then s
    else if !pass then enterError { s with sec := { s.sec with enclaveUp := true } }
    else
      let lc := lifecycle s
      let key := if 1 ≤ lc && lc ≤ 3 && (activeSlot s.sec.otp 6).isSome then some publicKey else none
      { s with sec := { s.sec with enclaveUp := true, tested := true, idKey := key } })

/-- ENCLAVE_ERROR_STATE (R434, R446). -/
def execEnclaveErrorState (s : State) : Res := .next (if s.sec.enclaveUp && !s.sec.error then enterError s else s)

/-- ENCLAVE_ENV_FAULT (R432). -/
def execEnclaveEnvFault (s : State) : Res := .next (if s.sec.enclaveUp && !s.sec.error then enterError s else s)

/-- ENTROPY_BUFFER_REFILL (R447). -/
def execEntropyBufferRefill (v : Word) (s : State) : Res :=
  .next (if s.sec.enclaveUp && !s.sec.error && decide (s.sec.drbg.length < 2048) then
      { s with sec := { s.sec with drbg := s.sec.drbg ++ [v] } }
    else s)

/-! The identity (R440). -/

/-- The first 48 bytes of SHAKE256 over a public key (R437, R440). -/
def keyHash (key : List Byte) : List Byte := shake256 key 48

/-- The identity public-key hash; zero with no identity. -/
def identityHash (s : State) : List Byte := match s.sec.idKey with | some k => keyHash k | none => List.replicate 48 0

/-! Mailbox requests (R435 to R437, R489). -/

/-- REQ of a request. -/
def reqCode (bs : List Byte) : Nat := ofBytes (part bs 0 2)

/-- The codes of Table 16.1. -/
def reqCodes : List Nat := [0x01, 0x02, 0x03, 0x10, 0x11, 0x20, 0x21, 0x30, 0x31]

/-- A request without authorisation is well laid out (R489); its PARAMS. -/
def plainParams (bs : List Byte) : Option (List Byte) :=
  if ofBytes (part bs 2 2) = 0 && decide (8 ≤ bs.length ∧ ofBytes (part bs 4 4) = bs.length - 8) then some (bs.drop 8) else none

/-- The Enclave serves a mailbox's request of one code: it is the first to have arrived and has no answer yet (R435). In the error
state it is refused (R434). -/
def serve (s : State) (mb : Fin 2) (code : Nat) (k : State → List Byte → State × Nat × List Byte) : State :=
  let m := s.sec.mail[mb]
  match m.current with
  | none => s
  | some bs =>
    if s.sec.enclaveUp && decide (s.sec.queue.head? = some mb) && m.answer.isNone && decide (reqCode bs = code) then
      if s.sec.error then modMail s mb fun m => { m with answer := some (stSecurity, []) }
      else
        let (s, a) := k s bs
        modMail s mb fun m => { m with answer := some a }
    else s

/-- A request that takes no PARAMS. -/
def servePlain (s : State) (mb : Fin 2) (code : Nat) (k : State → State × Nat × List Byte) : State :=
  serve s mb code fun s bs => if plainParams bs = some [] then k s else (s, stMalformed, [])

/-- A fresh nonce replaces the mailbox's earlier one. -/
def giveNonce (s : State) (mb : Fin 2) (random : List Byte) : State × Nat × List Byte :=
  (modMail s mb fun m => { m with nonce := some random }, stOK, random)

/-- GET_NONCE (R435, R489). -/
def execGetNonce (mb : Fin 2) (random : List Byte) (s : State) : Res :=
  .next (if random.length ≠ 32 then s else servePlain s mb 0x01 fun s => giveNonce s mb random)

/-- NONCE_EXPIRE (R435). -/
def execNonceExpire (mb : Fin 2) (s : State) : Res := .next (modMail s mb fun m => { m with nonce := none })

/-- GET_IDENTITY (R440, R489). -/
def execGetIdentity (mb : Fin 2) (s : State) : Res :=
  .next (servePlain s mb 0x02 fun s =>
    match s.sec.idKey with
    | some k => if lifecycle s = 0 || lifecycle s = 4 then (s, stRefused, []) else (s, stOK, k ++ keyHash k)
    | none => (s, stRefused, []))

/-- CERT_LOAD (R441, R489): `leafMatches` says that the leaf of the chain just completed holds the identity public key. -/
def execCertLoad (mb : Fin 2) (leafMatches : Bool) (s : State) : Res :=
  .next (serve s mb 0x03 fun s bs =>
    match plainParams bs with
    | none => (s, stMalformed, [])
    | some ps =>
      let off := ofBytes (part ps 0 4)
      let total := ofBytes (part ps 4 4)
      let data := ps.drop 8
      let before := if off = 0 then [] else s.sec.chainPart
      if ps.length < 8 || 4096 < data.length || 16384 < total || total < off + data.length || before.length ≠ off ||
          (off ≠ 0 && total ≠ s.sec.chainLen) then (s, stMalformed, [])
      else if s.life.locks.getLsbD 0 then (s, stLocked, [])
      else
        let got := before ++ data
        if got.length < total then ({ s with sec := { s.sec with chainPart := got, chainLen := total } }, stOK, [])
        else
          let s := { s with sec := { s.sec with chainPart := [], chainLen := 0 } }
          if leafMatches && s.sec.idKey.isSome then ({ s with sec := { s.sec with chain := got } }, stOK, []) else (s, stSecurity, []))

/-! Authorised requests (R436, R437). -/

/-- PARAMS of an authorised request that is well laid out (Table 16.2). -/
def authParams (bs : List Byte) : Option (List Byte) :=
  let n := ofBytes (part bs 4 4)
  if ofBytes (part bs 2 2) = 0 && allZero (part bs 0x29 7) && decide (n % 8 = 0 ∧ n ≤ 2880 ∧ bs.length = 0x7D0 + n + 3309) &&
      decide (ofBytes (part bs 0x28 1) ≤ 1) then some (part bs 0x7D0 n)
  else none

/-- SIGNER. -/
def reqSigner (bs : List Byte) : Fin 2 := Fin.ofNat 2 (ofBytes (part bs 0x28 1))

/-- PUBKEY's hash is that of the signer's active key slot; in MANUFACTURE an empty vendor field passes (R437 check 5). -/
def keyKnown (s : State) (signer : Fin 2) (key : List Byte) : Bool :=
  match activeContent s.sec.otp (if signer = 0 then 2 else 3) with
  | some x => decide (keyHash key = x.take 48)
  | none => decide (signer = 0 ∧ lifecycle s = 0)

/-- The checks of R437: the status of the first that fails. `refused` is check 2. -/
def authChecks (s : State) (mb : Fin 2) (bs : List Byte) (laidOut refused : Bool) (who : Option (Fin 2)) (sigOk : Bool) :
    List (Bool × Nat) :=
  [(laidOut, stMalformed), (!refused, stSecurity), (decide (s.sec.mail[mb].nonce = some (part bs 8 32)), stSecurity),
   (decide (who = some (reqSigner bs)), stSecurity), (keyKnown s (reqSigner bs) (part bs 0x30 1952), stSecurity), (sigOk, stSecurity)]

/-- Serve an authorised request: its nonce is consumed when it presents it, whatever comes of it (R435). -/
def serveAuth (s : State) (mb : Fin 2) (code : Nat) (sigOk : Bool) (laidOut : List Byte → Bool) (refused : State → Bool)
    (who : State → List Byte → Option (Fin 2)) (k : State → Fin 2 → List Byte → State × Nat) : State :=
  serve s mb code fun s bs =>
    let ps := (authParams bs).getD []
    let cs := authChecks s mb bs ((authParams bs).isSome && laidOut ps) (refused s) (who s ps) sigOk
    let used := decide (s.sec.mail[mb].nonce = some (part bs 8 32))
    let s := if used then modMail s mb fun m => { m with nonce := none } else s
    match firstFail cs with
    | some st => (s, st, [])
    | none => let (s, st) := k s (reqSigner bs) ps; (s, st, [])

/-- Set the OTP store. -/
def setOtp (s : State) (m : Memory) : State := { s with sec := { s.sec with otp := m } }

/-- Everything that R413 wipes. -/
def wipeAll (s : State) : State :=
  { s with
    hbm := { s.hbm with mem := [], bad := [] }, sites := s.sites.map fun x => { x with bench := [], bad := [] },
    cores := s.cores.map fun k => { k with
      threads := Vector.replicate 2 thread0, tiles := Vector.replicate 32 tile0, status := Vector.replicate 32 TileStatus.zero,
      planes := Vector.replicate 4 planes0, slots := Vector.replicate 32 (Vector.replicate 32 slotRow0) },
    trace := { s.trace with queue := [], lost := [] } }

/-- The steps of R426 that follow the programming: keys are destroyed, the device halts and wipes everything. -/
def afterMove (s : State) : State :=
  let s := zeroiseKeys s
  haltDevice (wipeAll { s with sec := { s.sec with debugOpen := false } }) 0

/-- A move to a life-cycle state (R425, R426, R451). -/
def moveLife (s : State) (dest : Nat) (ownerHash : List Byte) (readBackOk : Bool) : State × Nat :=
  let lc := lifecycle s
  if launchOpen s || (lc = 0 && dest = 1 && otpLacking s 1) then (s, stSecurity)
  else if dest = 2 then
    if (freeSlot s.sec.otp 3) ≠ some 0 || ownerHash.length ≠ 48 then (s, stSecurity)
    else
      let s := setOtp s (slotSet s.sec.otp 3 0 (ownerHash ++ List.replicate 8 0) readBackOk)
      if readBackOk then (afterMove (setOtp s (thermoSet s.sec.otp 0 dest)), stOK) else (s, stSecurity)
  else
    let m := if dest = 4 then seedsScrapped s.sec.otp else s.sec.otp
    (afterMove (setOtp s (thermoSet m 0 dest)), stOK)

/-- PARAMS of OTP_PROGRAM are well laid out (R436). -/
def otpParamsOk (ps : List Byte) : Bool :=
  let f := ofBytes (part ps 0 1)
  if f ≤ 1 then decide (ps.length = 8) && allZero (part ps 2 6) && decide (ofBytes (part ps 1 1) ≤ if f = 0 then 4 else 128)
  else
    match slotField f with
    | some (_, n) => decide (ps.length = n) && allZero (part ps 1 7) &&
        (f ≠ 4 || (List.range 16).all fun c => decide (ofBytes (part ps (8 + 2 * c) 2) < 2 ^ 13))
    | none => false

/-- OTP_PROGRAM (R421, R422, R436). LIFECYCLE changes by the moves of Table 15.8 only (R425), and the move to OWNED needs the hash
that LIFECYCLE_MOVE carries. -/
def execOtpProgram (mb : Fin 2) (sigOk readBackOk : Bool) (s : State) : Res :=
  .next (serveAuth s mb 0x10 sigOk otpParamsOk (fun s => s.life.locks.getLsbD 4)
    (fun s ps =>
      let f := ofBytes (part ps 0 1)
      if f = 0 then moveAuthority (lifecycle s) (ofBytes (part ps 1 1)) else otpAuthority f (lifecycle s))
    fun s _ ps =>
      let f := ofBytes (part ps 0 1)
      let v := ofBytes (part ps 1 1)
      if f = 0 then moveLife s v [] readBackOk
      else if f = 1 then
        let most := match s.life.image with | some i => i.version | none => 0
        if otpVersion s < v && v ≤ most then (setOtp s (thermoSet s.sec.otp 0x10 v), stOK) else (s, stSecurity)
      else
        match freeSlot s.sec.otp f with
        | none => (s, stSecurity)
        | some k => (applyTrims (setOtp s (slotSet s.sec.otp f k (ps.drop 8) readBackOk)), if readBackOk then stOK else stSecurity))

/-- LIFECYCLE_MOVE (R425, R426, R436, R451). -/
def execLifecycleMove (mb : Fin 2) (sigOk readBackOk : Bool) (s : State) : Res :=
  .next (serveAuth s mb 0x11 sigOk
    (fun ps => decide (ps.length = if ofBytes (part ps 0 1) = 2 then 56 else 8))
    (fun s => s.life.locks.getLsbD 4 || launchOpen s)
    (fun s ps => moveAuthority (lifecycle s) (ofBytes (part ps 0 1)))
    fun s _ ps => moveLife s (ofBytes (part ps 0 1)) (ps.drop 8) readBackOk)

/-- DEBUG_CHALLENGE (R448). -/
def execDebugChallenge (mb : Fin 2) (random : List Byte) (s : State) : Res :=
  .next (if random.length ≠ 32 then s
    else servePlain s mb 0x20 fun s => if s.life.locks.getLsbD 1 then (s, stSecurity, []) else giveNonce s mb random)

/-- DEBUG_UNLOCK (R448). LOCK_DBG, checked again after the signature, cannot have changed within the command. -/
def execDebugUnlock (mb : Fin 2) (sigOk : Bool) (s : State) : Res :=
  .next (serveAuth s mb 0x21 sigOk (fun ps => ps.isEmpty) (fun s => s.life.locks.getLsbD 1)
    (fun s _ => debugAuthority (lifecycle s))
    fun s signer _ =>
      let s := dropIde s
      ({ s with sec := { s.sec with sessions := [], debugOpen := true, debugBy := some signer } }, stOK))

/-- ZEROISE (R450): the Enclave then behaves as in its error state. -/
def execZeroise (mb : Fin 2) (s : State) : Res :=
  .next (servePlain s mb 0x30 fun s =>
    let s := zeroiseKeys s
    ({ s with sec := { s.sec with error := true } }, stOK, []))

/-- SELF_TEST (R433, R434): a request under which the error state is entered ends with SECURITY_REFUSED. -/
def execSelfTest (mb : Fin 2) (pass : Bool) (s : State) : Res :=
  .next (servePlain s mb 0x31 fun s => if pass then (s, stOK, []) else (enterError s, stSecurity, []))

/-! SPDM (R441 to R443). -/

/-- A session is established. -/
def inSession (s : State) (id : Nat) : Bool := s.sec.sessions.contains (id, true)

/-- Number and content of a field's active slot (Table 16.6). -/
def slotReport (s : State) (f : Nat) : List Byte :=
  match activeSlot s.sec.otp f, activeContent s.sec.otp f with
  | some k, some x => BitVec.ofNat 8 k :: x
  | _, _ => [0xFF]

/-- Who unlocked debug: 0 none, 1 vendor, 2 owner (Table 18.12). -/
def unlockedBy (s : State) : Nat := match s.sec.debugBy with | some x => x.1 + 1 | none => 0

/-- Header digest and SECURITY_VERSION of the image in force. -/
def imageDigest (s : State) : List Byte := match s.life.image with | some i => i.digest | none => List.replicate 64 0
def imageVersion (s : State) : Nat := match s.life.image with | some i => i.version | none => 0

/-- The measurement blocks (Table 16.6). -/
def measurement (s : State) (i : Nat) : List Byte :=
  if i = 1 then Config.romDigest
  else if i = 2 then imageDigest s
  else if i = 3 then toBytes 1 (imageVersion s) ++ toBytes 1 (otpVersion s)
  else if i = 4 then toBytes 1 (lifecycle s)
  else if i = 5 then toBytes 8 s.life.locks.toNat
  else if i = 6 then slotReport s 2 ++ slotReport s 3
  else toBytes 1 (approvedMode s).toNat ++ toBytes 1 (unlockedBy s) ++ toBytes 2 (min s.sec.errors 0xFFFF)

/-- A session ends, and the IDE keys that came in it are destroyed (Table 16.7). -/
def endSession (s : State) (id : Nat) : State :=
  { s with sec := { s.sec with
      sessions := s.sec.sessions.filter fun x => decide (x.1 ≠ id),
      ide := s.sec.ide.map fun x => if x.session = some id then ideStream0 else x } }

/-- What the responder answers, and the state after it (R441 to R443, R452). -/
def spdmAnswer (s : State) : SpdmReq → State × SpdmAns
  | .negotiate offers => (s, if offers then .algorithms else .error)
  | .digests => (s, .digests s.sec.chain)
  | .certificate off len => (s, if s.sec.chain.isEmpty then .error else .certificate (part s.sec.chain off len))
  | .challenge secured nonce =>
    (s, if s.sec.chain.isEmpty || s.sec.idKey.isNone || (s.sec.policy.getLsbD 2 && !secured) then .error else .challenged nonce)
  | .measurements secured index =>
    (s, if s.sec.policy.getLsbD 2 && !secured then .error
      else if index = 0 then .measurements []
      else if index = 0xFF then .measurements ((List.range 7).map fun i => (i + 1, measurement s (i + 1)))
      else if index ≤ 7 then .measurements [(index, measurement s index)]
      else .error)
  | .keyExchange id =>
    if s.sec.sessions.length < 4 && s.sec.sessions.all (fun x => decide (x.1 ≠ id)) && s.sec.idKey.isSome then
      ({ s with sec := { s.sec with sessions := s.sec.sessions ++ [(id, false)] } }, .session id)
    else (s, .error)
  | .finish id verified =>
    if s.sec.sessions.contains (id, false) then
      if verified then
        ({ s with sec := { s.sec with sessions := s.sec.sessions.map fun x => if x.1 = id then (id, true) else x } }, .finished id)
      else (endSession s id, .error)
    else (s, .error)
  | .heartbeat id => (s, if inSession s id then .alive id else .error)
  | .keyUpdate id => (s, if inSession s id then .alive id else .error)
  | .endSession id => if inSession s id then (endSession s id, .ended id) else (s, .error)
  | .unsupported => (s, .error)

/-- SPDM_REQUEST (R442): in the error state the Enclave answers with an error (R434). -/
def execSpdmRequest (req : SpdmReq) (s : State) : Res :=
  .next (if s.life.state.isNone || !s.sec.enclaveUp then s
    else if s.sec.error then s.emit (.spdm .error)
    else
      let (s, a) := spdmAnswer s req
      s.emit (.spdm a))

/-! CXL IDE (R444). -/

/-- While LOCK_SEC is set, only the alternate key set of a Secure stream may be written or switched to (R444). -/
def ideAllowed (s : State) (stream : Fin 4) (set : Fin 2) : Bool :=
  let x := s.sec.ide[stream]
  !s.life.locks.getLsbD 0 || (x.secure && decide (x.active ≠ some set))

/-- IDE_KM_KEY_PROG (R444). -/
def execIdeKmKeyProg (session : Nat) (stream : Fin 4) (set : Fin 2) (rx : Bool) (s : State) : Res :=
  .next (if inSession s session && !s.sec.error && ideAllowed s stream set then
      { s with sec := { s.sec with ide := vmod s.sec.ide stream fun x =>
          { x with session := some session,
                   sets := vmod x.sets set fun k => if rx then { k with rx := true } else { k with tx := true } } } }
    else s)

/-- IDE_KM_K_SET_GO (R444): the set must hold both keys. -/
def execIdeKmKSetGo (session : Nat) (stream : Fin 4) (set : Fin 2) (s : State) : Res :=
  .next (
    let k := s.sec.ide[stream].sets[set]
    if inSession s session && !s.sec.error && ideAllowed s stream set && k.rx && k.tx then
      { s with sec := { s.sec with ide := vmod s.sec.ide stream fun x => { x with active := some set, secure := true } } }
    else s)

/-- IDE_INTEGRITY_FAIL (R444): the stream is Insecure and its keys are given up. -/
def execIdeIntegrityFail (stream : Fin 4) (s : State) : Res :=
  .next (if s.sec.ide[stream].secure then
      ({ s with sec := { s.sec with ide := vset s.sec.ide stream ideStream0 } }).emit (.aer stream)
    else s)

/-! Firmware (R405, R438, R439). -/

/-- Step 1 of R439: the fields and the reserved bytes of the signature block. -/
def blockOk (bs : List Byte) : Bool :=
  decide (16384 ≤ bs.length) && decide (ofBytes (part bs 0 4) = 0x57465645 ∧ ofBytes (part bs 4 2) = 1 ∧ ofBytes (part bs 6 2) ≤ 1 ∧
      ofBytes (part bs 8 4) ≤ 128 ∧ ofBytes (part bs 0xC 4) = bs.length - 16384 ∧ ofBytes (part bs 0x10 4) = 0x960) &&
    allZero (part bs 0x14 12) && allZero (part bs 0x14ED 787) && allZero (part bs 0x1FA0 96) && allZero (part bs 0x2CED 4883)

/-- Verify an image in the order of R439: the start-failure code, 0 when it passes. -/
def verifyImage (s : State) (bs : List Byte) (vendorSigOk ownerSigOk : Bool) : Nat :=
  let owned := decide (lifecycle s = 2)
  let ownerKey := match activeContent s.sec.otp 3 with | some x => decide (keyHash (part bs 0x1800 1952) = x.take 48) | none => false
  if s.sec.error || !blockOk bs || !keyKnown s 0 (part bs 0x60 1952) || shake256 (bs.drop 16384) 64 ≠ part bs 0x20 64 || !vendorSigOk ||
      (owned && !((ofBytes (part bs 6 2)).testBit 0 && ownerKey && ownerSigOk)) then 0x01
  else if ofBytes (part bs 8 4) < otpVersion s then 0x02
  else 0

/-- Wipe the staging benches, those of sites 0 to 63 (R405). -/
def wipeStaging (s : State) : State :=
  { s with sites := Vector.ofFn fun i => if i.1 < 64 then { s.sites[i] with bench := [], bad := [] } else s.sites[i] }

/-- Stage the bytes of an image, 1.5 MiB to a bench (R405). -/
def stageImage (s : State) (bs : List Byte) : State :=
  { s with sites := Vector.ofFn fun i =>
      if i.1 < 64 then { s.sites[i] with bench := Memory.cells 0 (part bs (Config.benchEnd * i.1) Config.benchEnd), bad := [] } else s.sites[i] }

/-- The bytes staged. -/
def stagedBytes (s : State) (n : Nat) : List Byte :=
  ((List.finRange 208).take 64).flatMap (fun i => s.sites[i].bench.read 0 (min Config.benchEnd (n - Config.benchEnd * i.1)))

/-- FW_LOAD (R405, R423, R424): the image that the host read brings, or none when the read fails. -/
def execFwLoad (sq : RingId) (image : Option (List Byte)) (s : State) : Res :=
  .next (dispatch s sq
    (fun d => decide (d.opc = 5) && (match image with | some bs => decide (bs.length = d.word 2) | none => true))
    fun s d h =>
      let src := d.word 1
      let n := d.word 2
      checked s h
        [(headOk d 0 && d.zeroFrom 3 && decide (src % 4096 = 0 ∧ n % 4096 = 0 ∧ 4096 ≤ n ∧ n ≤ 67108864), stMalformed),
         (inStates s [1] && s.life.staged.isNone && s.life.image.isNone && s.power.colRails, stRefused),
         (decide (lifecycle s ≠ 4) && !otpLacking s (lifecycle s), stSecurity)]
        (let s := (wipeStaging s).emit (.hostRead src n)
         match image with
         | none => answerDesc s h stBadAddress 0
         | some bs =>
           let s := acceptItem (stageImage s bs) d h .fwLoad
           { s with life := { s.life with staged := some n } }))

/-- FW_VERIFY_DONE (R405, R406, R439). -/
def execFwVerifyDone (vendorSigOk ownerSigOk : Bool) (s : State) : Res :=
  .next (match s.life.staged, s.items.find? fun i => decide (i.kind = .fwLoad ∧ i.closing = false) with
    | some n, some i =>
      if !s.sec.enclaveUp then s
      else
        let bs := stagedBytes s n
        let code := verifyImage s bs vendorSigOk ownerSigOk
        if code = 0 then
          let v := ofBytes (part bs 8 4)
          finishItem { s with life := { s.life with
            staged := none, image := some ⟨bs, shake256 (bs.take 0x60) 64, v⟩, stage := 2, step := 1 } } i stOK v
        else
          let s := wipeStaging s
          finishItem { s with life := { s.life with staged := none, failCode := code } } i stSecurity 0
    | _, _ => s)

end Sys2Proof.Machine
end

