-- ==== Sys2Proof/Machine/Resilience.lean ====
section
/-! DEFINITION. Detection, recompute, anchor replay and repair (07, 08, 13): PASS_RECOMPUTE, ANCHOR_REPLAY and the end of replay mode,
fences in service, HBM sector errors and restores, lane repair and retirement, refresh and scrub; packets that waited. -/
namespace Sys2Proof.Machine

/-! Aborting a pass (R131, R154, R214, R346 to R349). -/

/-- A tile with the elements of the masks set to +0 (R131). -/
def clearTouched (t : Tile) (x : Touched) : Tile :=
  Vector.ofFn fun i => if x.rows.getLsbD i.1 then Vector.ofFn fun j => if x.cols.getLsbD j.1 then 0 else t[i][j] else t[i]

/-- What an aborted pass has done to its core is undone: tiles, status words, slots, planes, events (R131, R154, R214). -/
def undoPass (k : Core) (t : Thread) (id : ThreadId) : Core :=
  let tiles := t.touched.foldl (fun ts x => vmod ts (Fin.ofNat 32 x.tile) fun y => clearTouched y x) k.tiles
  let status := t.statusSn.foldl (fun ss x => vset ss (Fin.ofNat 32 x.tile) x.old) k.status
  let slots := t.slotSn.foldl (fun ss x => vset ss x.slot x.old) k.slots
  let ev := t.consumed.foldl (fun es x => vset es x.ev (es[x.ev] + BitVec.ofNat 32 x.amount)) k.ev
  { k with tiles := tiles, status := status, slots := slots, ev := ev, planes := lanePlanes k.split id t.planesAt k.planes }

/-- The thread back at its checkpoint, with its operations cancelled and its held effects discarded. Where the pass's first line is
resident no more, its lines go as at a branch to it (R190). -/
def Thread.back (t : Thread) : Thread :=
  { t with
    regs := t.ckpt.regs, pos := t.ckpt.pos, vvPos := t.ckpt.vvPos, passed := t.ckpt.passed, steps := t.ckpt.steps, st := .running, noticed := t.ckpt.pos,
    sb := [], hold := [], faddRegs := [], written := 0, touched := [], statusSn := [], slotSn := [], consumed := [], stepNo := 0, waitAt := none,
    cue := if t.cue.any fun l => decide (l.line = t.ckpt.pos / 512) then t.cue else [],
    refill := t.refill || !(t.cue.any fun l => decide (l.line = t.ckpt.pos / 512)) }

/-- Drop the open READ_REQs of GATHERs that a test names. -/
def dropReads (s : State) (gone : ThRef → Bool) : State :=
  let out (q : ReadReq) : Bool := match q.use with | .gather th _ _ _ _ _ _ => gone th | .sector _ => false
  let ids := (s.fabric.reads.filter out).map (·.id)
  { s with fabric := { s.fabric with
    reads := s.fabric.reads.filter fun q => !out q
    tracked := s.fabric.tracked.filter fun t => !(t.pkt.ty = tyREADREQ && ids.contains t.pkt.index) } }

/-- Abort a thread's pass and begin it again (R214). The send index stays: nothing of the pass has taken one. -/
def abortPass (s : State) (r : ThRef) : State :=
  let t := s.th r
  let s := traceThread s r 3 t.pos ((wordAt t t.pos).getD 0)
  let s := s.modCore r.core fun k => undoPass k (k.threads[r.t]) r.t
  let s := s.modTh r fun t => { t.back with detections := t.detections + 1 }
  dropReads s fun x => decide (x = r)

/-! Anchor replay (R350 to R357, R362 to R368). -/

/-- The columns' sites of a logical row before and after a change of slide. -/
def movedRows (old new : Fin 16) : List Nat := ((List.range 12).filter fun r => decide (siteRow old r ≠ siteRow new r)).reverse

/-- The failing halves of a site's bench in a range. -/
def badHalves (s : State) (site : SiteId) (base len : Nat) : List Nat := s.sites[site].bad.filter fun h => overlaps h 64 base len

/-- R363 step 4: the RED_BENCH window of an open group moves with a logical core, the lowest row first. A half that fails its code
is moved with it. -/
def moveWindow (s : State) (c : Fin 16) (old new : Fin 16) (base len row : Nat) : State :=
  let from_ : SiteId := Fin.ofNat 208 (16 * siteRow old row + c.1)
  let site : SiteId := Fin.ofNat 208 (16 * siteRow new row + c.1)
  let cells := s.sites[from_].bench.window base len
  { s with sites := vmod s.sites site fun x =>
      { x with bench := x.bench.place base len cells,
               bad := (x.bad.filter fun h => !overlaps h 64 base len) ++ badHalves s from_ base len } }

/-- A row that the move of a column's windows copies fails its code, and a round of its group uses it (R365). DESIGN CHOICE (log entry
79): every round of the group that has begun and has not written its spans uses it. -/
def moveFails (s : State) (c : Fin 16) (old new : Fin 16) : Bool :=
  (List.finRange 256).any fun g => match s.red.groups[g] with
    | some x =>
      (s.red.insts.any fun (k, i) => decide (k.1 = g.1) && roundBegun s g.1 i) &&
        (movedRows old new).any fun r => !(badHalves s (Fin.ofNat 208 (16 * siteRow old r + c.1)) x.redBase x.redLen).isEmpty
    | none => false

/-- Fence a core's site in service (R363). True when a replay follows: a spare was left, and the moves met no failing row (R365). -/
def fenceCore (s : State) (core : CoreId) : State × Bool :=
  let c := coreCol core
  let row := (siteOf s core).1 / 16
  let old := s.life.slide[c]
  let m := s.life.masks[c] ||| BitVec.ofNat 13 (2 ^ row)
  let s := { s with life := { s.life with slideWas := s.life.slide } }
  let s := (setMask s c m).countRun fun x => { x with fences := sat64 x.fences 1 }
  if maskExhausted m then (enterDegraded (haltLaunch s .spare), false)
  else
    let new := slideOf m
    let fails := moveFails s c old new
    let s := (s.red.groups.toList.filterMap id).foldl (fun s g =>
      (movedRows old new).foldl (fun s r => moveWindow s c old new g.redBase g.redLen r) s) s
    let s := eventRecord s 2 stFenced [(9, 1, row), (10, 1, c.1), (11, 1, new.1)]
    (if fails then haltLaunch s .checksum else s, !fails)

/-- The most recent complete anchor (R217). -/
def lastAnchor (l : Launch) : Option AnchorRec :=
  (l.anchors.filter AnchorRec.complete).foldl (fun m a => match m with | some b => if a.number < b.number then m else some a | none => some a) none

/-- Restore a thread from an anchor (R351). -/
def restoreThread (a : AnchorCore) (id : ThreadId) (t : Thread) : Thread :=
  let k := a.ckpts[id]
  let st : ThState := match a.states[id] with
    | .atAnchor _ _ => .running
    | .loading => .running
    | x => x
  let mark : Option Nat × Nat × Nat := match t.stopPos with
    | some (w, ix, n) => if t.steps < n then (w, ix, n) else (t.window, t.pos, t.steps)
    | none => (t.window, t.pos, t.steps)
  { t with
    st := st, stream := t.mainStream <|> t.stream, mainStream := none, mainCkpt := none, window := a.windows[id], pos := k.pos,
    regs := k.regs, cue := [], refill := true, sb := [], hold := [], acks := [], faddRegs := [], written := 0, touched := [],
    statusSn := [], slotSn := [], consumed := [], ckpt := k, passed := k.passed, anchorNo := a.anchors[id], detections := 0,
    waitAt := none, vvPos := 0, relMark := max t.relMark t.relCnt, relCnt := k.relCnt, steps := 0, stopPos := some mark, stepNo := 0,
    planesAt := Vector.replicate 4 planes0 }

/-- Restore a core from an anchor, but for its bench (R351); the windows its threads were in are left (R225). -/
def restoreCore (s : State) (a : AnchorCore) (k : Core) : Core :=
  { k with
    live := leftWindows s k
    threads := Vector.ofFn fun i => restoreThread a i k.threads[i]
    tiles := a.tiles.foldl (fun ts (n, t, _) => vset ts (Fin.ofNat 32 n) t) (Vector.replicate 32 tile0)
    status := a.tiles.foldl (fun ss (n, _, x) => vset ss (Fin.ofNat 32 n) x) (Vector.replicate 32 TileStatus.zero)
    planes := Vector.replicate 4 planes0
    slots := a.slots.getD (Vector.replicate 32 (Vector.replicate 32 slotRow0))
    ev := a.ev, sendIx := a.sendIx }

/-- Restore the live bench banks of a core at its present site (R351). -/
def restoreBanks (s : State) (c : CoreId) (a : AnchorCore) : State :=
  { s with sites := vmod s.sites (siteOf s c) fun x =>
      { x with bench := a.banks.foldl (fun m (b, cells) => m.place (65536 * b) 65536 cells) x.bench,
               bad := a.banks.foldl (fun l (b, _) => dropSectors l (65536 * b) 65536) x.bad } }

/-- A GATHER of a restored entry is issued again (R180): what is copied within the chip is complete at once. -/
def regather (s : State) (i : Nat) (f : Fill) : State :=
  match Fmt.ofCode (f.desc.fmt % 16) with
  | none => s
  | some fm =>
    let s := gatherReads s f.th f.index f.no f.desc fm
    if f.desc.chip = s.chipId then
      partDone (modBuf s i fun e => { e with fills := e.fills.map fun g => if g.no = f.no then { g with done := true } else g }) i
    else s

/-- Restore the buffer table and gather again what filled each entry that is not FREE (R180, R351). -/
def restoreBufs (s : State) (bufs : Vector BufEntry 256) : State :=
  let reset (e : BufEntry) : BufEntry :=
    if e.st = .free then e
    else { e with st := .filling, parts := e.parts + e.fills.length, again := decide (e.st = .ready), owner := none,
                  fills := e.fills.map fun f => { f with done := false, step := none } }
  let n := (bufs.toList.filter fun e => decide (e.st = .ready)).length
  let s := ({ s with bufs := bufs.map reset }).modLaunch fun l => { l with regather := n }
  (List.range 256).foldl (fun s i => (bufOf s i).fills.foldl (fun s f => regather s i f) s) s

/-- A sector of the anchor half failed in both copies (R356). -/
def anchorLost (s : State) (l : Launch) (a : AnchorRec) : Bool :=
  let base := l.d.anchorBase + a.number % 2 * Config.anchorHalf
  s.hbm.bad.any fun x => overlaps x 64 base Config.anchorHalf &&
    (mirrorParts s x 64).all fun (_, m, _) => s.hbm.bad.contains m

/-- A replay begins: REP (R52, R357), and its counts. -/
def beginReplay (s : State) : State :=
  ((s.count fun c => { c with repCount := sat64 c.repCount 1 }).flagExc excREP).countRun fun c => { c with replays := sat64 c.replays 1 }

/-- Steps 1, 2, 3, 5 and 6 of R350. -/
def replayFrom (s : State) (l : Launch) (a : AnchorRec) : State :=
  let s := dropReads s fun _ => true
  let s := s.participants.foldl (fun s r => traceThread s r 7 (s.th r).pos ((wordAt (s.th r) (s.th r).pos).getD 0)) s
  let s := a.cores.foldl (fun s (c, x) => restoreBanks (s.modCore c (restoreCore s x)) c x) s
  let s := { s with fabric := { s.fabric with localAccepted := a.localAccepted } }
  let s := s.modLaunch fun k =>
    { k with replay := true, attempts := k.attempts + 1, replayFrom := if l.replay then l.replayFrom else s.tally.toNat,
             journal := k.journal.map fun e => { e with applied := false } }
  restoreBufs s a.bufs

/-! Restores (R185, R264, R371). -/

/-- Ask a peer for a sector (Table 7.9); a launch that waits for it is noted, whoever asked first. -/
def askPeer (s : State) (a chip : Nat) (held : Bool) : State :=
  let s := if held then s.modLaunch fun l =>
      if l.peerWait.any fun x => decide (x.1 = a) then l else { l with peerWait := l.peerWait ++ [(a, s.tally.toNat)] }
    else s
  if s.fabric.reads.any fun q => decide (q.use = ReadFor.sector a) then s
  else
    let q : ReadReq := { id := s.fabric.nextReq % 2 ^ 32, chip := chip, addr := a, len := 64, use := .sector a, sent := false,
                         since := s.tally.toNat }
    let s := { s with fabric := { s.fabric with reads := s.fabric.reads ++ [q], nextReq := s.fabric.nextReq + 1 } }
    pumpReads s.fabric.reads.length s

/-- Ask the host for a sector (R264): a KIND 2 record on the launch's ring. -/
def askHost (s : State) (a slot : Nat) : State :=
  match s.launch with
  | none => s
  | some l =>
    if l.restoreReq.any fun x => decide (x.1 = a) then s
    else
      let s := s.modLaunch fun l => { l with restoreReq := l.restoreReq ++ [(a, s.tally.toNat)] }
      writeRecord s (cqOf s l.h.sq)
        { tag := l.h.tag, opc := l.h.opc, status := stChecksum, sq := l.h.sq.1, kind := 2, slot := l.h.slot,
          body := recBody [(8, 8, a), (0x10, 1, slot)], more := false, irq := false, closes := none }

/-- A sector that fails as a retirement moves it: restored from its region's source, when it has one; else moved as read (R371). -/
def moveSector (s : State) (a : Nat) : State :=
  match otherCopy s a with
  | some (o, _) => if s.hbm.bad.contains o then s else restoreFrom s a o
  | none =>
    match regionAt s a with
    | some (_, ⟨_, _, .peer chip⟩) => askPeer s a chip false
    | some (slot, ⟨_, _, .host⟩) => if s.launchActive then askHost s a slot else s
    | _ => s

/-- Retire a pseudo-channel (R371): it takes the next slot, and the sectors that move with it, or with the redirections it changes, are
checked as they move. Without a slot it stays, and its stack is marked (R167). -/
def retirePc (s : State) (pc : Fin 256) : State :=
  if s.hbm.retired.contains pc.1 then s
  else if 4 ≤ s.hbm.retired.length then
    { s with hbm := { s.hbm with exhausted := s.hbm.exhausted ||| BitVec.ofNat 8 (2 ^ (pc.1 % 8)) } }
  else
    let s' := { s with hbm := { s.hbm with retired := s.hbm.retired ++ [pc.1] } }
    let moved := s.hbm.bad.filter fun a => decide (placeOf s a ≠ placeOf s' a)
    (moved.foldl moveSector s').countRun fun c => { c with pcRetired := sat64 c.pcRetired 1 }

/-- Restores within 3,600 s that showed a lane of a channel at fault. -/
def laneFails (s : State) (chan lane : Nat) : Nat :=
  (s.hbm.lanes.filter fun x => decide (x.chan = chan ∧ x.lane = lane ∧ s.tally.toNat ≤ x.tick + 1890000000000)).length

/-- Redundant lanes left to a channel. -/
def lanesLeft (s : State) (chan : Nat) : Bool :=
  decide ((s.hbm.repaired.filter fun (c, _) => decide (c = chan)).length < Config.redundantLanes)

/-- A lane fails in a channel that has no redundant lane left (R371). -/
def laneLost (s : State) (chan : Nat) : Bool :=
  (s.hbm.lanes.any fun x => decide (x.chan = chan) && decide (3 ≤ laneFails s chan x.lane) && !s.hbm.repaired.contains (chan, x.lane)) &&
    !lanesLeft s chan

/-- R370 accounts for a sector's error: a restore showed it on a lane that has been repaired. -/
def accounted (s : State) (a : Nat) : Bool := s.hbm.lanes.any fun x => decide (x.sector = a) && s.hbm.repaired.contains (x.chan, x.lane)

/-- Is a pseudo-channel to be retired (R371)? -/
def retireDue (s : State) (pc : Nat) : Bool :=
  let recent := s.hbm.badHist.filter fun (p, a, t) => decide (p = pc ∧ s.tally.toNat ≤ t + 45360000000000) && !accounted s a
  decide (16 ≤ (recent.map (·.2.1)).eraseDups.length) || laneLost s (chanOf pc)

/-- Retire what a failing pseudo-channel calls for: itself, or with a lane lost both of its channel (R371). -/
def retireAll (s : State) (pc : Fin 256) : State :=
  if laneLost s (chanOf pc.1) then (pcsOf (chanOf pc.1)).foldl retirePc s else retirePc s pc

/-- A fence of the core leaves its column no spare (R362). -/
def exhausts (s : State) (core : CoreId) : Bool :=
  maskExhausted (s.life.masks[coreCol core] ||| BitVec.ofNat 13 (2 ^ ((siteOf s core).1 / 16)))

/-- A chip replay (R350) for a cause: nothing without an anchor; the fifth from one anchor halts the launch (R356). -/
def replay (s : State) (why : ReplayCause) : State :=
  match s.launch with
  | none => s
  | some l =>
    if l.st ≠ .active then s
    else
      match lastAnchor l with
      | none => s
      | some a =>
        if 4 ≤ l.attempts then haltLaunch s .internal
        else
          let (s, go) := match why with
            | .detected _ | .stored _ _ | .port _ _ _ | .tableEntry => (beginReplay s, true)
            | .fence core => if exhausts s core then fenceCore s core else fenceCore (beginReplay s) core
            | .retire pc => (retireAll (beginReplay s) pc, true)
          if !go then s
          else if anchorLost s l a then haltLaunch s .checksum
          else replayFrom s l a

/-- Detections attributed to a core since the last anchor (R347). -/
def chargeCore (s : State) (c : CoreId) (n : Nat) : State := s.modCore c fun k => { k with detections := k.detections + n }

/-- A detection that is answered with a replay, charged to its core; the 32nd between anchors fences it (R347). -/
def chargedReplay (s : State) (c : CoreId) : State :=
  let s := if s.launchActive then chargeCore s c 1 else s
  if s.launchActive && decide (32 ≤ (s.core c).detections) then replay s (.fence c) else replay s (.detected (some c))

/-- A half of a site's bench is known to fail (R183). -/
def markHalf (s : State) (site : SiteId) (a : Nat) : State :=
  let h := a / 64 * 64
  { s with sites := vmod s.sites site fun x => { x with bad := if x.bad.contains h then x.bad else x.bad ++ [h] } }

/-- A stored error at a place of a core (R184): it is counted; in a launch the chip replays, and a second find at one row, element or
row entry fences the core (R347). -/
def storedFind (s : State) (c : CoreId) (p : CorePlace) : State :=
  let s := s.countRun fun x => { x with stored := sat64 x.stored 1 }
  let s := match p with | .half a => markHalf s (siteOf s c) a | _ => s
  if !s.launchActive then s
  else if (s.core c).storedAt.contains p.key then replay s (.fence c)
  else chargedReplay (s.modCore c fun k => { k with storedAt := k.storedAt ++ [p.key] }) c

/-- ANCHOR_REPLAY (R350), by its cause. A table entry loaded again from its master copy is what it was (Table 7.8). -/
def execAnchorReplay (why : ReplayCause) (s : State) : Res :=
  .next (match why with
    | .detected (some c) => chargedReplay s c
    | .stored c p => storedFind s c p
    | .port c half true => storedFind s c (.half half)
    | .port c _ false => chargedReplay (s.countRun fun x => { x with transient := sat64 x.transient 1 }) c
    | .detected none | .tableEntry | .fence _ | .retire _ => replay s why)

/-- A thread's pass can be aborted: it is in one, and none of its effects has been released. -/
def inPass (t : Thread) : Bool :=
  match t.st with
  | .running => true
  | .awaiting _ _ => true
  | .awaitingAny _ _ => true
  | _ => false

/-- A detection in a pass (R214, R346, R347, R349, R356): the pass again; the third of one pass or the 32nd of a core between
anchors fences the core; in replay mode the replay begins again. -/
def detect (s : State) (r : ThRef) (lost : Nat) : State :=
  let active := match s.launch with | some l => decide (l.st = .active) | none => false
  if !active || !inPass (s.th r) then s
  else
    let s := loseCycles (chargeCore s r.core 1) lost
    if 2 ≤ (s.th r).detections || 32 ≤ (s.core r.core).detections then replay s (.fence r.core)
    else if inReplay s then replay s (.detected (some r.core))
    else
      let s := s.count fun c => { c with recCount := sat64 c.recCount 1 }
      (abortPass s r).countRun fun c => { c with recomputes := sat64 c.recomputes 1 }

/-- What a detection does before the pass is aborted (Table 7.8): a transient error is counted; a line of the cue buffer goes, and is
fetched again. -/
def noteCause (s : State) (r : ThRef) : PassCause → State
  | .logic => s
  | .transient _ => s.countRun fun c => { c with transient := sat64 c.transient 1 }
  | .cueLine n => s.modTh r fun t => { t with cue := t.cue.filter (·.line ≠ n) }

/-- PASS_RECOMPUTE (R214). -/
def execPassRecompute (th : ThRef) (found : PassDetection) (s : State) : Res :=
  .next (detect (noteCause s th found.cause) th found.lost)

/-- REDUCTION_JOIN_REPEAT: a join whose residue code failed (R348) gives the same bits again, and three failed attempts of one join fence
the core; an addition that failed the Assayer's linear check is repeated once, and its second failure halts the launch (R329). -/
def execReductionJoinRepeat (core : CoreId) (failures : JoinFailures) (s : State) : Res :=
  .next (if !s.launchActive then s
    else match failures with
    | .linear 0 => s
    | .residue 0 => s
    | .linear n =>
      let s := ((s.flagExc excREC).count fun c => { c with recCount := sat64 c.recCount 1 }).countRun fun c =>
        { c with assayerFails := sat64 c.assayerFails n }
      if 2 ≤ n then haltLaunch s .checksum else s
    | .residue n =>
      let s := chargeCore (s.flagExc excREC) core n
      let s := s.count fun c => { c with recCount := sat64 c.recCount (min n 2) }
      if 3 ≤ n || 32 ≤ (s.core core).detections then replay s (.fence core) else s)

/-! The end of replay mode (R354, R357). -/

/-- A thread has passed its stop position, or has ended. -/
def Thread.caughtUp (t : Thread) : Bool :=
  decide (t.st = .ended) || (match t.stopPos with | some (_, _, n) => decide (n ≤ t.steps) | none => true)

/-- Every thread of a core has ended. -/
def coreEnded (s : State) (c : CoreId) : Bool := (s.core c).threads.all fun t => decide (t.st = .ended ∨ t.st = .absent)

/-- REPLAY_MODE_END (R354): every thread has passed its stop position and no delivery waits but those of cores that have ended, which
are applied now (DESIGN CHOICE log entry 32). -/
def execReplayModeEnd (s : State) : Res :=
  .next (match s.launch with
    | none => s
    | some l =>
      if l.st = .active && l.replay && (s.participants.all fun r => (s.th r).caughtUp) &&
          (l.journal.all fun e => e.applied || coreEnded s e.d.core) then
        let s := applyWaiting (fun d => coreEnded s d.core) (fun _ => true) l.journal.length s
        let s := s.modLaunch fun l => { l with replay := false, replayedFor := [], replayedGather := [] }
        let s := s.count fun c => { c with repTicks := sat64 c.repTicks (s.tally.toNat - l.replayFrom) }
        let ps := s.participants
        let s := ps.foldl (fun s r => s.modTh r fun t => { t with stopPos := none, relMark := 0 }) s
        ps.foldl (fun s r => traceThread s r 7 (s.th r).pos ((wordAt (s.th r) (s.th r).pos).getD 0)) s
      else s)

/-! HBM sector errors (R184 to R186, R264, R369, R370). -/

/-- Mark a sector's stored error, with its failed read and the history of R371. -/
def markBad (s : State) (a : Nat) (x : SectorRead) : State :=
  { s with hbm := { s.hbm with
    failed := (a, x) :: s.hbm.failed.filter (·.1 ≠ a),
    bad := if s.hbm.bad.contains a then s.hbm.bad else s.hbm.bad ++ [a]
    badHist := s.hbm.badHist ++ [(pcOf s a, a, s.tally.toNat)] } }

/-- Halt a launch whose requester can have no good data; scrub holds no requester. -/
def noGoodCopy (s : State) (reader : SectorReader) : State := if reader = .scrub then s else haltLaunch s .checksum

/-- A stored error in a sector (Table 7.9). -/
def storedError (s : State) (a : Nat) (x : SectorRead) (reader : SectorReader) (lost : Nat) : State :=
  let held := decide (reader = .launch) && s.launchActive
  let s := markBad s a x
  match otherCopy s a with
  | some (o, _) =>
    if s.hbm.bad.contains o then noGoodCopy s reader
    else
      let s := restoreFrom s a o
      if held then loseCycles s lost else s
  | none =>
    match regionAt s a with
    | some (_, ⟨_, _, .peer chip⟩) => askPeer s a chip held
    | some (slot, ⟨_, _, .host⟩) => if held then askHost s a slot else s
    | _ =>
      if !held then s
      else
        match s.launch with
        | none => s
        | some l =>
          if l.replayedFor.contains a then haltLaunch s .checksum
          else replay (s.modLaunch fun l => { l with replayedFor := l.replayedFor ++ [a] }) (.detected none)

/-- Close the request for a sector. -/
def closeSector (s : State) (a : Nat) : State :=
  let ids := (s.fabric.reads.filter fun q => decide (q.use = ReadFor.sector a)).map (·.id)
  let s := { s with fabric := { s.fabric with
    reads := s.fabric.reads.filter fun q => decide (q.use ≠ ReadFor.sector a)
    tracked := s.fabric.tracked.filter fun t => !(t.pkt.ty = tyREADREQ && ids.contains t.pkt.index) } }
  s.modLaunch fun l => { l with peerWait := l.peerWait.filter fun x => decide (x.1 ≠ a) }

/-- Since when the launch has waited for a PEER sector. -/
def waitedSince (s : State) (a : Nat) : Option Nat :=
  match s.launch with
  | some l => (l.peerWait.find? fun x => decide (x.1 = a)).map (·.2)
  | none => none

/-- PEER_RESTORE_TIMEOUT (R185, R291): a launch that has waited so long halts; a request of scrub alone ends. -/
def execPeerRestoreTimeout (addr : Nat) (s : State) : Res :=
  .next (
    let a := addr / 64 * 64
    match waitedSince s a with
    | some t => if t + 1048576 ≤ s.tally.toNat then haltLaunch (closeSector s a) .checksum else s
    | none =>
      if s.fabric.reads.any fun q => decide (q.use = ReadFor.sector a ∧ q.since + 1048576 ≤ s.tally.toNat) then closeSector s a else s)

/-! Repair of HBM (R370, R371). -/

/-- HBM controller cycles that accesses of the schedule stalled (R50). -/
def refStalls (s : State) (n : Nat) : State :=
  if n = 0 then s else (s.count fun c => { c with refStall := sat64 c.refStall n }).flagExc excREF

/-- A refresh-adjacent slot of a channel is open (R171). -/
def chanSlot (s : State) (chan : Nat) : Bool := (pcsOf chan).any fun p => s.hbm.slotFree[p]

/-- LANE_REPAIR (R370): a lane at fault in three restored sectors within the hour, in a refresh-adjacent slot that holds both
pseudo-channels of the channel. -/
def execLaneRepair (chan lane stalled : Nat) (s : State) : Res :=
  .next (if 3 ≤ laneFails s chan lane && lanesLeft s chan && !s.hbm.repaired.contains (chan, lane) && chanSlot s chan then
      refStalls (({ s with hbm := { s.hbm with
        repaired := s.hbm.repaired ++ [(chan, lane)],
        slotFree := (pcsOf chan).foldl (fun v p => vset v p false) s.hbm.slotFree } }).countRun fun c =>
          { c with laneRepairs := sat64 c.laneRepairs 1 }) stalled
    else s)

/-- PC_RETIRE (R371): at once with no launch active, else within a replay; without a slot it is only recorded. -/
def execPcRetire (pc : Fin 256) (s : State) : Res :=
  .next (if !retireDue s pc.1 || s.hbm.retired.contains pc.1 then s
    else if s.launchActive && decide (s.hbm.retired.length < 4) then replay s (.retire pc) else retireAll s pc)

/-! Refresh, scrub, background access (R164, R170 to R172). -/

/-- tREFI of a pseudo-channel's stack, in units of 10 ns (R170). -/
def refreshTime (s : State) (pc : Fin 256) : Nat := if s.hbm.hot.getLsbD (pc.1 % 8) then 195 else 390

/-- Granules of a pseudo-channel (Table 7.2). -/
def granules : Nat := 3145728

/-- REFRESH (R170): one more refresh, whose slot may issue one background access. `corrected` counts the stack's reports of on-die
corrections (Table 7.8). -/
def execRefresh (pc : Fin 256) (stalled corrected : Nat) (s : State) : Res :=
  .next (if s.hbm.trained && s.power.hbmRails && isAwake s then
      let s := refStalls (s.countRun fun c => { c with stackCorrected := sat64 c.stackCorrected corrected }) stalled
      let n := s.hbm.refreshes[pc] + 1
      let cal := if Config.calibrationDue pc.1 n then s.hbm.calDue ||| BitVec.ofNat 256 (2 ^ pc.1) else s.hbm.calDue
      { s with hbm := { s.hbm with
        refreshes := vset s.hbm.refreshes pc n, credit := vmod s.hbm.credit pc (· + granules * refreshTime s pc),
        slotFree := vset s.hbm.slotFree pc true, calDue := cal } }
    else s)

/-- The scrub period in force of a pseudo-channel, in units of 10 ns (R172). -/
def scrubPeriod (s : State) (pc : Fin 256) : Nat := s.hbm.scrubHrs[pc] * 3600 * 100000000

/-- Patrol scrub of this pseudo-channel is due: its reads are spread evenly over the refresh-adjacent slots of the period, so that a
period reads every granule once (R172). -/
def scrubDue (s : State) (pc : Fin 256) : Bool :=
  decide (scrubPeriod s pc ≤ s.hbm.credit[pc]) && !s.hbm.retired.contains pc.1

/-- The first place at which two vectors differ. -/
def firstDiff {α : Type} [DecidableEq α] {n : Nat} (a b : Vector α n) : Option (Fin n) :=
  (List.finRange n).find? fun i => decide (a[i] ≠ b[i])

/-- A copy of the device area brought one write nearer to the tables as they stand; none when it agrees with them. DESIGN CHOICE (log
entry 78): one write takes all slide entries, one route table, or one entry of the region or buffer table. -/
def DevArea.next (d now : DevArea) : Option DevArea :=
  if d.slide ≠ now.slide then some { d with slide := now.slide }
  else
    match firstDiff d.routes now.routes, firstDiff d.regions now.regions, firstDiff d.bufs now.bufs with
    | some i, _, _ => some { d with routes := vset d.routes i now.routes[i] }
    | none, some i, _ => some { d with regions := vset d.regions i now.regions[i] }
    | none, none, some i => some { d with bufs := vset d.bufs i now.bufs[i] }
    | none, none, none => none

/-- The next write to the device area that a launch has held back (R171, R249): the copies after it. -/
def devWrite (s : State) : Option (Vector DevArea 2) :=
  if s.launchActive then
    (List.finRange 2).findSome? fun k =>
      ((s.hbm.dev[k]).next (devTables s (s.hbm.dev[k]).image)).map fun d => vset s.hbm.dev k d
  else none

/-- REFRESH_SLOT_ACCESS (R171): the slot's one access, the first that is due. Scrub takes its new period from here on (R485). -/
def execRefreshSlotAccess (pc : Fin 256) (cost : SlotCost) (s : State) : Res :=
  .next (if !s.hbm.slotFree[pc] || !s.power.hbmRails || !isAwake s then s
    else
      let s := refStalls s cost.stalled
      let s := { s with hbm := { s.hbm with slotFree := vset s.hbm.slotFree pc false } }
      if s.hbm.calDue.getLsbD pc.1 then
        { s with hbm := { s.hbm with calDue := s.hbm.calDue &&& ~~~BitVec.ofNat 256 (2 ^ pc.1) } }
      else match devWrite s with
      | some d => { s with hbm := { s.hbm with dev := d } }
      | none =>
      if scrubDue s pc then
        let next := (s.hbm.scrubAt[pc] + 1) % granules
        { s with hbm := { s.hbm with
          passes := if next = 0 then vmod s.hbm.passes pc (fun n => min (n + 1) (2 ^ 32 - 1)) else s.hbm.passes,
          scrubAt := vset s.hbm.scrubAt pc next, credit := vmod s.hbm.credit pc (· - scrubPeriod s pc),
          scrubHrs := vset s.hbm.scrubHrs pc s.hbm.scrubHours } }
      else traceDrain 8 (traceParity cost.lost s))

/-- The logical core a site holds (R16). -/
def coreAt (s : State) (site : SiteId) : Option CoreId := (List.finRange 192).find? fun c => decide (siteOf s c = site)

/-- The thread whose lane a bank belongs to (Table 5.5). -/
def bankThread (s : State) (c : CoreId) (bank : Fin 24) : ThRef := ⟨c, if (s.core c).split && decide (12 ≤ bank.1) then 1 else 0⟩

/-- What a scrub read of a row finds: a half known to fail fails again (R183). -/
def scrubFinds (s : State) (site : SiteId) (row : Nat) (found : ScrubResult) : Option Nat × ScrubResult :=
  match badHalves s site row 128, found with
  | h :: _, _ => (some h, .stored false)
  | [], .stored upper => (some (row + (if upper then 64 else 0)), .stored upper)
  | [], x => (none, x)

/-- BENCH_SCRUB_READ (R164, R184): the bank's next row. A transient error aborts the pass of the bank's thread; a stored one replays
the chip, and found twice at one row in a launch it fences the core (R347). -/
def execBenchScrubRead (site : SiteId) (bank : Fin 24) (found : ScrubRead) (s : State) : Res :=
  .next (
    let core := coreAt s site
    let asleep := match core with | some c => decide ((s.core c).sleep = .s2) | none => false
    if !s.power.colRails || !isAwake s || siteFenced s (Fin.ofNat 16 site.1) (site.1 / 16) || asleep then s
    else
      let row := s.sites[site].scrub[bank]
      let s := { s with sites := vmod s.sites site fun x => { x with scrub := vset x.scrub bank (row + 1) } }
      let s := match core with | some c => bankStalls s (bankThread s c bank) found.waited | none => s
      match scrubFinds s site (65536 * bank.1 + 128 * row.1) found.result, core with
      | (_, .transient lost), some c => detect (s.countRun fun c => { c with transient := sat64 c.transient 1 }) (bankThread s c bank) lost
      | (_, .transient _), none => s.countRun fun c => { c with transient := sat64 c.transient 1 }
      | (some h, .stored _), some c => storedFind s c (.half h)
      | (some h, .stored _), none => markHalf (s.countRun fun c => { c with stored := sat64 c.stored 1 }) site h
      | _, _ => s)

/-! READ_RESP (R293) and packets that waited (R290, R361, R390). -/

/-- The open request a response answers. -/
def openRead (s : State) (p : Packet) : Option ReadReq := s.fabric.reads.find? fun q => q.sent && decide (q.id = p.index ∧ q.chip = p.src)

/-- Close a request that has been answered. -/
def closeRead (s : State) (q : ReadReq) : State :=
  let s := { s with fabric := { s.fabric with
    reads := s.fabric.reads.filter fun x => decide (x.id ≠ q.id)
    tracked := s.fabric.tracked.filter fun t => !(t.pkt.ty = tyREADREQ && decide (t.pkt.index = q.id)) } }
  pumpReads s.fabric.reads.length s

/-- A GATHER issued again by a replay has its last bytes (R180). -/
def regatherDone (s : State) (r : ThRef) (index buf fill : Nat) : State :=
  match (bufOf s buf).fills.find? fun f => decide (f.no = fill) && f.step.isNone && !f.done with
  | some _ =>
    if gatherOpen s r index buf fill then s
    else partDone (modBuf s buf fun e => { e with fills := e.fills.map fun g => if g.no = fill then { g with done := true } else g }) buf
  | none => s

/-- A READ_RESP: gathered bytes, which wait for a sector of which they are a part and whose code fails (R169); RESULT 1 is DMA_RANGE, RESULT 2 a replay, and the launch's end when the same GATHER meets it again.
The answer for a sector is PEER_RESTORE_REPLY's to use. -/
def handleReadResp (s : State) (_ : LinkId) (p : Packet) : Option State :=
  match openRead s p with
  | none => some s
  | some q =>
    match q.use with
    | .sector _ => some s
    | .gather th index buf fill dst skip take =>
      let s := closeRead s q
      if p.ex 0 8 = 0 then
        if hbmHeld s [] [(dst, take)] then none
        else some (regatherDone (hbmWrite s dst ((p.payload.drop skip).take take)) th index buf fill)
      else if p.ex 0 8 = 1 then some (raiseFault s th .dmaRange index ((wordAt (s.th th) index).getD 0))
      else
        match s.launch with
        | none => some s
        | some l =>
          if l.replayedGather.contains (th, index) then some (haltLaunch s .checksum)
          else some (replay (s.modLaunch fun l => { l with replayedGather := l.replayedGather ++ [(th, index)] }) (.detected none))

def execReadRespReceive (l : LinkId) (pkt : Packet) (s : State) : Res :=
  .next (receiveRow s l pkt (fun s p => decide (p.ty = tyREADRESP) && forThisChip s p) handleReadResp)

/-- What a held RED_CTL does. -/
def handleRedCtl (s : State) (_ : LinkId) (p : Packet) : Option State :=
  tracked s p ((receivingTag s).map fun _ => 0) (fun s => sendAck s p 1) fun s =>
    match ctlRound s p with
    | none => some (acceptRed s p)
    | some (x, i) =>
      let act := if p.ex 48 4 = 0 then missedAct else if p.ex 48 4 = 1 then staleAct else resendAct []
      (act s p x i).map fun s => acceptRed s p

/-- What any routed packet does once it has been taken. -/
def handleRouted (s : State) (l : LinkId) (p : Packet) : Option State :=
  if !forThisChip s p then forwardPacket s l p
  else if p.ty = tySEND then handleSend false s l p
  else if p.ty = tyPOST then handlePost false s l p
  else if p.ty = tyACK then some (retire s p)
  else if p.ty = tyREADREQ then handleReadReq s l p
  else if p.ty = tyREADRESP then handleReadResp s l p
  else if p.ty = tyREDDATA then handleRedData s l p
  else if p.ty = tyREDCTL then handleRedCtl s l p
  else some (discardPacket s)

/-- Try each held packet again, in order; those that still must wait stay. -/
def retryHeld (s : State) : State :=
  if !isAwake s then s
  else
    let held := s.fabric.held
    held.foldl (fun s (l, p) =>
      match handleRouted s l p with
      | some s => freeUnits s l p
      | none => { s with fabric := { s.fabric with held := s.fabric.held ++ [(l, p)] } })
      { s with fabric := { s.fabric with held := [] } }

/-- ACCEPT_RECORD_EXPIRE (R290). -/
def execAcceptRecordExpire (k : Nat) (s : State) : Res :=
  .next (match s.fabric.accepted[k]? with
    | none => s
    | some a =>
      if a.tick + 1048576 ≤ s.tally.toNat then
        retryHeld { s with fabric := { s.fabric with accepted := s.fabric.accepted.eraseIdx k } }
      else s)

/-- ANCHOR_SPILL (R216, R217, R361): journal room it frees lets held packets go on. -/
def execAnchorSpill (s : State) : Res :=
  .next (
    let n := match s.launch with | some l => l.journal.length | none => 0
    let s := spillAnchor s
    match s.launch with
    | some l => if l.journal.length < n then retryHeld s else s
    | none => s)

/-! Sectors that are good again let held packets go on. -/

/-- Try held packets again, when there are some. -/
def retryWaiting (s : State) : State := if s.fabric.held.isEmpty then s else retryHeld s

/-- HBM_SECTOR_ERROR (R168, R184): the two reads the controller makes of a sector whose code fails; `lost` is the requester's stall in
core cycles. In the device area the other copy is used and the bad one rewritten (Table 7.8). -/
def execHbmSectorError (addr : Nat) (first second : SectorRead) (reader : SectorReader) (lost : Nat) (s : State) : Res :=
  .next (
    let a := addr / 64 * 64
    if Config.hbmEnd ≤ a || first.passes a then s
    else if !second.passes a then
      let s := s.countRun fun c => { c with stored := sat64 c.stored 1 }
      if a < Config.generalBase then s else retryWaiting (storedError s a second reader lost)
    else
      let s := s.countRun fun c => { c with transient := sat64 c.transient 1 }
      if reader = .launch && s.launchActive then loseCycles s lost else s)

/-- PEER_RESTORE_REPLY (R185, R186): `result` and `data` are the RESULT and the bytes of the peer's READ_RESP (R293). Good data is written
unless a write has reached the sector since; a failed reply halts the launch that waits. -/
def execPeerRestoreReply (addr : Nat) (result : Fin 3) (data : List Byte) (s : State) : Res :=
  .next (
    let a := addr / 64 * 64
    if !(s.fabric.reads.any fun q => decide (q.use = ReadFor.sector a)) then s
    else
      let since := waitedSince s a
      let s := closeSector s a
      if result ≠ 0 then if since.isSome then haltLaunch s .checksum else s
      else if data.length ≠ 64 then s
      else
        let s := retryWaiting (if s.hbm.bad.contains a then restored (hbmWrite s a data) a else s)
        match since with
        | some t => loseCycles s (coreCycles s (s.tally.toNat - t))
        | none => s)

/-! Memory descriptors that move their data (R248, R257). -/

/-- Bytes that a COPY brings to HBM. DEDUCED (log entry 85): one that answers a restore request writes nothing once newer data stands in
the sector (R186). -/
def copyIn (s : State) (i : Item) (dst n : Nat) (cells : Memory) : State :=
  if !isRestore s i then hbmPlace s dst n cells
  else if s.hbm.bad.contains dst then endRestore (restored (hbmPlace s dst n cells) dst) i
  else endRestore s i

/-- What a memory descriptor does once it has started, with the status and RESULT it completes with; none while it waits: a source sector
with a stored error holds it (R185). A pseudo-channel being retired is not waited for, since the move is done at once. -/
def memoryMove (s : State) (i : Item) (host : Option (List Byte)) : Option (State × Nat × Nat) :=
  match i.kind with
  | .copy true _ src dst n =>
    let s := s.emit (.hostRead src n)
    match host with
    | none => some (s, stBadAddress, 0)
    | some bs => if bs.length = n then some (copyIn s i dst n (Memory.cells dst bs), stOK, n) else none
  | .copy false true src dst n =>
    if badIn s src n then none else some (s.emit (.hostWrite dst (hbmRead s src n)), stOK, n)
  | .copy false false src dst n =>
    if badIn s src n then none
    else some (copyIn s i dst n ((s.hbm.mem.window src n).map fun (k, b) => (k - src + dst, b)), stOK, n)
  | .fill dst n p => some (hbmPlace s dst n (fillCells dst (n / 8) p), stOK, n)
  | .wipe base n => some (hbmPlace s base n [], stOK, 0)
  | .mirror slot r =>
    match r.src with
    | .mirror m => some (mirrorCopy s slot r m, stOK, 0)
    | _ => none
  | _ => none

/-- MEMORY_DESCRIPTOR_COMPLETE (R248): the data moves and the descriptor completes. Packets that waited for a sector go on. -/
def execMemoryDescriptorComplete (item : Nat) (host : Option (List Byte)) (s : State) : Res :=
  .next (match s.items.find? fun i => decide (i.id = item) with
    | none => s
    | some i =>
      if !memoryMayRun s i then s
      else
        match memoryMove s i host with
        | none => s
        | some (s, st, n) => finishItem (retryWaiting s) i st n)

end Sys2Proof.Machine
end

