-- ==== Sys2Proof/Machine/Hdm.lean ====
section
/-! DEFINITION. The HDM window (R268 to R270). -/
namespace Sys2Proof.Machine

/-- The window's range: SIZE and BASE count units of 256 MiB. -/
def windowBytes (n : Nat) : Nat := n * 2 ^ 28

/-- A write of HDM_MAP (R13, R269): one that places a reserved SIZE, in the high half, changes no field; ENABLE is set only over a
window that R269 admits. -/
def writeHdmMap (s : State) (v : Nat) (high : Bool) : State :=
  let size := field v 40 9
  let base := field v 28 10
  if high && (size = 0 || 256 < size) then s
  else
    { s with hdmSize := size, hdmBase := base,
             hdmOn := bit v 0 && decide (size ≠ 0) && windowCovered s (windowBytes base) (windowBytes size) }

/-- HDM_MAP as a read returns it (Table 10.6). -/
def hdmMap (s : State) : Nat := s.hdmSize <<< 40 + s.hdmBase <<< 28 + s.hdmOn.toNat

/-- HDM_MAP_ENABLE (R269). -/
def execHdmMapEnable (v : Word) (secure : Bool) (s : State) : Res :=
  .next (if barOpen s secure && bit v.toNat 0 then writeHdmMap (wakeChip s) v.toNat true else s)

/-- The device address of an access of `n` bytes at an offset, when the window is open to it (R268, R452). The access lies in one
sector. -/
def windowAddr (s : State) (off n : Nat) (secure : Bool) : Option Nat :=
  if s.hdmOn && s.hdmDecoder && (secure || !s.sec.policy.getLsbD 1) && decide (off % 64 + n ≤ 64 ∧ off + n ≤ windowBytes s.hdmSize) then
    some (windowBytes s.hdmBase + off)
  else none

/-- An access through the window counts, and shows on an active launch (R268). -/
def noteHdm (s : State) : State := (s.count fun c => { c with hdmAccesses := sat64 c.hdmAccesses 1 }).flagExc excHDM

/-- The sector holds good data, restored from its other copy if need be (R270, Table 7.9); none when both copies have failed. -/
def restoredSector (s : State) (a : Nat) : Option State :=
  if s.hbm.bad.contains a then
    match otherCopy s a with
    | some (o, _) => if s.hbm.bad.contains o then none else some (restoreFrom s a o)
    | none => none
  else some s

/-- Event 0x04: an access through the window met a sector with no good copy (R270). -/
def hdmLost (s : State) (a : Nat) : State := eventRecord s 4 stChecksum [(0x10, 8, a)]

/-- HDM_READ (R268, R270): zero data while the window is closed, and when both copies fail. -/
def execHdmRead (off : Nat) (secure : Bool) (s : State) : Res :=
  .next (
    let at_ := off / 64 * 64
    match windowAddr s at_ 64 secure with
    | none => s.emit (.memData (List.replicate 64 0))
    | some a =>
      let s := noteHdm s
      match restoredSector s a with
      | some s => s.emit (.memData (hbmRead s a 64))
      | none => (hdmLost s a).emit (.memData (List.replicate 64 0)))

/-- HDM_WRITE (R168, R169, R268): a write of a whole sector needs nothing of the old one; one of a part of it checks the old sector
first, and is lost with it when both copies have failed. -/
def execHdmWrite (off : Nat) (data : List Byte) (secure : Bool) (s : State) : Res :=
  .next (
    match windowAddr s off data.length secure with
    | none => s
    | some a =>
      let s := noteHdm s
      if data.length = 64 then hbmWrite s a data
      else
        match restoredSector s (a / 64 * 64) with
        | some s => hbmWrite s a data
        | none => s)

end Sys2Proof.Machine
end

