-- ==== Sys2Proof/Machine/Power.lean ====
section
/-! DEFINITION. Power, clocks, sleep and thermal control in service (14_power_clocks.md, R374, R375), and telemetry (R468 to R470). -/
namespace Sys2Proof.Machine

/-- Change the power stage. -/
def modPower (s : State) (f : Power → Power) : State := { s with power := f s.power }

/-- Change a column domain. -/
def modDomain (s : State) (c : Fin 16) (f : Domain → Domain) : State := modPower s fun p => { p with domains := vmod p.domains c f }

/-! Regulator phases (R374, R375). -/

/-- A column domain is lost and switched off (R375): its 13 sites count as fenced, their benches hold nothing, the column is exhausted
(R362, R368). -/
def loseDomain (s : State) (c : Fin 16) : State :=
  let s := setMask (haltLaunch (modDomain s c fun d => { d with lost := true }) .spare) c 0x1FFF
  enterDegraded { s with sites := Vector.ofFn fun i => if i.1 % 16 = c.1 then { s.sites[i] with bench := [], bad := [] } else s.sites[i] }

/-- Disable a failed phase of a column rail; a domain left with fewer than three is lost (Table 13.4). -/
def failColumnPhase (s : State) (c : Fin 16) (phase : Nat) : State :=
  let d := s.power.domains[c]
  if !d.phases.getLsbD phase then s
  else
    let left := d.phases &&& ~~~BitVec.ofNat 7 (2 ^ phase)
    let s := (modDomain s c fun d => { d with phases := left }).countRun fun k => { k with phasesLost := sat64 k.phasesLost 1 }
    if phaseCount left < 3 && !d.lost then loseDomain s c else s

/-- Disable a failed phase of another rail. -/
def failOtherPhase (s : State) (k : Fin 7) (phase : Nat) : State :=
  if !(s.power.otherPhases[k]).getLsbD phase then s
  else
    (modPower s fun p => { p with otherPhases := vmod p.otherPhases k fun x => x &&& ~~~BitVec.ofNat 12 (2 ^ phase) }).countRun fun c =>
      { c with phasesLost := sat64 c.phasesLost 1 }

/-- Disable a failed phase. -/
def failPhase (s : State) (r : Rail) (phase : Nat) : State :=
  match r with
  | .column c => failColumnPhase s c phase
  | .other k => failOtherPhase s k phase

/-- PHASE_FAIL (R374, R375). -/
def execPhaseFail (rail : Rail) (phase : Fin 12) (s : State) : Res := .next (if s.power.rails then failPhase s rail phase.1 else s)

/-! Guard stretching and clock stops (R394 to R396). -/

/-- A domain's clock slows: active launches carry STR, and trace and telemetry mark the interval (R395, R468). -/
def noteSlow (s : State) (c : Fin 16) : State :=
  let s := (modDomain s c fun d => { d with marked := true }).flagExc excSTR
  { s with cores := Vector.ofFn fun i =>
      let k := s.cores[i]
      if coreCol i = c then { k with threads := k.threads.map fun t => { t with stretched := true } } else k }

/-- Change a domain's clock, `roots` root-clock periods into the tick, once the STR measure has counted the time until then. -/
def setClock (s : State) (c : Fin 16) (k : DomClock) (roots : Nat) : State :=
  modDomain (settleStr s c roots) c fun d => { d with clock := k }

/-- A column domain has power. -/
def domainOn (s : State) (c : Fin 16) : Bool := s.power.colRails && isAwake s && !s.power.domains[c].lost

/-- DROOP_STRETCH (R394). -/
def execDroopStretch (col : Fin 16) (stop : Bool) (s : State) : Res :=
  .next (
    let d := s.power.domains[col]
    if !domainOn s col || d.clock = .stopped then s
    else if stop then noteSlow (modDomain (setClock s col .stopped 0) col fun d => { d with stopAt := s.tally.toNat }) col
    else if d.clock = .run then noteSlow (setClock s col .stretched 0) col
    else s)

/-- STRETCH_END (R394, R395). -/
def execStretchEnd (col : Fin 16) (roots : Fin 24) (s : State) : Res :=
  .next (if s.power.domains[col].clock = .stretched then setClock s col .run roots.1 else s)

/-- CLOCK_STOP_END (R394, R395): the clock resumes, stretched. -/
def execClockStopEnd (col : Fin 16) (roots : Fin 24) (s : State) : Res :=
  .next (if s.power.domains[col].clock = .stopped then setClock s col .stretched roots.1 else s)

/-- CLOCK_STOP_CHECK (R396): the stop has lasted 10 µs. -/
def execClockStopCheck (col : Fin 16) (failedPhase : Option (Fin 7)) (s : State) : Res :=
  .next (
    let d := s.power.domains[col]
    match failedPhase with
    | some p => if d.clock = .stopped && decide (d.stopAt + 5250 ≤ s.tally.toNat) then failColumnPhase s col p.1 else s
    | none => s)

/-- CURRENT_LIMIT_STRETCH (R376, R394): every column domain is stretched while the input is held at its limit. -/
def execCurrentLimitStretch (on : Bool) (roots : Fin 24) (s : State) : Res :=
  .next (if on then
      if s.power.limited || !s.power.colRails then s
      else (List.finRange 16).foldl noteSlow (modPower (settleStrs s roots.1) fun p => { p with limited := true })
    else if s.power.limited then modPower (settleStrs s roots.1) fun p => { p with limited := false }
    else s)

/-- AGEING_GUARD_BAND_RAISE (R383): one step of 5 mV, at most four; with a launch active it waits for its completion. -/
def execAgeingGuardBandRaise (s : State) : Res :=
  .next (if !s.power.colRails || 4 ≤ s.power.guardBand + s.power.guardOwed then s
    else if s.launchActive then modPower s fun p => { p with guardOwed := p.guardOwed + 1 }
    else modPower s fun p => { p with guardBand := p.guardBand + 1 })

/-! Load notices (R392, R393). -/

/-- Load notice lead in core cycles (Table 14.3). -/
def noticeLead (l : Fin 5) : Nat := if l = 0 then 3150 else if l = 1 then 2700 else if l = 2 then 2363 else if l = 3 then 1890 else 1260

/-- The arrays that an instruction brings into use: those it takes scoreboard entries of (R128). -/
def arraysOf (w : Nat) : Nat :=
  if fOPC w = 0x40 then (wldUnits w).length
  else if fOPC w = 0x41 then (mmaUnits w).length
  else if fOPC w = 0x42 ∨ fOPC w = 0x43 then (trdUnits w).length
  else 0

/-- Core cycles that an instruction adds to the estimate of those behind it: its own, and M feed cycles for an MMA (R392). -/
def scanCost (w : Nat) : Nat := if fOPC w = 0x41 then 1 + (field w 27 8 + 1) else 1

/-- The scan of the resident lines from an index, for the first array instruction from `first` on: its index and its arrays, where the
estimate of the cycles until it issues is within the lead. The fuel is the lead. -/
def arrayAhead (t : Thread) (first : Nat) : Nat → Nat → Nat → Option (Nat × Nat)
  | 0, _, _ => none
  | n + 1, ix, lead =>
    match wordAt t ix with
    | none => none
    | some w =>
      if first ≤ ix ∧ 0 < arraysOf w.toNat then some (ix, arraysOf w.toNat)
      else if lead < scanCost w.toNat then none
      else arrayAhead t first n (ix + 1) (lead - scanCost w.toNat)

/-- A column's arrays shed by a FALL (R393). -/
def shed (s : State) (r : ThRef) : State :=
  let n := (s.core r.core).risen[r.t]
  let s := s.modCore r.core fun k => { k with risen := vset k.risen r.t 0 }
  modDomain s (coreCol r.core) fun d => { d with notices := d.notices - n }

/-- LOAD_NOTICE (R392, R393): a RISE for the next array instruction not yet announced, once its estimate has fallen to the lead, with
the arrays it brings into use; a FALL, once after RISEs, where the scan of a whole lead finds none. It holds nothing back. -/
def execLoadNotice (th : ThRef) (kind : Notice) (s : State) : Res :=
  .next (
    let t := s.th th
    let col := coreCol th.core
    let lead := noticeLead s.power.level
    if t.st ≠ .running then s
    else
      match kind with
      | .rise n =>
        match arrayAhead t t.noticed (lead + 1) t.pos lead with
        | some (ix, k) =>
          if n = k then
            let s := (s.modTh th fun t => { t with noticed := ix + 1 }).modCore th.core fun c => { c with risen := vmod c.risen th.t (· + n) }
            (modDomain s col fun d => { d with notices := d.notices + n, roseAt := s.power.upTicks }).emit (.notice col kind)
          else s
        | none => s
      | .fall =>
        if (arrayAhead t 0 (lead + 1) t.pos lead).isSome || (s.core th.core).risen[th.t] = 0 then s
        else (shed s th).emit (.notice col kind))

/-- What a column's phase current setpoints do (R393): they rise for 1.2 µs after a RISE, are held for up to 4 µs awaiting the burst, and
follow the regulator's own feedback otherwise. -/
inductive Setpoint where
  | feedback | rising (arrays : Nat) | held (arrays : Nat)
deriving DecidableEq, Repr

def phaseSetpoint (s : State) (c : Fin 16) : Setpoint :=
  let d := s.power.domains[c]
  let n := s.power.upTicks - d.roseAt
  if d.notices = 0 then .feedback else if n < 630 then .rising d.notices else if n < 2730 then .held d.notices else .feedback

/-! Sensors and throttling (R397 to R401). -/

/-- Sites beside a site, up, down, left and right. -/
def nearSites (i : SiteId) : List SiteId :=
  (List.finRange 208).filter fun j =>
    decide ((j.1 / 16 = i.1 / 16 ∧ (j.1 % 16 + 1 = i.1 % 16 ∨ i.1 % 16 + 1 = j.1 % 16)) ∨
      (j.1 % 16 = i.1 % 16 ∧ (j.1 / 16 + 1 = i.1 / 16 ∨ i.1 / 16 + 1 = j.1 / 16)))

/-- The highest of some readings. -/
def hottest (xs : List (Option Int)) : Option Int :=
  xs.foldl (fun m x => match m, x with | some a, some b => some (max a b) | none, b => b | a, none => a) none

/-- A sensor's own reading: none before the first and once it is excluded. -/
def SensorSt.own (x : SensorSt) : Option Int := if x.excluded then none else x.reading

/-- A site's reading, with the replacement of an excluded sensor (R397). -/
def siteReading (s : State) (i : SiteId) : Option Int :=
  if s.power.sites[i].excluded then hottest ((nearSites i).map fun j => s.power.sites[j].own) else s.power.sites[i].reading

/-- A stack's reading, with the replacement of an excluded sensor (R397). -/
def stackReading (s : State) (k : Fin 8) : Option Int :=
  if s.power.hbmStacks[k].excluded then
    (hottest (((List.finRange 8).filter fun j => decide (j ≠ k)).map fun j => s.power.hbmStacks[j].own)).map (· + 5)
  else s.power.hbmStacks[k].reading

/-- Hottest readings: sites, stacks, regulator areas, Power Unit. -/
def hotSite (s : State) : Option Int := hottest ((List.finRange 208).map (siteReading s))
def hotStack (s : State) : Option Int := hottest ((List.finRange 8).map (stackReading s))
def hotReg (s : State) : Option Int := hottest (s.power.regs.toList.map SensorSt.own)
def hotPu (s : State) : Option Int := s.power.pu.own

/-- A reading is at or above a threshold. -/
def atLeast (x : Option Int) (t : Int) : Bool := match x with | some v => decide (t ≤ v) | none => false

/-- A reading is at or above its throttle threshold (Table 14.6). -/
def tooHot (s : State) : Bool := atLeast (hotSite s) 98 || atLeast (hotStack s) 95 || atLeast (hotReg s) 115 || atLeast (hotPu s) 110

/-- Every reading is at or below its release threshold. -/
def coolEnough (s : State) : Bool :=
  !(atLeast (hotSite s) 96 || atLeast (hotStack s) 93 || atLeast (hotReg s) 113 || atLeast (hotPu s) 108)

/-- A sensor itself has reached its trip threshold (R401, R476). -/
def tripReached (s : State) : Bool :=
  s.power.sites.any (fun x => atLeast x.own 108) || s.power.hbmStacks.any (fun x => atLeast x.own 105) ||
    s.power.regs.any (fun x => atLeast x.own 125) || atLeast s.power.pu.own 120

/-- The throttle level as it acts: never above the level without it (R398). -/
def throttleLevel (s : State) : Fin 5 := slower s.power.throttle (baseLevel s)

/-- THERM_ALERT# (R400). -/
def thermAlert (s : State) : Bool := tooHot s || decide (throttleLevel s ≠ baseLevel s)

/-- One reading of a sensor, or a failed self-check: the third in a row excludes it (R397). -/
def takeReading (x : SensorSt) (v : Option Int) : SensorSt :=
  if x.excluded then x
  else
    match v with
    | some t => { x with reading := some t, fails := 0 }
    | none => { x with fails := x.fails + 1, excluded := decide (2 ≤ x.fails) }

/-- One sensor's reading into the state. -/
def readSensor (s : State) (r : Sensor × Option Int) : State :=
  match r.1 with
  | .site i => modPower s fun p => { p with sites := vmod p.sites i fun x => takeReading x r.2 }
  | .stack k => modPower s fun p => { p with hbmStacks := vmod p.hbmStacks k fun x => takeReading x r.2 }
  | .reg k => modPower s fun p => { p with regs := vmod p.regs k fun x => takeReading x r.2 }
  | .pu => modPower s fun p => { p with pu := takeReading p.pu r.2 }

/-- The stacks above 85 °C, which refresh at 1.95 µs (R170). -/
def hotStacks (s : State) : BitVec 8 :=
  BitVec.ofNat 8 ((List.finRange 8).foldl (fun m k => if atLeast (stackReading s k) 86 then m + 2 ^ k.1 else m) 0)

/-- A trip (R401): clocks stop, the column and HBM rails go off, the launch ends with INTERNAL and the device halts. Within 1 s of
the restart after a trip it holds the column rails off and stays in Safe. -/
def thermalTrip (s : State) : State :=
  let again := s.power.afterTrip && decide (s.power.upTicks < 525000000)
  let s := modPower s fun p =>
    { p with colRails := false, hbmRails := false, tripN := true, faultN := true, tripHold := p.tripHold || again }
  let s := haltLaunch { s with hbm := { s.hbm with mem := [], bad := [] } } .internal
  let s := if again then { s with life := { s.life with failCode := 0x41 } } else s
  if again && decide (s.life.state = some .safe) then s else haltDevice s 0

/-- The mesh domain, which powers the site sensors, is on (Table 1.5, R397). -/
def meshOn (s : State) : Bool :=
  match s.power.chip with
  | .awake => true
  | .entering _ => true
  | .asleep => false
  | .leaving => false

/-- A sensor that can be read now (R22, R397). -/
def sensorOn (s : State) : Sensor → Bool
  | .site _ => meshOn s
  | .stack _ => s.power.hbmRails
  | .reg _ => true
  | .pu => true

/-- SENSOR_READ (R22, R170, R397, R401): the Reeve reads in every sleep state. -/
def execSensorRead (readings : List (Sensor × Option Int)) (s : State) : Res :=
  .next (if !s.power.rails then s
    else
      let s := (readings.filter fun r => sensorOn s r.1).foldl readSensor s
      let s := { s with hbm := { s.hbm with hot := hotStacks s } }
      if tripReached s && !s.power.tripN then thermalTrip s else s)

/-- THERMAL_EVALUATE (R398): one step down while a reading is at its threshold, one step up after ten evaluations in a row with
every reading released. -/
def execThermalEvaluate (s : State) : Res :=
  .next (if !s.power.rails then s
    else
      let now := throttleLevel s
      let s :=
        if tooHot s then modPower s fun p => { p with throttle := Fin.ofNat 5 (min 4 (now.1 + 1)), releases := 0 }
        else if coolEnough s then
          if 9 ≤ s.power.releases then modPower s fun p => { p with throttle := Fin.ofNat 5 (p.throttle.1 - 1), releases := 0 }
          else modPower s fun p => { p with releases := p.releases + 1 }
        else modPower s fun p => { p with releases := 0 }
      let s := if throttleLevel s ≠ baseLevel s then modPower s fun p => { p with throttledSince := true } else s
      startChange s)

/-! Sleep of a core (R386, R387, R390, R391). -/

/-- The core has no work: no thread of the launch that runs and no section of one that is accepted; and its site has power (R387). -/
def coreFree (s : State) (c : CoreId) : Bool :=
  ((s.core c).threads.all fun t => !t.takesPart) && !awaited s c && !siteFenced s (coreCol c) (siteRow s.life.slide[coreCol c] (coreRow c))

/-- The core has been idle for a timer's span; all ones disables it. -/
def idleFor (s : State) (c : CoreId) (timer : Nat) : Bool :=
  decide (timer ≠ 2 ^ 64 - 1) && coreFree s c &&
    match (s.core c).idleSince with
    | some t => decide (t + timer ≤ s.tally.toNat)
    | none => false

/-- S1_ENTRY (R387): entry begins. -/
def execS1Entry (core : CoreId) (s : State) : Res :=
  .next (if domainOn s (coreCol core) && decide ((s.core core).sleep = .s0) && idleFor s core s.power.timers.1 then
      s.modCore core fun k => { k with sleep := .toS1 false }
    else s)

/-- S2_ENTRY (R387): from S1, or from S0 where S1 is disabled. -/
def execS2Entry (core : CoreId) (s : State) : Res :=
  .next (
    let from_ := decide ((s.core core).sleep = .s1) ||
      (decide ((s.core core).sleep = .s0) && decide (s.power.timers.1 = 2 ^ 64 - 1))
    if domainOn s (coreCol core) && from_ && idleFor s core s.power.timers.2.1 then
      s.modCore core fun k => { k with sleep := .toS2 false }
    else s)

/-- CORE_WAKE (R390). -/
def execCoreWake (core : CoreId) (s : State) : Res := .next (if (s.core core).sleep = .s0 then s else wakeCore s core)

/-- CORE_WAKE_COMPLETE (R390): an entry or an exit finishes. S2 loses the cue buffer and the sequencer registers, of which an idle
core holds none (Table 14.4); a core awake again without work is idle from now. -/
def execCoreWakeComplete (core : CoreId) (s : State) : Res :=
  .next (
    let idle := if coreFree s core then some s.tally.toNat else none
    s.modCore core fun k =>
      match k.sleep with
      | .toS1 w => { k with sleep := if w then .waking1 else .s1 }
      | .toS2 w => { k with sleep := if w then .waking2 else .s2 }
      | .waking1 => { k with sleep := .s0, idleSince := idle }
      | .waking2 => { k with sleep := .s0, idleSince := idle }
      | .s0 => k
      | .s1 => k
      | .s2 => k)

/-! Sleep of the chip (R388 to R391). -/

/-- S3_ENTRY (R388): entry begins after the chip has stayed eligible for the timer. -/
def execS3Entry (s : State) : Res :=
  .next (
    let timer := s.power.timers.2.2
    match s.power.eligible with
    | some t =>
      if mayS3 s && decide (timer ≠ 2 ^ 64 - 1 ∧ t + timer ≤ s.tally.toNat) && isAwake s then
        modPower s fun p => { p with chip := .entering false }
      else s
    | none => s)

/-- What S3 loses (Table 14.4): benches, tiles, planes, slots and cue buffers; the trace SRAM holds nothing while tracing is off. -/
def loseS3 (s : State) : State :=
  { s with
    sites := s.sites.map fun x => { x with bench := [], bad := [] },
    cores := s.cores.map fun k => { k with
      tiles := Vector.replicate 32 tile0, status := Vector.replicate 32 TileStatus.zero, planes := Vector.replicate 4 planes0,
      slots := Vector.replicate 32 (Vector.replicate 32 slotRow0), threads := k.threads.map fun t => { t with cue := [] } } }

/-- S3_ENTRY_COMPLETE (R390): a wake event that came meanwhile begins the exit. -/
def execS3EntryComplete (s : State) : Res :=
  .next (match s.power.chip with
    | .entering w =>
      loseS3 (modPower s fun p => { p with chip := if w then .leaving else .asleep, colRails := false })
    | .awake => s
    | .asleep => s
    | .leaving => s)

/-- S3_WAKE (R390): any wake event of the chip. -/
def execS3Wake (s : State) : Res := .next (wakeChip s)

/-- Submission lines whose read waited for the exit are read now (R245, Table 14.5). -/
def readLines (s : State) : State :=
  (List.finRange 64).foldl (fun s n => if s.subs[n].lineReading then s.emit (.lineRead s.subs[n].db) else s) s

/-- S3_EXIT_COMPLETE (R391): domains on, benches zeroed; what waited goes on. -/
def execS3ExitComplete (s : State) : Res :=
  .next (if s.power.chip ≠ .leaving then s
    else
      let s := modPower s fun p => { p with chip := .awake, colRails := true, eligible := none }
      let s := { s with cores := s.cores.map fun k => { k with sleep := .s0, idleSince := some s.tally.toNat } }
      retryHeld (pumpRings (drainRings (readLines s))))

/-! The CXL link (R505). -/

/-- CXL_LINK_POWER_STATE (R505): in L2 records wait; L0 releases WAKE# and lets them go. -/
def execCxlLinkPowerState (l2 : Bool) (s : State) : Res :=
  .next (if l2 then modPower s fun p => { p with linkL2 := true }
    else
      let s := modPower s fun p => { p with linkL2 := false, wakeN := false }
      if isAwake s then pumpRings (drainRings s) else s)

/-! Telemetry (R468 to R470). -/

/-- A temperature as a byte; 0x80 for none. -/
def tempByte (x : Option Int) : Nat := match x with | some t => wrap 8 t | none => 0x80

/-- Sites neither power-gated nor in S1 or S2. -/
def awakeSites (s : State) : Nat :=
  if !s.power.colRails then 0
  else
    ((List.finRange 208).filter fun i =>
      !siteFenced s (Fin.ofNat 16 i.1) (i.1 / 16) &&
        match coreAt s i with
        | some c => decide ((s.core c).sleep ≠ .s1 ∧ (s.core c).sleep ≠ .s2)
        | none => true).length

/-- The telemetry record of a count (Table 17.6). -/
def telemetryRec (s : State) (count watts centivolts cycles : Nat) : Rec :=
  let marked := s.power.limited || s.power.domains.any fun d => d.marked || decide (d.clock ≠ .run)
  let slowed := s.power.throttledSince || decide (throttleLevel s ≠ baseLevel s)
  let levels := s.power.level.1 + 8 * (throttleLevel s).1 + 64 * marked.toNat + 128 * slowed.toNat
  { tag := 0, opc := 0, status := 0, sq := 0, kind := 5, slot := s.obs.telCount % 65536,
    body := recBody [(8, 7, count), (0xF, 1, levels), (0x10, 2, watts), (0x12, 2, centivolts), (0x14, 1, tempByte (hotSite s)),
      (0x15, 1, tempByte (hotStack s)), (0x16, 1, tempByte (hotReg s)), (0x17, 1, tempByte (hotPu s)), (0x18, 4, min cycles (2 ^ 32 - 1)),
      (0x1C, 1, stateCode s), (0x1D, 1, awakeSites s)],
    more := false, irq := false, closes := none }

/-- The ring with TELEMETRY set. -/
def telemetryRing (s : State) : Option RingId := (List.finRange 64).find? fun n => s.comps[n].telemetry

/-- TELEMETRY_RECORD (R46, R469, R470): at the latest multiple of the period that has not been reported. POWER, VIN and CORE_CYCLES
are measured outside the model. -/
def execTelemetryRecord (watts centivolts cycles : Nat) (s : State) : Res :=
  .next (
    let period := s.obs.telPeriod
    match telemetryRing s with
    | none => s
    | some q =>
      if period = 0 || s.tally.toNat / period ≤ s.obs.telLast / period || !isAwake s || s.life.state.isNone || s.life.state = some .safe then s
      else
        let count := s.tally.toNat / period * period
        let s := writeTelemetry s q (telemetryRec s count watts centivolts cycles)
        let s := modPower s fun p => { p with throttledSince := false, domains := p.domains.map fun d => { d with marked := false } }
        { s with obs := { s.obs with telCount := s.obs.telCount + 1, telLast := count } })

end Sys2Proof.Machine
end

