-- ==== Sys2Proof/Machine/Start.lean ====
section
/-! DEFINITION. The start, the resets, and the loss of power (15_start_reset_lifecycle.md, R378 to R381, R508, R514, R515). -/
namespace Sys2Proof.Machine

/-! What a reset leaves (R271, R411 to R415, R477). -/

/-- Security after a reset: the OTP store stands; sessions, IDE keys, nonces and the mailboxes go; a cold or warm reset restarts the
Enclave (Table 15.4, Table 16.7). -/
def resetSec (x : Sec) (enclave : Bool) : Sec :=
  if enclave then { sec0 with otp := x.otp, errors := x.errors }
  else
    { sec0 with otp := x.otp, errors := x.errors, enclaveUp := x.enclaveUp, tested := x.tested, error := x.error, idKey := x.idKey }

/-- S3 after a reset, which is a wake event of the chip: an entry is completed and an exit goes on (R390). -/
def ChipSleep.afterReset : ChipSleep → ChipSleep
  | .awake => .awake
  | .entering _ => .entering true
  | .asleep => .leaving
  | .leaving => .leaving

/-- The power stage after a reset: rails, phases and pins stand; levels, timers and sensors start afresh. A domain is lost again only
when its phases still leave it lost (R375, R412). -/
def resetPower (p : Power) : Power :=
  { power0 with
    pwrGood := p.pwrGood, inRange := p.inRange, tests := p.tests, perst := p.perst, sequencing := p.sequencing, railStep := p.railStep,
    rails := p.rails, hbmRails := p.hbmRails, colRails := p.colRails, chip := p.chip.afterReset, pll := p.pll, shutdown := p.shutdown, faultN := p.faultN,
    tripN := p.tripN, afterTrip := p.afterTrip, tripHold := p.tripHold, upTicks := p.upTicks, linkL2 := p.linkL2,
    limited := p.limited, otherPhases := p.otherPhases,
    domains := p.domains.map fun d => { domain0 with phases := d.phases, lost := decide (phaseCount d.phases < 3) } }

/-- A link kept over a hot reset: what waited to be sent is discarded, the link layer goes on (R412, R414). -/
def keptLink (k : Link) : Link := { k with txq := [] }

/-- The fabric after a reset that keeps the links (R412, R477). -/
def keptFabric (s : State) : Fabric :=
  let s := s.fabric.held.foldl (fun s (l, p) => freeUnits s l p) s
  { fabric0 with fabId := s.fabric.fabId, links := s.fabric.links.map keptLink }

/-- The state after a reset, before configuration space is ready. `enclave` restarts the Enclave; `links` keeps the links and the
Tally. What waits outside (commands, what was sent) stands. -/
def afterReset (s : State) (enclave links : Bool) : State :=
  { State.reset with
    pending := s.pending, out := s.out, cacheOn := s.cacheOn,
    tally := if links then s.tally else 0, tallyPrev := if links then s.tallyPrev else 0,
    align := if links then { s.align with okDone := false } else align0,
    fabric := if links then keptFabric s else fabric0,
    life := { life0 with slotId := s.life.slotId }, power := resetPower s.power, sec := resetSec s.sec enclave }

/-- Configuration space becomes ready, in Safe (R402, R403, R423). -/
def enterSafe (s : State) : State :=
  let code := if otpLacking s (lifecycle s) then 0x50 else 0
  { s with
    life := { s.life with state := some .safe, failCode := code }, power := { s.power with clkreq := true } }

/-- Safe as soon as the rails and PERST# allow it (R403). -/
def trySafe (s : State) : State := if s.power.rails && !s.power.perst && s.life.state.isNone then enterSafe s else s

/-- COLD_RESET (R411): the Reeve and the Enclave restart, the rails are off, and PERST# is taken as asserted. Disabled phases stay
until their test (R412). -/
def execColdReset (s : State) : Res :=
  .next (
    let p := s.power
    let kept : Power := { power0 with otherPhases := p.otherPhases, domains := p.domains.map fun d =>
      { domain0 with phases := d.phases, lost := decide (phaseCount d.phases < 3) } }
    { State.reset with pending := s.pending, out := s.out, power := kept, sec := { sec0 with otp := s.sec.otp } })

/-! Rails (R378, R380, R381, R508, R514). -/

/-- Every rail but AUX goes off, in the reverse of their order. -/
def railsOff (s : State) : State :=
  modPower s fun p =>
    { p with sequencing := false, railStep := 0, rails := false, hbmRails := false, colRails := false, pll := false, chip := .awake }

/-- The rails are lost and all state with them but what lies on AUX: the Enclave's, the pins, the phases (R378). -/
def powerLoss (s : State) : State := railsOff (afterReset s false false)

/-- A shutdown (R378): FAULT#, HALTED. -/
def shutDown (s : State) : State :=
  let s := modPower (powerLoss s) fun p => { p with shutdown := true, faultN := true }
  haltDevice (s.emit (.uart s.tally)) 0

/-- The rail sequence stops (R380). -/
def stopSequence (s : State) : State :=
  let s := modPower (railsOff s) fun p => { p with faultN := true }
  haltDevice { s with life := { s.life with failCode := 0x40 } } 0

/-- A rail beside the column rails keeps fewer phases than it needs (R381). -/
def railLacking (s : State) : Bool :=
  (List.finRange 7).any fun k => decide (phaseCount (s.power.otherPhases[k]) < otherNeeded[k])

/-- The phase test (R381): every phase is tried again, the failed ones are disabled and counted. -/
def testPhases (s : State) (failed : List (Rail × Fin 12)) : State :=
  let s := modPower s fun p => { p with otherPhases := power0.otherPhases, domains := p.domains.map fun _ => domain0 }
  failed.foldl (fun s (r, k) => failPhase s r k.1) s

/-- The rail sequence of Table 14.2 begins; the phase test comes first where the 42 V input has been applied since the last one (R380,
R381). -/
def startSequence (s : State) : State :=
  let s := modPower s fun p => { p with sequencing := true, railStep := 0, rails := false }
  match s.power.tests with
  | none => s
  | some failed =>
    let s := testPhases (modPower s fun p => { p with tests := none }) failed
    if railLacking s then stopSequence s else s

/-- A warm reset (R411): FAULT# and THERM_TRIP# are released while the input is in range, and rails that a shutdown or a trip
switched off are started again. -/
def warmReset (s : State) : State :=
  let p := s.power
  let inRange := p.pwrGood && p.inRange
  let s := afterReset s true false
  let s := modPower s fun q => { q with upTicks := 0, warmOwed := false, clkreq := false }
  if inRange then
    let s := modPower s fun q => { q with faultN := false, tripN := false, afterTrip := p.tripN, tripHold := false, shutdown := false }
    if p.shutdown || p.tripN then startSequence s else s
  else s

/-- PWR_GOOD_ASSERT (R377, R378, R380, R381): PWR_GOOD asserts, or stands with the 42 V input in range again (DESIGN CHOICE log entry 84).
The input has been applied, and `failedPhases` will fail its phase test. After a shutdown the rails stay off until PERST# is asserted. -/
def execPwrGoodAssert (failedPhases : List (Rail × Fin 12)) (s : State) : Res :=
  .next (if s.power.pwrGood && s.power.inRange then s
    else
      let s := modPower s fun p => { p with pwrGood := true, inRange := true, tests := some failedPhases }
      if s.power.rails then s
      else if s.power.shutdown then (if s.power.perst then warmReset s else s)
      else startSequence s)

/-- The events of Table 14.2 in their order: the intermediate rail, the phase test, HBM VPP, VDD and VDDQ, the SerDes rails, the mesh
rail with the PLL's lock, the eight pairs of column rails, the Reeve's report. -/
def railEvents : Nat := 16
/-- The Tally starts at 0 with the mesh rail, once the PLL is locked. -/
def meshEvent : Nat := 7

/-- RAIL_SEQUENCE_DONE (R380, R515): the sequence's next event has come (DESIGN CHOICE log entry 13); with the last one every rail is
good. -/
def execRailSequenceDone (s : State) : Res :=
  .next (if !s.power.sequencing then s
    else
      let n := s.power.railStep + 1
      let s := if n = meshEvent then { setTally s 0 with power := { s.power with pll := true } } else s
      let s := modPower s fun p => { p with railStep := n }
      if n < railEvents then s
      else
        let s := modPower s fun p => { p with sequencing := false, rails := true, hbmRails := true, colRails := true, upTicks := 0 }
        trySafe (if s.power.warmOwed then warmReset s else s))

/-- The event of Table 14.2 with which a rail comes up. -/
def railEvent : Rail → Nat
  | .column c => 8 + c.1 / 2
  | .other k => if k = 0 then 1 else if k = 1 then 7 else if k.1 < 4 then 6 else k.1 - 1

/-- RAIL_TIMEOUT (R380): a rail that is not up yet has not reached regulation 1 ms after its step. -/
def execRailTimeout (rail : Rail) (s : State) : Res :=
  .next (if s.power.sequencing && decide (s.power.railStep < railEvent rail) then stopSequence s else s)

/-- PERST_ASSERT (R411, R501, R515): during the rail sequence the reset waits for it. -/
def execPerstAssert (s : State) : Res :=
  .next (if s.power.perst then s
    else
      let s := modPower s fun p => { p with perst := true, clkreq := false }
      if s.power.sequencing then modPower s fun p => { p with warmOwed := true } else warmReset s)

/-- PERST_DEASSERT (R403): SLOT_ID is sampled, and the host sets configuration space up (R244; DESIGN CHOICE log entry 43: the table has
no row for a configuration write). -/
def execPerstDeassert (setUp : SlotSetUp) (s : State) : Res :=
  .next (if !s.power.perst then s
    else
      let s := modPower s fun p => { p with perst := false }
      trySafe { s with cacheOn := setUp.cacheOn, life := { s.life with slotId := setUp.slotStraps } })

/-- PWR_GOOD_DEASSERT (R514): orderly with PERST# asserted, at the latest in the same filter cycle; else a shutdown. -/
def execPwrGoodDeassert (orderly : Bool) (s : State) : Res :=
  .next (if !s.power.pwrGood then s
    else
      let s := modPower s fun p => { p with pwrGood := false }
      if orderly || s.power.perst then powerLoss s else shutDown s)

/-- INPUT_SHUTDOWN (R378): a fault of the 42 V input or of the intermediate rail shuts the device down. The input counts as out of range
from then on, until PWR_GOOD_ASSERT says that it is back (DESIGN CHOICE log entry 84). -/
def execInputShutdown (s : State) : Res :=
  .next (if s.power.rails || s.power.sequencing then modPower (shutDown s) fun p => { p with inRange := false }
    else if s.power.shutdown then modPower s fun p => { p with inRange := false }
    else s)

/-- CORE_REF_LOSS (R508). -/
def execCoreRefLoss (s : State) : Res := .next (if s.power.rails || s.power.sequencing then shutDown s else s)

/-- A reset that the host link alone caused (R411, R412). -/
def linkReset (s : State) : State :=
  if s.power.rails && !s.power.perst && s.life.state.isSome then enterSafe (afterReset s false true) else s

/-- CXL_HOT_RESET (R411). -/
def execCxlHotReset (s : State) : Res := .next (linkReset s)

/-- FUNCTION_LEVEL_RESET (R411). -/
def execFunctionLevelReset (s : State) : Res := .next (linkReset s)

/-! Stages (R407, R408, R410, R503). -/

/-- A line of UART text for each of `n` steps. -/
def stepLines (s : State) (n : Nat) : State := { s with out := s.out ++ List.replicate n (.uart s.tally) }

/-- A start failure halts the device with the HBM rails on (Table 15.3, R417). -/
def startFails (s : State) (code : Nat) : State :=
  haltDevice { s with life := { s.life with failCode := code, stage := 0, step := 0 } } hbmTotal

/-- HBM trained, repaired and wiped (R373, R407, R413). -/
def trainedHbm (s : State) (lanes : List (Nat × Nat)) (pcs : List (Fin 256)) : HbmSt :=
  { hbmSt0 with
    trained := true, repaired := lanes, retired := pcs.map (·.1), scrubHours := s.hbm.scrubHours,
    scrubHrs := Vector.replicate 256 s.hbm.scrubHours, hot := s.hbm.hot }

/-- A start step ends: a line of UART text, and the next step is in progress (R410, R503). -/
def nextStep (s : State) : State := stepLines { s with life := { s.life with step := s.life.step + 1 } } 1

/-- MEMORY_STAGE (R239, R373, R407, R410): the step in progress ends. `lanes` are the lanes repaired in step 1, `badPcs` the
pseudo-channels retired in it. -/
def execMemoryStage (stackFails : Bool) (lanes : List (Nat × Nat)) (badPcs : List (Fin 256)) (s : State) : Res :=
  .next (if s.life.state ≠ some .safe || s.life.stage ≠ 2 || !s.power.hbmRails || !s.power.colRails || !isAwake s then s
    else
      match s.life.image with
      | none => s
      | some image =>
        let pcs := badPcs.eraseDups
        if s.life.step = 1 then
          if stackFails then startFails (stepLines s 1) 0x10
          else if 4 < pcs.length then startFails (stepLines s 1) 0x11
          else
            let s := { s with hbm := trainedHbm s lanes pcs }
            nextStep (s.countRun fun c =>
              { c with laneRepairs := sat64 c.laneRepairs lanes.length, pcRetired := sat64 c.pcRetired pcs.length })
        else if s.life.step = 2 then
          nextStep { s with hbm := { s.hbm with mem := [], bad := [], failed := [] }, life := { s.life with wipeLeft := 0 } }
        else
          let s := wipeStaging { s with hbm := { s.hbm with dev := Vector.replicate 2 (devTables s image.bytes) } }
          let s := stepLines { s with life := { s.life with stage := 3, step := 1 } } 1
          pumpRings (activateRings (setState s .memory)))

/-- The fence mask of a column at the start: the spare map and the sites that failed BIST (R367, R408). -/
def startMask (s : State) (fails : List SiteId) (c : Fin 16) : BitVec 13 :=
  if s.power.domains[c].lost then 0x1FFF
  else fails.foldl (fun m i => if i.1 % 16 = c.1 then m ||| BitVec.ofNat 13 (2 ^ (i.1 / 16)) else m) (spareMask s c)

/-- Step 1 of R408: benches, tiles, slots, cue buffers and the trace SRAM are wiped (R413). -/
def wipeCores (s : State) : State :=
  { s with
    sites := s.sites.map fun x => { x with bench := [], bad := [] }, trace := trace0,
    cores := Vector.replicate 192 { core0 with idleSince := some s.tally.toNat } }

/-- COMPUTE_STAGE (R383, R385, R408, R410): the step in progress ends. `bistFails` are the sites that core BIST fails in step 2, `guard` is
the guard band that the ageing monitors measure in step 4, in steps of 5 mV. -/
def execComputeStage (bistFails : List SiteId) (calibrated : Bool) (guard : Nat) (s : State) : Res :=
  .next (if s.life.state ≠ some .memory || !s.power.colRails || !isAwake s then s
    else if s.life.step = 1 then nextStep (wipeCores s)
    else if s.life.step = 2 then nextStep { s with life := { s.life with bistFail := bistFails.eraseDups } }
    else if s.life.step = 3 then
      nextStep { s with life := { s.life with
        masks := Vector.ofFn fun c => startMask s s.life.bistFail c, slide := Vector.ofFn fun c => slideOf (startMask s s.life.bistFail c) } }
    else
      let s := stepLines { s with life := { s.life with stage := 0, step := 0 } } 1
      if !calibrated then startFails s 0x21
      else
        let s := modPower (stepDivider (applyTrims s) 0) fun p => { p with guardBand := min guard 4, settings := 0, requested := 0 }
        if anyExhausted s then setState { s with life := { s.life with failCode := 0x20, before := .compute } } .degraded
        else setState s .compute)

end Sys2Proof.Machine
end

