-- ==== Sys2Proof/Machine/RegRead.lean ====
section
/-! DEFINITION. What the registers of BAR0 read as (18_register_map.md). -/
namespace Sys2Proof.Machine

/-- The Compute stage has been reached. -/
def computeReached (s : State) : Bool := inStates s [3, 4, 5, 6]

/-! Identity and state (Tables 18.3, 18.4). -/

def regDevId (s : State) : Nat := 0x0960 <<< 16 + 0x01 <<< 8 + binByte s
def regUnitId (s : State) : Nat := match s.sec.idKey with | some k => ofBytes ((keyHash k).take 8) | none => 0
def regCap0 : Nat := 0x4040401408100C0D
def regCap1 : Nat := 0x7FFF <<< 32 + 0x01 <<< 24 + 0x03 <<< 16 + 0xFF <<< 8 + 0x40
def regFwInfo (s : State) : Nat := otpVersion s <<< 8 + imageVersion s

/-- DEV_STATE (Table 18.4). -/
def regDevState (s : State) : Nat :=
  s.seq <<< 32 + s.life.failCode <<< 16 + s.life.stage <<< 12 + s.life.step <<< 8 +
    s.launchActive.toNat <<< 7 + (!isAwake s).toNat <<< 6 + (if s.life.state.isNone then 1 else stateCode s)

/-! Power, clocks and thermal (Tables 18.5, 18.6). -/

def regLevelStatus (s : State) : Nat :=
  let pending := s.power.pendingLevel.isSome
  let lost := s.power.domains.any fun d => d.lost
  s.power.pll.toNat <<< 25 + pending.toNat <<< 24 +
    (if computeReached s then
      coreDiv s.power.level <<< 16 + (throttleLevel s).1 <<< 12 + (if lost then 7 else (capLevel s).1) <<< 8 +
        s.power.requested.1 <<< 4 + s.power.level.1
     else 0)

/-- A column rail is up: in the rail sequence the pairs come one by one (Table 14.2). -/
def columnUp (s : State) (c : Fin 16) : Bool :=
  !s.power.domains[c].lost && (s.power.colRails || (s.power.sequencing && decide (8 + c.1 / 2 ≤ s.power.railStep)))

/-- The applied voltage of a column rail in units of 2 mV (R383), 0 while off. -/
def columnVolt (s : State) (c : Fin 16) : Nat :=
  if columnUp s c then
    let mv : Int := (levelSettings s.power.settings).volts + (s.power.trims[c]).toInt + (5 * s.power.guardBand : Nat)
    (mv / 2).toNat
  else 0

/-- The settings that apply to a core: its level's, with the body bias of S1 and S2 and the 0.55 V at which S2 retains its bench (R382,
R386, Table 14.4). -/
def coreSettings (s : State) (c : CoreId) : LevelSettings :=
  let x := levelSettings s.power.settings
  match (s.core c).sleep with
  | .s1 => { x with bias := -100 }
  | .s2 => { volts := 550, bias := -300, read := x.read, write := x.write }
  | .s0 => x
  | .toS1 _ => x
  | .toS2 _ => x
  | .waking1 => x
  | .waking2 => x

def regRailCol (s : State) (c : Fin 16) : Nat :=
  let d := s.power.domains[c]
  (decide (d.clock = .stopped)).toNat <<< 41 + (decide (d.clock ≠ .stopped) && clockSlow s c).toNat <<< 40 +
    (s.power.trims[c]).toNat <<< 32 + s.power.guardBand <<< 24 + columnVolt s c <<< 12 + d.lost.toNat <<< 7 + d.phases.toNat

/-- Voltages of the other rails in units of 2 mV (Table 14.1); the intermediate rail's is about 6 V. -/
def otherVolt : Vector Nat 7 := #v[3000, 375, 375, 600, 900, 550, 200]

def regRailOther (s : State) (k : Fin 7) : Nat :=
  let n := if k = 0 then 1 else if k = 1 then 7 else if k.1 < 4 then 6 else k.1 - 1
  let on :=
    if s.power.sequencing then decide (n ≤ s.power.railStep)
    else if 4 ≤ k.1 then s.power.hbmRails else s.power.rails && !(k = 1 && !meshOn s)
  let good := on && decide (otherNeeded[k] ≤ phaseCount (s.power.otherPhases[k]))
  good.toNat <<< 24 + (if on then otherVolt[k] else 0) <<< 12 + (s.power.otherPhases[k]).toNat

/-- Bytes of a 64-bit register from bit 0 up. -/
def packBytes (xs : List Nat) : Nat := xs.foldr (fun x a => x % 256 + 256 * a) 0

def regSensSite (s : State) (n : Nat) : Nat :=
  packBytes ((List.range 8).map fun k => tempByte (s.power.sites[(Fin.ofNat 208 (8 * n + k) : SiteId)]).own)
def regSensHbm (s : State) : Nat := packBytes (s.power.hbmStacks.toList.map fun x => tempByte x.own)
def regSensPwr (s : State) : Nat := packBytes ((s.power.regs.toList.map fun x => tempByte x.own) ++ [tempByte s.power.pu.own])

/-- Sensors excluded (R397). -/
def excludedSensors (s : State) : Nat :=
  ((s.power.sites.toList ++ s.power.hbmStacks.toList ++ s.power.regs.toList ++ [s.power.pu]).filter fun x => x.excluded).length

def regThermStatus (s : State) : Nat :=
  min (excludedSensors s) 255 <<< 8 + s.power.tripHold.toNat <<< 2 + s.power.tripN.toNat <<< 1 + (thermAlert s).toNat

/-! Fabric and Tally (Tables 18.7, 18.8). -/

def regFabId (s : State) : Nat :=
  let f := s.fabric.fabId
  (if f.written then s.chipId else 0) <<< 48 + f.written.toNat <<< 32 + (f.dz - 1) <<< 24 + (f.dy - 1) <<< 20 + (f.dx - 1) <<< 16 +
    s.life.slotId.1 <<< 12 + f.x <<< 8 + f.y <<< 4 + f.z

def regTallyStatus (s : State) : Nat :=
  let a := s.align
  let parent := if a.role = some 2 then 0x1E else match a.parent with | some l => l.1 | none => 0x1F
  wrap 24 a.rate <<< 40 + wrap 16 a.lastD2 <<< 24 + a.grand <<< 8 + parent <<< 3 + a.aligned.toNat <<< 2 +
    (match a.role with | some r => r.1 | none => 3)

def regEpochStatus (s : State) : Nat :=
  let f := s.fabric
  let per (p : Fin 2 → Bool) : Nat := (p 0).toNat + 2 * (p 1).toNat
  let drained := per fun e => decide (f.routes[e] ≠ .none) && !f.fresh[e]
  drained <<< 8 + f.switch.isSome.toNat <<< 6 + per (fun e => decide (f.routes[e] = .algo)) <<< 4 +
    per (fun e => decide (f.routes[e] ≠ .none)) <<< 2 + f.inUse.isSome.toNat <<< 1 +
    (match f.inUse with | some e => e.1 | none => 0)

def regLink (s : State) (l : LinkId) : Nat :=
  let k := s.fabric.links[l]
  let mode := match k.mode with | some .g4 => 0 | some .g2 => 1 | some .h4 => 2 | some .h2 => 3 | none => 0
  let st := match k.st with
    | .down => 0
    | .training => if k.degraded then 0 else 1
    | .up => 2
    | .miswired => 3
  k.changes <<< 32 + (k.partner.getD 0) <<< 16 + k.failed.toNat <<< 8 + mode <<< 4 + st

/-! HBM, fences and faults (Tables 18.9, 18.10). -/

def regHbmStack (s : State) (k : Fin 8) : Nat :=
  let pcs := (List.finRange 256).filter fun p => decide (p.1 % 8 = k.1) && !s.hbm.retired.contains p.1
  let passes := match pcs.map fun p => s.hbm.passes[p] with | [] => 0 | x :: xs => xs.foldl min x
  let repairs := (s.hbm.repaired.filter fun (c, _) => decide (c / 16 = k.1)).length
  passes <<< 32 + min repairs 15 <<< 4 + (s.hbm.exhausted.getLsbD k.1).toNat <<< 2 + (s.hbm.hot.getLsbD k.1).toNat <<< 1 + s.hbm.trained.toNat

def regRetire (s : State) (k : Nat) : Nat := match s.hbm.retired[k]? with | some p => 0x100 + p | none => 0

def regFence (s : State) (c : Fin 16) : Nat :=
  s.power.domains[c].lost.toNat <<< 49 + (maskExhausted s.life.masks[c] || s.power.domains[c].lost).toNat <<< 48 + (spareMask s c).toNat <<< 32 +
    s.life.slide[c].1 <<< 16 + (s.life.masks[c]).toNat

def regFaultInfo (s : State) (c : CoreId) : Nat :=
  let f := (s.core c).fault
  f.index <<< 32 + f.window <<< 16 + f.valid.toNat <<< 15 + f.thread <<< 8 + f.code

/-! Mailbox and host interface (Tables 18.11, 10.3, 10.4, 10.6, R490). -/

def regMbStatus (s : State) (mb : Fin 2) : Nat :=
  let m := s.sec.mail[mb]
  s.sec.debugBy.isSome.toNat <<< 50 + s.sec.error.toNat <<< 49 + (approvedMode s).toNat <<< 48 + m.respLen <<< 32 + m.status <<< 8 +
    m.done.toNat <<< 1 + m.busy.toNat

def regMbIrq (s : State) (mb : Fin 2) : Nat := s.sec.mail[mb].irqEn.toNat <<< 8 + (s.sec.mail[mb].irqVec).1

/-- Word at an offset of a ring block. -/
def regSub (q : SubRing) (o : Nat) : Nat :=
  if o = 0 then q.base.toNat else if o = 8 then q.db.toNat else if o = 16 then subCfg q else if o = 24 then subStatus q else 0
def regComp (q : CompRing) (o : Nat) : Nat :=
  if o = 0 then q.base.toNat else if o = 8 then q.hl.toNat else if o = 16 then compCfg q else if o = 24 then compStatus q else 0

/-- Words of the MSI-X table and the pending-bit array. -/
def regMsix (m : MsixVec) (o : Nat) : Nat := if o = 0 then m.addr.toNat else m.ctrl.toNat <<< 32 + m.data.toNat
def regPending (s : State) : Nat := (List.finRange 64).foldl (fun a v => if s.msix[v].pend then a + 2 ^ v.1 else a) 0

/-- The 64-bit register at an offset of BAR0 (Table 18.2), in the mailbox instance of the port that reads. A reserved offset reads
zero (R472). -/
def regAt (s : State) (mb : Fin 2) (o : Nat) : Nat :=
  let k (base : Nat) : Nat := (o - base) / 8
  if o % 8 ≠ 0 then 0
  else if o = 0x0000 then regDevId s
  else if o = 0x0008 then regUnitId s
  else if o = 0x0010 then regCap0
  else if o = 0x0018 then regCap1
  else if o = 0x0020 then regFwInfo s
  else if o = 0x1000 then regDevState s
  else if o = 0x1008 then s.life.locks.toNat
  else if o = 0x1010 then s.sec.policy.toNat
  else if o = 0x2000 then regLevelStatus s
  else if o = 0x2008 then s.power.timers.1
  else if o = 0x2010 then s.power.timers.2.1
  else if o = 0x2018 then s.power.timers.2.2
  else if 0x2100 ≤ o ∧ o < 0x2180 then regRailCol s (Fin.ofNat 16 (k 0x2100))
  else if 0x2180 ≤ o ∧ o < 0x21B8 then regRailOther s (Fin.ofNat 7 (k 0x2180))
  else if 0x2400 ≤ o ∧ o < 0x24D0 then regSensSite s (k 0x2400)
  else if o = 0x2500 then regSensHbm s
  else if o = 0x2508 then regSensPwr s
  else if o = 0x2510 then regThermStatus s
  else if o = 0x3000 then regFabId s
  else if o = 0x3008 then s.tally.toNat
  else if o = 0x3010 then regTallyStatus s
  else if o = 0x3018 then regEpochStatus s
  else if o = 0x3020 then s.fabric.switchAt
  else if 0x3100 ≤ o ∧ o < 0x31A0 then regLink s (Fin.ofNat 20 (k 0x3100))
  else if o = 0x4000 then s.hbm.scrubHours
  else if 0x4100 ≤ o ∧ o < 0x4140 then regHbmStack s (Fin.ofNat 8 (k 0x4100))
  else if 0x4200 ≤ o ∧ o < 0x4220 then regRetire s (k 0x4200)
  else if 0x5000 ≤ o ∧ o < 0x5080 then regFence s (Fin.ofNat 16 (k 0x5000))
  else if 0x5400 ≤ o ∧ o < 0x6000 then
    let c : CoreId := Fin.ofNat 192 ((o - 0x5400) / 16)
    if o % 16 = 0 then regFaultInfo s c else (s.core c).fault.word.toNat
  else if o = 0x6000 then s.obs.shadow.toNat <<< 25 + s.obs.core <<< 16 + s.obs.ctrId
  else if o = 0x6008 then s.obs.data.toNat
  else if o = 0x6010 then s.obs.tag
  else if o = 0x6018 then s.trace.written
  else if o = 0x6020 then s.trace.draining.toNat <<< 1 + s.trace.enabled.toNat
  else if o = 0x6028 then s.obs.telPeriod
  else if o = 0x8000 then s.sec.mail[mb].reqLen <<< 32
  else if o = 0x8008 then regMbStatus s mb
  else if o = 0x8010 then regMbIrq s mb
  else if 0x9000 ≤ o ∧ o < 0xB000 then ofBytes (part s.sec.mail[mb].req (o - 0x9000) 8)
  else if 0xB000 ≤ o ∧ o < 0xC000 then if s.sec.mail[mb].busy then 0 else ofBytes (part s.sec.mail[mb].resp (o - 0xB000) 8)
  else if o = 0x10000 then s.hifPoll
  else if o = 0x10008 then hdmMap s
  else if 0x11000 ≤ o ∧ o < 0x12000 then regSub s.subs[(Fin.ofNat 64 ((o - 0x11000) / 64) : RingId)] (o % 64)
  else if 0x12000 ≤ o ∧ o < 0x13000 then regComp s.comps[(Fin.ofNat 64 ((o - 0x12000) / 64) : RingId)] (o % 64)
  else if 0x14000 ≤ o ∧ o < 0x14400 then regMsix s.msix[(Fin.ofNat 64 ((o - 0x14000) / 16) : Fin 64)] (o % 16)
  else if o = 0x15000 then regPending s
  else 0

/-! Reads that latch (R459, R474). -/

/-- Latch CTR_DATA and CTR_TAG (R458, R459). -/
def latchCtr (s : State) : State :=
  let (v, t) := (sampleCounter s s.obs.shadow s.obs.core s.obs.ctrId).getD (0, 0xFFFFFFFF)
  { s with obs := { s.obs with data := BitVec.ofNat 64 v, tag := t } }

/-- Latch TALLY_NOW. -/
def latchTally (s : State) : State := { s with obs := { s.obs with tallyNow := s.tally } }

/-- What a read of a latch returns. -/
def halfOf (v : Word) : ReadHalf → Word
  | .whole => v
  | .low => BitVec.ofNat 64 (v.toNat % 2 ^ 32)
  | .high => BitVec.ofNat 64 (v.toNat / 2 ^ 32)

/-- A read of the whole register or of its low half latches. -/
def halfLatches : ReadHalf → Bool
  | .whole => true
  | .low => true
  | .high => false

/-- CTR_DATA_READ (R458, R459, R474). -/
def execCtrDataRead (half : ReadHalf) (secure : Bool) (s : State) : Res :=
  .next (if !barOpen s secure then s
    else
      let s := if halfLatches half then latchCtr s else s
      s.emit (.readData (halfOf s.obs.data half)))

/-- TALLY_NOW_READ (R474). -/
def execTallyNowRead (half : ReadHalf) (secure : Bool) (s : State) : Res :=
  .next (if !barOpen s secure then s
    else
      let s := if halfLatches half then latchTally s else s
      s.emit (.readData (halfOf s.obs.tallyNow half)))

/-- A 64-bit read with the latches of R474. -/
def readReg (s : State) (mb : Fin 2) (o : Nat) : State × Word :=
  let s := if o = 0x6008 then latchCtr s else if o = 0x3008 then latchTally s else s
  (s, BitVec.ofNat 64 (regAt s mb o))

end Sys2Proof.Machine
end

