-- ==== Sys2Proof/Machine/Registers.lean ====
section
/-! DEFINITION. Writes of the registers of BAR0 (R9 to R13, 18), and the Reeve's sideband ports (R475, R502, R503). -/
namespace Sys2Proof.Machine

/-- A register write (R473): the mailbox instance of its port, the register's offset, its value with the bits written in place, and
the bits written (zero elsewhere). -/
structure RegWrite where
  mb   : Fin 2
  off  : Nat
  all  : Nat
  bits : Nat
  /-- the low half was written -/
  low  : Bool
  /-- the high half was written -/
  high : Bool

/-- The write that an access of `size` bytes makes, if it is well formed (R473). -/
def regWriteOf (s : State) (mb : Fin 2) (off size v : Nat) : Option RegWrite :=
  if size = 8 && off % 8 = 0 then some ⟨mb, off, v % 2 ^ 64, v % 2 ^ 64, true, true⟩
  else if size = 4 && off % 4 = 0 then
    let o := off / 8 * 8
    let old := regAt s mb o
    let w := v % 2 ^ 32
    if off % 8 = 0 then some ⟨mb, o, setField old 0 32 w, w, true, false⟩
    else some ⟨mb, o, setField old 32 32 w, w <<< 32, false, true⟩
  else none

/-! FAB_ID (R482, R483). -/

/-- A FAB_ID value's fields. -/
def fabIdOf (v : Nat) : FabId :=
  { x := field v 8 4, y := field v 4 4, z := field v 0 4, dx := field v 16 4 + 1, dy := field v 20 4 + 1, dz := field v 24 4 + 1,
    written := bit v 32 }

/-- Every link that is not DOWN goes DOWN (R275, R483). -/
def dropLinks (s : State) : State :=
  (List.finRange 20).foldl (fun s l => if s.fabric.links[l].st = .down then s else dropLink s l .down) s

/-- A write of FAB_ID: frozen by LOCK_ROUTE, discarded while a launch is active or queued, refused where a coordinate lies outside
its dimension; a change while VALID is set takes every link DOWN. -/
def writeFabId (s : State) (v : Nat) : State :=
  let f := fabIdOf v
  let old := s.fabric.fabId
  if s.life.locks.getLsbD 3 || launchOpen s || f.dx ≤ f.x || f.dy ≤ f.y || f.dz ≤ f.z then s
  else if f = old then s
  else
    let s := { s with fabric := { s.fabric with fabId := f } }
    if old.written then dropLinks s else s

/-! Locks (R427 to R429). -/

/-- Set lock bits, with what Table 15.10 has happen at that moment. -/
def setLocks (s : State) (v : Nat) : State :=
  let m : BitVec 6 := BitVec.ofNat 6 v
  let new := m &&& ~~~s.life.locks
  let s := { s with life := { s.life with locks := s.life.locks ||| m } }
  let s := if new.getLsbD 1 then { s with sec := { s.sec with debugOpen := false } } else s
  if new.getLsbD 5 && s.trace.enabled then traceStop s else s

/-! Small registers. -/

/-- SEC_POLICY, frozen by LOCK_SEC (R452). -/
def writePolicy (s : State) (v : Nat) : State :=
  if s.life.locks.getLsbD 0 then s else { s with sec := { s.sec with policy := BitVec.ofNat 3 v } }

/-- SCRUB_CTL (R485). -/
def writeScrub (s : State) (v : Nat) : State :=
  let h := field v 0 8
  if 1 ≤ h && h ≤ 168 then { s with hbm := { s.hbm with scrubHours := h } } else s

/-- TEL_CTL (R461, R470): the new period counts from now. -/
def writeTel (s : State) (v : Nat) : State :=
  let p := field v 0 32
  if p = 0 || (52500 ≤ p && p ≤ 525000000) then { s with obs := { s.obs with telPeriod := p, telLast := s.tally.toNat } } else s

/-- CTR_SEL (R461). -/
def writeCtrSel (s : State) (v : Nat) : State :=
  { s with obs := { s.obs with shadow := bit v 25, core := field v 16 8, ctrId := field v 0 16 } }

/-- HIF_POLL (R13, R244). -/
def writePoll (s : State) (v : Nat) : State :=
  let p := field v 0 20
  if 525 ≤ p && p ≤ 525000 then { s with hifPoll := p } else s

/-- Clear a latched fault (R487). -/
def clearFault (s : State) (c : CoreId) : State := s.modCore c fun k => { k with fault := { k.fault with valid := false } }

/-! The mailbox (R488, R489). -/

/-- Raise a mailbox's vector when it may. -/
def mailIrq (s : State) (mb : Fin 2) : State :=
  let m := s.sec.mail[mb]
  if m.irqEn then raiseVector s m.irqVec 0 else s

/-- SUBMIT: the request goes to the Enclave, or completes at once when its length is out of range. -/
def submitMail (s : State) (mb : Fin 2) : State :=
  let m := s.sec.mail[mb]
  if m.busy then s
  else if m.reqLen < 8 || 8192 < m.reqLen then
    mailIrq (modMail s mb fun m => { m with status := stMalformed, done := true, respLen := 0, resp := [] }) mb
  else
    let s := modMail s mb fun m =>
      { m with busy := true, done := false, answer := none,
               current := some ((m.req ++ List.replicate (m.reqLen - m.req.length) 0).take m.reqLen) }
    { s with sec := { s.sec with queue := s.sec.queue ++ [mb] } }

/-- MB_CTL: REQ_BYTES, then SUBMIT. -/
def writeMbCtl (s : State) (w : RegWrite) : State :=
  let s := if s.sec.mail[w.mb].busy then s else modMail s w.mb fun m => { m with reqLen := field w.all 32 14 }
  if bit w.bits 0 then submitMail s w.mb else s

/-- MB_IRQ. -/
def writeMbIrq (s : State) (w : RegWrite) : State :=
  modMail s w.mb fun m => { m with irqEn := bit w.all 8, irqVec := Fin.ofNat 64 w.all }

/-- Bytes put into a list at an offset, over zeros where it ends earlier. -/
def putBytes (l : List Byte) (o : Nat) (bs : List Byte) : List Byte :=
  (l ++ List.replicate (o - l.length) 0).take o ++ bs ++ l.drop (o + bs.length)

/-- MB_REQ, discarded while the mailbox is busy. -/
def writeMbReq (s : State) (w : RegWrite) : State :=
  if s.sec.mail[w.mb].busy then s
  else modMail s w.mb fun m => { m with req := putBytes m.req (w.off - 0x9000) (toBytes 8 w.all) }

/-! Rings and MSI-X (R238 to R242, R267, R490). -/

/-- A word of a submission ring's block. -/
def writeSub (s : State) (n : RingId) (o v : Nat) : State :=
  let q := s.subs[n]
  if o = 16 then writeSubCfg s n v
  else if q.active then s
  else if o = 0 then { s with subs := vset s.subs n { q with base := BitVec.ofNat 64 (v / 4096 * 4096) } }
  else if o = 8 then { s with subs := vset s.subs n { q with db := BitVec.ofNat 64 (v / 64 * 64) } }
  else s

/-- A word of a completion ring's block. -/
def writeComp (s : State) (n : RingId) (o v : Nat) : State :=
  let q := s.comps[n]
  if o = 16 then writeCompCfg s n v none
  else if q.active then s
  else if o = 0 then { s with comps := vset s.comps n { q with base := BitVec.ofNat 64 (v / 4096 * 4096) } }
  else if o = 8 then { s with comps := vset s.comps n { q with hl := BitVec.ofNat 64 (v / 64 * 64) } }
  else s

/-- A word of the MSI-X table; a vector unmasked with its pending bit set sends its message. -/
def writeMsix (s : State) (n : Fin 64) (o v : Nat) : State :=
  let m := s.msix[n]
  if o = 0 then { s with msix := vset s.msix n { m with addr := BitVec.ofNat 64 v } }
  else
    let s := { s with msix := vset s.msix n { m with data := BitVec.ofNat 32 v, ctrl := BitVec.ofNat 32 (field v 32 1) } }
    if m.pend && !bit v 32 then raiseVector s n m.gap else s

/-! All of them. -/

/-- The effect of a register write (Table 18.2). Read-only and reserved offsets take none. -/
def writeReg (s : State) (w : RegWrite) : State :=
  let o := w.off
  if o = 0x1008 then setLocks s w.bits
  else if o = 0x1010 then writePolicy s w.all
  else if o = 0x3000 then writeFabId s w.all
  else if o = 0x4000 then writeScrub s w.all
  else if 0x5400 ≤ o ∧ o < 0x6000 ∧ o % 16 = 0 then
    if bit w.bits 15 then clearFault s (Fin.ofNat 192 ((o - 0x5400) / 16)) else s
  else if o = 0x6000 then writeCtrSel s w.all
  else if o = 0x6028 then writeTel s w.all
  else if o = 0x8000 then writeMbCtl s w
  else if o = 0x8008 then if bit w.bits 1 then modMail s w.mb fun m => { m with done := false } else s
  else if o = 0x8010 then writeMbIrq s w
  else if 0x9000 ≤ o ∧ o < 0xB000 then writeMbReq s w
  else if o = 0x10000 then writePoll s w.all
  else if o = 0x10008 then writeHdmMap s w.all w.high
  else if 0x11000 ≤ o ∧ o < 0x12000 then writeSub s (Fin.ofNat 64 ((o - 0x11000) / 64)) (o % 64) w.all
  else if 0x12000 ≤ o ∧ o < 0x13000 then writeComp s (Fin.ofNat 64 ((o - 0x12000) / 64)) (o % 64) w.all
  else if 0x14000 ≤ o ∧ o < 0x14400 then writeMsix s (Fin.ofNat 64 ((o - 0x14000) / 16)) (o % 16) w.all
  else s

/-- A host write to BAR0 (R390, R452, R473): one that SEC_POLICY turns away reaches nothing; any other is a wake event. -/
def hostWrite (s : State) (off size : Nat) (v : Word) (secure : Bool) : State :=
  if !barOpen s secure then s
  else
    match regWriteOf s 0 off size v.toNat with
    | none => wakeChip s
    | some w => pumpRings (writeReg (wakeChip s) w)

/-- REGISTER_WRITE (R473). -/
def execRegisterWrite (off size : Nat) (v : Word) (secure : Bool) (s : State) : Res := .next (hostWrite s off size v secure)

/-- FAB_ID_WRITE (R482, R483). -/
def execFabIdWrite (v : Word) (secure : Bool) (s : State) : Res := .next (hostWrite s 0x3000 8 v secure)

/-- LOCKS_WRITE (R427 to R429). -/
def execLocksWrite (v : Word) (secure : Bool) (s : State) : Res := .next (hostWrite s 0x1008 8 v secure)

/-- SCRUB_CTL_WRITE (R485). -/
def execScrubCtlWrite (v : Word) (secure : Bool) (s : State) : Res := .next (hostWrite s 0x4000 8 v secure)

/-- TEL_CTL_WRITE (R461, R470). -/
def execTelCtlWrite (v : Word) (secure : Bool) (s : State) : Res := .next (hostWrite s 0x6028 8 v secure)

/-- FAULT_INFO_CLEAR (R487). -/
def execFaultInfoClear (core : CoreId) (secure : Bool) (s : State) : Res :=
  .next (hostWrite s (0x5400 + 16 * core.1) 8 0x8000 secure)

/-- A write to a mailbox through its own port: the host's is 0, the sideband's 1. -/
def mailWrite (s : State) (mb : Fin 2) (off : Nat) (v : Word) (secure : Bool) : State :=
  if mb = 0 && !barOpen s secure then s
  else
    match regWriteOf s mb off 8 v.toNat with
    | some w => writeReg (wakeChip s) w
    | none => s

/-- MB_SUBMIT (R489): a write of MB_CTL with SUBMIT set. -/
def execMbSubmit (mb : Fin 2) (v : Word) (secure : Bool) (s : State) : Res :=
  .next (if bit v.toNat 0 then mailWrite s mb 0x8000 v secure else s)

/-- MB_DONE_CLEAR (R10, R489): a DONE that the Enclave sets in the same cycle stays set. -/
def execMbDoneClear (mb : Fin 2) (setNow : Bool) (secure : Bool) (s : State) : Res :=
  .next (if mb = 0 && !barOpen s secure then s else if setNow then wakeChip s else mailWrite s mb 0x8008 2 secure)

/-- MB_RESPONSE (R435, R489): the answer of the request served first, or MALFORMED for a reserved code. -/
def execMbResponse (mb : Fin 2) (s : State) : Res :=
  .next (
    let m := s.sec.mail[mb]
    if s.sec.queue.head? ≠ some mb then s
    else
      let reserved := match m.current with | some bs => s.sec.enclaveUp && !reqCodes.contains (reqCode bs) | none => false
      match (if m.answer.isNone && reserved then some (stMalformed, []) else m.answer) with
      | none => s
      | some (st, bs) =>
        let s := { s with sec := { s.sec with queue := s.sec.queue.drop 1 } }
        mailIrq (modMail s mb fun m =>
          { m with busy := false, done := true, status := st, respLen := bs.length, resp := bs, current := none, answer := none }) mb)

/-! The sideband ports (R475, R502, R503). -/

/-- Change a port. -/
def modSide (s : State) (p : Fin 2) (f : Sideband → Sideband) : State := { s with side := vmod s.side p f }

/-- A transaction counts: under SMBus its packet error check must pass. -/
def sideOk (s : State) (p : Fin 2) (pecOk : Bool) : Bool := pecOk || s.side[p].i3c.isSome

/-- The sideband reaches offsets up to 0xFFFF (R475). -/
def sideReach (off : Nat) : Bool := decide (off < 0x10000)

/-- SMB_WRITE (R390, R475, R502). -/
def execSmbWrite (port : Fin 2) (bytes : List Byte) (pecOk : Bool) (s : State) : Res :=
  .next (if !sideOk s port pecOk || bytes.length ≠ 10 then s
    else
      let off := ofBytes (bytes.take 2)
      let s := wakeChip s
      if !sideReach off then s
      else
        match regWriteOf s 1 off 8 (ofBytes (bytes.drop 2)) with
        | some w => writeReg s w
        | none => s)

/-- SMB_ADDRESS (R502). -/
def execSmbAddress (port : Fin 2) (bytes : List Byte) (pecOk : Bool) (s : State) : Res :=
  .next (if !sideOk s port pecOk || bytes.length ≠ 2 then s
    else modSide (wakeChip s) port fun p => { p with readOff := ofBytes bytes })

/-- SMB_READ (R390, R474, R502): the read offset then advances by 8. -/
def execSmbRead (port : Fin 2) (s : State) : Res :=
  .next (
    let off := s.side[port].readOff
    let (s, v) := readReg (wakeChip s) 1 off
    modSide (s.emit (.readData (if sideReach off then v else 0))) port fun p => { p with readOff := (p.readOff + 8) % 65536 })

/-- I3C_ADDRESS_ASSIGN (R502). -/
def execI3cAddressAssign (port : Fin 2) (addr : BitVec 7) (s : State) : Res :=
  .next (modSide s port fun p => { p with i3c := some addr })

/-- UART_RX_INPUT (R503): taken in MANUFACTURE, where it is the vendor's, and ignored otherwise. -/
def execUartRxInput (b : Byte) (s : State) : Res :=
  .next (if lifecycle s = 0 then { s with sec := { s.sec with uartRx := s.sec.uartRx ++ [b] } } else s)

end Sys2Proof.Machine
end

