-- ==== Sys2Proof/Machine/Report.lean ====
section
/-! DEFINITION. QUERY and SNAPSHOT (R404, R491 to R493). -/
namespace Sys2Proof.Machine

/-- `n` bytes of zero with the given bytes at their offsets. -/
def layOut (n : Nat) (fs : List (Nat × List Byte)) : List Byte :=
  Memory.read (fs.foldl (fun m (o, bs) => Memory.write m o bs) []) 0 n

/-- Images of registers that follow one another in BAR0, as the host reads them (R491). -/
def images (s : State) (o n : Nat) : List Byte := (List.range n).flatMap fun i => toBytes 8 (regAt s 0 (o + 8 * i))

/-- Active slot of a field, 0xFF when empty. -/
def slotByte (s : State) (f : Nat) : Byte := match activeSlot s.sec.otp f with | some k => BitVec.ofNat 8 k | none => 0xFF

/-- The key hash of a field's active slot, zero when empty. -/
def hashBytes (s : State) (f : Nat) : List Byte :=
  match activeContent s.sec.otp f with | some x => x.take 48 | none => List.replicate 48 0

/-- An entry of page 4 for a region. -/
def regionEntry (r : Option Region) : List Byte :=
  match r with
  | none => List.replicate 32 0
  | some r =>
    let (kind, x) : Nat × Nat := match r.src with | .mirror m => (1, m) | .peer c => (2, c) | .host => (3, 0)
    toBytes 8 r.base ++ toBytes 8 r.size ++ toBytes 8 kind ++ toBytes 8 x

/-- Codes of the formats that a group may have (Table 10.10). -/
def groupFormat (f : Fmt) : Nat := f.code

/-- An entry of page 4 for a group. -/
def groupEntry (g : Option Group) : List Byte :=
  match g with
  | none => List.replicate 4 0
  | some g => toBytes 1 (0x80 + groupFormat g.fmt) ++ toBytes 1 g.policy.toNat ++ toBytes 2 g.gen

/-- The fields of a page (Table 18.12). -/
def pageFields (s : State) (page : Nat) : List (Nat × List Byte) :=
  if page = 0 then
    [(0x010, images s 0x0000 5), (0x038, identityHash s), (0x068, imageDigest s), (0x0A8, toBytes 1 (lifecycle s))]
  else if page = 1 then
    [(0x010, images s 0x0010 2), (0x020, toBytes 8 Config.anchorHalf), (0x028, toBytes 4 67108864), (0x02C, toBytes 2 384),
     (0x02E, toBytes 2 Config.workItems)]
  else if page = 2 then
    [(0x010, images s 0x1000 1 ++ images s 0x2000 1 ++ images s 0x2510 1 ++ images s 0x3010 2), (0x040, images s 0x3100 20),
     (0x0E0, images s 0x4100 8), (0x120, images s 0x4200 4), (0x140, images s 0x2100 16), (0x1C0, images s 0x2180 7)]
  else if page = 3 then
    [(0x010, images s 0x5000 16), (0x090, [slotByte s 4]),
     (0x098, toBytes 26 (s.life.bistFail.foldl (fun m i => m ||| 2 ^ i.1) 0))]
  else if page = 4 then
    [(0x040, s.regions.toList.flatMap regionEntry), (0x840, s.red.groups.toList.flatMap groupEntry)]
  else
    [(0x010, images s 0x1008 2), (0x020, toBytes 1 (lifecycle s) ++ toBytes 1 (otpVersion s) ++ toBytes 1 (imageVersion s)),
     (0x024, [slotByte s 2, slotByte s 3, slotByte s 4, slotByte s 5, slotByte s 6]),
     (0x029, toBytes 1 ((approvedMode s).toNat + 2 * s.sec.debugBy.isSome.toNat + 4 * unlockedBy s + 16 * s.sec.error.toNat)),
     (0x02A, toBytes 2 (min s.sec.errors 0xFFFF)), (0x030, hashBytes s 2), (0x060, hashBytes s 3)]

/-- A QUERY page (R491). -/
def queryPage (s : State) (page : Nat) : List Byte :=
  layOut 4096 ((0, toBytes 1 page ++ [1, 0, 0] ++ toBytes 4 s.seq ++ toBytes 8 s.tally.toNat) :: pageFields s page)

/-- QUERY (R491, R492): `writeOk` is false where DST leaves host memory that the device can write. -/
def execQuery (sq : RingId) (writeOk : Bool) (s : State) : Res :=
  .next (dispatch s sq (fun d => decide (d.opc = 0xE)) fun s d h =>
    let dst := d.word 1
    checked s h
      [(headOk d 8 && decide (d.param ≤ 5 ∧ dst % 4096 = 0) && d.zeroFrom 2, stMalformed),
       (inStates s [1, 2, 3, 4, 5, 6, 7], stRefused),
       (s.life.image.isSome || decide (d.param = 0), stUnsupported), (writeOk, stBadAddress)]
      (answerDesc (s.emit (.hostWrite dst (queryPage s d.param))) h stOK 0))

/-- The SNAPSHOT report (Table 18.13) of `n` bytes. -/
def snapshotReport (s : State) (n watts centivolts cycles : Nat) : List Byte :=
  (layOut 4096
    [(0, [1]), (0x8, toBytes 8 s.tally.toNat), (0x10, images s 0x1000 1), (0x18, toBytes 8 n),
     (0x40, recBytes (telemetryRec s s.tally.toNat watts centivolts cycles) false)] ++ images s 0 4096).take n

/-- SNAPSHOT (R404, R493). -/
def execSnapshot (sq : RingId) (watts centivolts cycles : Nat) (writeOk : Bool) (s : State) : Res :=
  .next (dispatch s sq (fun d => decide (d.opc = 0xD)) fun s d h =>
    let dst := d.word 1
    let n := d.word 2
    checked s h
      [(headOk d 0 && decide (n % 4096 = 0 ∧ 4096 ≤ n) && d.zeroFrom 3, stMalformed),
       (inStates s [1, 2, 3, 4, 5, 6, 7], stRefused), (writeOk, stBadAddress)]
      (answerDesc (s.emit (.hostWrite dst (snapshotReport s (min n 36864) watts centivolts cycles))) h stOK 0))

end Sys2Proof.Machine
end

