-- ==== Sys2Proof/Machine/Dispatch.lean ====
section
/-! DEFINITION. The meaning of each command, one arm a row of the opcode table. -/
namespace Sys2Proof.Machine

/-- What a command does to everything but the queue. -/
def exec (i : Instr) (s : State) : Host.Outcome State Fault Refusal :=
  match i with
  | .nop sq => Sys2Proof.Machine.execNop sq s
  | .launch sq => Sys2Proof.Machine.execLaunch sq s
  | .backlogItem sq => Sys2Proof.Machine.execBacklogItem sq s
  | .copy sq => Sys2Proof.Machine.execCopy sq s
  | .fill sq => Sys2Proof.Machine.execFill sq s
  | .wipe sq => Sys2Proof.Machine.execWipe sq s
  | .wipeStatus sq => Sys2Proof.Machine.execWipeStatus sq s
  | .fwLoad sq image => Sys2Proof.Machine.execFwLoad sq image s
  | .fwVerifyDone vendorSigOk ownerSigOk => Sys2Proof.Machine.execFwVerifyDone vendorSigOk ownerSigOk s
  | .routeLoad sq table => Sys2Proof.Machine.execRouteLoad sq table s
  | .epochSwitch sq => Sys2Proof.Machine.execEpochSwitch sq s
  | .epochSwitchEffect => Sys2Proof.Machine.execEpochSwitchEffect s
  | .fence sq => Sys2Proof.Machine.execFence sq s
  | .reinstate sq => Sys2Proof.Machine.execReinstate sq s
  | .setLevel sq => Sys2Proof.Machine.execSetLevel sq s
  | .groupOpen sq => Sys2Proof.Machine.execGroupOpen sq s
  | .groupClose sq => Sys2Proof.Machine.execGroupClose sq s
  | .snapshot sq watts centivolts cycles writeOk => Sys2Proof.Machine.execSnapshot sq watts centivolts cycles writeOk s
  | .query sq writeOk => Sys2Proof.Machine.execQuery sq writeOk s
  | .tallyAlign sq => Sys2Proof.Machine.execTallyAlign sq s
  | .tallyAlignTimeout => Sys2Proof.Machine.execTallyAlignTimeout s
  | .traceCtlEnable sq => Sys2Proof.Machine.execTraceCtlEnable sq s
  | .traceCtlDisable sq => Sys2Proof.Machine.execTraceCtlDisable sq s
  | .traceDrainDone => Sys2Proof.Machine.execTraceDrainDone s
  | .regionDeclare sq => Sys2Proof.Machine.execRegionDeclare sq s
  | .regionRemove sq => Sys2Proof.Machine.execRegionRemove sq s
  | .quiesce sq => Sys2Proof.Machine.execQuiesce sq s
  | .quiesceLeave sq => Sys2Proof.Machine.execQuiesceLeave sq s
  | .launchStart => Sys2Proof.Machine.execLaunchStart s
  | .launchFirstIssue => Sys2Proof.Machine.execLaunchFirstIssue s
  | .launchComplete writeOk => Sys2Proof.Machine.execLaunchComplete writeOk s
  | .doorbellStore sq => Sys2Proof.Machine.execDoorbellStore sq s
  | .doorbellLineFill sq tail => Sys2Proof.Machine.execDoorbellLineFill sq tail s
  | .descriptorFetchDone sq descs => Sys2Proof.Machine.execDescriptorFetchDone sq descs s
  | .ringPoll isCq n line => Sys2Proof.Machine.execRingPoll isCq n line s
  | .headLineStore cq a => Sys2Proof.Machine.execHeadLineStore cq a s
  | .msixHoldoffExpire vec => Sys2Proof.Machine.execMsixHoldoffExpire vec s
  | .sqEnableSet sq v secure => Sys2Proof.Machine.execSqEnableSet sq v secure s
  | .sqEnableClear sq secure => Sys2Proof.Machine.execSqEnableClear sq secure s
  | .cqEnableSet cq v line secure => Sys2Proof.Machine.execCqEnableSet cq v line secure s
  | .cqEnableClear cq secure => Sys2Proof.Machine.execCqEnableClear cq secure s
  | .hdmMapEnable v secure => Sys2Proof.Machine.execHdmMapEnable v secure s
  | .hdmRead off secure => Sys2Proof.Machine.execHdmRead off secure s
  | .hdmWrite off data secure => Sys2Proof.Machine.execHdmWrite off data secure s
  | .fabIdWrite v secure => Sys2Proof.Machine.execFabIdWrite v secure s
  | .locksWrite v secure => Sys2Proof.Machine.execLocksWrite v secure s
  | .scrubCtlWrite v secure => Sys2Proof.Machine.execScrubCtlWrite v secure s
  | .telCtlWrite v secure => Sys2Proof.Machine.execTelCtlWrite v secure s
  | .ctrDataRead half secure => Sys2Proof.Machine.execCtrDataRead half secure s
  | .tallyNowRead half secure => Sys2Proof.Machine.execTallyNowRead half secure s
  | .faultInfoClear core secure => Sys2Proof.Machine.execFaultInfoClear core secure s
  | .mbSubmit mb v secure => Sys2Proof.Machine.execMbSubmit mb v secure s
  | .mbDoneClear mb setNow secure => Sys2Proof.Machine.execMbDoneClear mb setNow secure s
  | .mbResponse mb => Sys2Proof.Machine.execMbResponse mb s
  | .registerWrite off size v secure => Sys2Proof.Machine.execRegisterWrite off size v secure s
  | .smbWrite port bytes pecOk => Sys2Proof.Machine.execSmbWrite port bytes pecOk s
  | .smbAddress port bytes pecOk => Sys2Proof.Machine.execSmbAddress port bytes pecOk s
  | .smbRead port => Sys2Proof.Machine.execSmbRead port s
  | .i3cAddressAssign port addr => Sys2Proof.Machine.execI3cAddressAssign port addr s
  | .uartRxInput b => Sys2Proof.Machine.execUartRxInput b s
  | .getNonce mb random => Sys2Proof.Machine.execGetNonce mb random s
  | .nonceExpire mb => Sys2Proof.Machine.execNonceExpire mb s
  | .getIdentity mb => Sys2Proof.Machine.execGetIdentity mb s
  | .certLoad mb leafMatches => Sys2Proof.Machine.execCertLoad mb leafMatches s
  | .otpProgram mb sigOk readBackOk => Sys2Proof.Machine.execOtpProgram mb sigOk readBackOk s
  | .lifecycleMove mb sigOk readBackOk => Sys2Proof.Machine.execLifecycleMove mb sigOk readBackOk s
  | .debugChallenge mb random => Sys2Proof.Machine.execDebugChallenge mb random s
  | .debugUnlock mb sigOk => Sys2Proof.Machine.execDebugUnlock mb sigOk s
  | .zeroise mb => Sys2Proof.Machine.execZeroise mb s
  | .selfTest mb pass => Sys2Proof.Machine.execSelfTest mb pass s
  | .enclaveSelfTests pass publicKey => Sys2Proof.Machine.execEnclaveSelfTests pass publicKey s
  | .enclaveErrorState => Sys2Proof.Machine.execEnclaveErrorState s
  | .enclaveEnvFault => Sys2Proof.Machine.execEnclaveEnvFault s
  | .spdmRequest req => Sys2Proof.Machine.execSpdmRequest req s
  | .ideKmKeyProg session stream set rx => Sys2Proof.Machine.execIdeKmKeyProg session stream set rx s
  | .ideKmKSetGo session stream set => Sys2Proof.Machine.execIdeKmKSetGo session stream set s
  | .ideIntegrityFail stream => Sys2Proof.Machine.execIdeIntegrityFail stream s
  | .nopInstr th => Sys2Proof.Machine.execNopInstr th s
  | .endThread th => Sys2Proof.Machine.execEndThread th s
  | .commit th => Sys2Proof.Machine.execCommit th s
  | .anchor th => Sys2Proof.Machine.execAnchor th s
  | .anchorSpill => Sys2Proof.Machine.execAnchorSpill s
  | .wait th => Sys2Proof.Machine.execWait th s
  | .br th => Sys2Proof.Machine.execBr th s
  | .loop th => Sys2Proof.Machine.execLoop th s
  | .lcset th => Sys2Proof.Machine.execLcset th s
  | .lcrd th => Sys2Proof.Machine.execLcrd th s
  | .add th => Sys2Proof.Machine.execAdd th s
  | .sub th => Sys2Proof.Machine.execSub th s
  | .mul th => Sys2Proof.Machine.execMul th s
  | .and th => Sys2Proof.Machine.execAnd th s
  | .or th => Sys2Proof.Machine.execOr th s
  | .xor th => Sys2Proof.Machine.execXor th s
  | .shl th => Sys2Proof.Machine.execShl th s
  | .shr th => Sys2Proof.Machine.execShr th s
  | .sar th => Sys2Proof.Machine.execSar th s
  | .min th => Sys2Proof.Machine.execMin th s
  | .max th => Sys2Proof.Machine.execMax th s
  | .minu th => Sys2Proof.Machine.execMinu th s
  | .maxu th => Sys2Proof.Machine.execMaxu th s
  | .movhi th => Sys2Proof.Machine.execMovhi th s
  | .cmp th => Sys2Proof.Machine.execCmp th s
  | .plog th => Sys2Proof.Machine.execPlog th s
  | .ld th => Sys2Proof.Machine.execLd th s
  | .st th => Sys2Proof.Machine.execSt th s
  | .tallyrd th => Sys2Proof.Machine.execTallyrd th s
  | .entropy th waited => Sys2Proof.Machine.execEntropy th waited s
  | .ctrrd th => Sys2Proof.Machine.execCtrrd th s
  | .flagrd th => Sys2Proof.Machine.execFlagrd th s
  | .flagclr th => Sys2Proof.Machine.execFlagclr th s
  | .wld th => Sys2Proof.Machine.execWld th s
  | .mma th => Sys2Proof.Machine.execMma th s
  | .trd th => Sys2Proof.Machine.execTrd th s
  | .tjn th => Sys2Proof.Machine.execTjn th s
  | .tsr th => Sys2Proof.Machine.execTsr th s
  | .vopAdd th => Sys2Proof.Machine.execVopAdd th s
  | .vopSub th => Sys2Proof.Machine.execVopSub th s
  | .vopMul th => Sys2Proof.Machine.execVopMul th s
  | .vopFma th => Sys2Proof.Machine.execVopFma th s
  | .vopMin th => Sys2Proof.Machine.execVopMin th s
  | .vopMax th => Sys2Proof.Machine.execVopMax th s
  | .vopAbs th => Sys2Proof.Machine.execVopAbs th s
  | .vopNeg th => Sys2Proof.Machine.execVopNeg th s
  | .vopCmpeq th => Sys2Proof.Machine.execVopCmpeq th s
  | .vopCmpne th => Sys2Proof.Machine.execVopCmpne th s
  | .vopCmplt th => Sys2Proof.Machine.execVopCmplt th s
  | .vopCmple th => Sys2Proof.Machine.execVopCmple th s
  | .vopSelect th => Sys2Proof.Machine.execVopSelect th s
  | .vopIadd th => Sys2Proof.Machine.execVopIadd th s
  | .vopIsub th => Sys2Proof.Machine.execVopIsub th s
  | .vopImin th => Sys2Proof.Machine.execVopImin th s
  | .vopImax th => Sys2Proof.Machine.execVopImax th s
  | .vopConvert th => Sys2Proof.Machine.execVopConvert th s
  | .vopTwosum th => Sys2Proof.Machine.execVopTwosum th s
  | .vopTwoprod th => Sys2Proof.Machine.execVopTwoprod th s
  | .vopPadd th => Sys2Proof.Machine.execVopPadd th s
  | .vopPaddf th => Sys2Proof.Machine.execVopPaddf th s
  | .vopPscale th => Sys2Proof.Machine.execVopPscale th s
  | .vopRcp th => Sys2Proof.Machine.execVopRcp th s
  | .vopSqrt th => Sys2Proof.Machine.execVopSqrt th s
  | .vopRsqrt th => Sys2Proof.Machine.execVopRsqrt th s
  | .vopExp2 th => Sys2Proof.Machine.execVopExp2 th s
  | .vopExp th => Sys2Proof.Machine.execVopExp th s
  | .vopLog2 th => Sys2Proof.Machine.execVopLog2 th s
  | .vopLog th => Sys2Proof.Machine.execVopLog th s
  | .vopTanh th => Sys2Proof.Machine.execVopTanh th s
  | .vopSigmoid th => Sys2Proof.Machine.execVopSigmoid th s
  | .vopGelu th => Sys2Proof.Machine.execVopGelu th s
  | .vopSilu th => Sys2Proof.Machine.execVopSilu th s
  | .vopSin th => Sys2Proof.Machine.execVopSin th s
  | .vopCos th => Sys2Proof.Machine.execVopCos th s
  | .vopVsum th => Sys2Proof.Machine.execVopVsum th s
  | .vopVmax th => Sys2Proof.Machine.execVopVmax th s
  | .vopVmin th => Sys2Proof.Machine.execVopVmin th s
  | .vopVargmax th => Sys2Proof.Machine.execVopVargmax th s
  | .topk th => Sys2Proof.Machine.execTopk th s
  | .smax th => Sys2Proof.Machine.execSmax th s
  | .tscale th => Sys2Proof.Machine.execTscale th s
  | .slotinit th => Sys2Proof.Machine.execSlotinit th s
  | .slotfinal th => Sys2Proof.Machine.execSlotfinal th s
  | .tacc th => Sys2Proof.Machine.execTacc th s
  | .dmaCopy th => Sys2Proof.Machine.execDmaCopy th s
  | .dmaConvert th => Sys2Proof.Machine.execDmaConvert th s
  | .dmaTranspose th => Sys2Proof.Machine.execDmaTranspose th s
  | .dmaGather th => Sys2Proof.Machine.execDmaGather th s
  | .dmaAtomicAdd th => Sys2Proof.Machine.execDmaAtomicAdd th s
  | .dmaFill th => Sys2Proof.Machine.execDmaFill th s
  | .dmaTransferDone th entry stall => Sys2Proof.Machine.execDmaTransferDone th entry stall s
  | .bufdef th => Sys2Proof.Machine.execBufdef th s
  | .gatherComplete th entry => Sys2Proof.Machine.execGatherComplete th entry s
  | .fadd th => Sys2Proof.Machine.execFadd th s
  | .send th => Sys2Proof.Machine.execSend th s
  | .post th => Sys2Proof.Machine.execPost th s
  | .await th => Sys2Proof.Machine.execAwait th s
  | .awaitRelease th waited => Sys2Proof.Machine.execAwaitRelease th waited s
  | .awaitany th => Sys2Proof.Machine.execAwaitany th s
  | .awaitanyRelease th waited => Sys2Proof.Machine.execAwaitanyRelease th waited s
  | .grdy th => Sys2Proof.Machine.execGrdy th s
  | .windowWait th => Sys2Proof.Machine.execWindowWait th s
  | .windowEnter th waited => Sys2Proof.Machine.execWindowEnter th waited s
  | .loadNotice th kind => Sys2Proof.Machine.execLoadNotice th kind s
  | .cueLineFetch th line missCycles => Sys2Proof.Machine.execCueLineFetch th line missCycles s
  | .passRecompute th found => Sys2Proof.Machine.execPassRecompute th found s
  | .anchorReplay why => Sys2Proof.Machine.execAnchorReplay why s
  | .replayModeEnd => Sys2Proof.Machine.execReplayModeEnd s
  | .reductionJoinRepeat core failures => Sys2Proof.Machine.execReductionJoinRepeat core failures s
  | .hbmSectorError addr first second reader lost => Sys2Proof.Machine.execHbmSectorError addr first second reader lost s
  | .peerRestoreReply addr result data => Sys2Proof.Machine.execPeerRestoreReply addr result data s
  | .peerRestoreTimeout addr => Sys2Proof.Machine.execPeerRestoreTimeout addr s
  | .laneRepair chan lane stalled => Sys2Proof.Machine.execLaneRepair chan lane stalled s
  | .pcRetire pc => Sys2Proof.Machine.execPcRetire pc s
  | .refresh pc stalled corrected => Sys2Proof.Machine.execRefresh pc stalled corrected s
  | .refreshSlotAccess pc cost => Sys2Proof.Machine.execRefreshSlotAccess pc cost s
  | .benchScrubRead site bank found => Sys2Proof.Machine.execBenchScrubRead site bank found s
  | .phaseFail rail phase => Sys2Proof.Machine.execPhaseFail rail phase s
  | .linkTraining l => Sys2Proof.Machine.execLinkTraining l s
  | .linkTrained l mode failed partner => Sys2Proof.Machine.execLinkTrained l mode failed partner s
  | .linkLaneLoss l lane => Sys2Proof.Machine.execLinkLaneLoss l lane s
  | .linkPacketReceive l pkt => Sys2Proof.Machine.execLinkPacketReceive l pkt s
  | .linkCreditReturn l => Sys2Proof.Machine.execLinkCreditReturn l s
  | .linkReplayTimeout l => Sys2Proof.Machine.execLinkReplayTimeout l s
  | .packetForward l pkt => Sys2Proof.Machine.execPacketForward l pkt s
  | .sendReceive l arr => Sys2Proof.Machine.execSendReceive l arr s
  | .postReceive l arr => Sys2Proof.Machine.execPostReceive l arr s
  | .ackReceive l pkt => Sys2Proof.Machine.execAckReceive l pkt s
  | .readReqReceive l pkt => Sys2Proof.Machine.execReadReqReceive l pkt s
  | .readRespReceive l pkt => Sys2Proof.Machine.execReadRespReceive l pkt s
  | .redDataReceive l pkt => Sys2Proof.Machine.execRedDataReceive l pkt s
  | .redCtlMissed l pkt => Sys2Proof.Machine.execRedCtlMissed l pkt s
  | .redCtlStale l pkt => Sys2Proof.Machine.execRedCtlStale l pkt s
  | .redCtlResend l ask => Sys2Proof.Machine.execRedCtlResend l ask s
  | .tallyExchange l => Sys2Proof.Machine.execTallyExchange l s
  | .tallyPacketReceive l pkt stamp => Sys2Proof.Machine.execTallyPacketReceive l pkt stamp s
  | .tallyRefEdge => Sys2Proof.Machine.execTallyRefEdge s
  | .e2eResend k => Sys2Proof.Machine.execE2eResend k s
  | .acceptRecordExpire k => Sys2Proof.Machine.execAcceptRecordExpire k s
  | .epochDrained => Sys2Proof.Machine.execEpochDrained s
  | .segmentInstanceBegin group bucket seg => Sys2Proof.Machine.execSegmentInstanceBegin group bucket seg s
  | .reductionStageDeadline group bucket seg => Sys2Proof.Machine.execReductionStageDeadline group bucket seg s
  | .reductionWindowSpace k => Sys2Proof.Machine.execReductionWindowSpace k s
  | .coldReset => Sys2Proof.Machine.execColdReset s
  | .perstAssert => Sys2Proof.Machine.execPerstAssert s
  | .perstDeassert setUp => Sys2Proof.Machine.execPerstDeassert setUp s
  | .cxlHotReset => Sys2Proof.Machine.execCxlHotReset s
  | .functionLevelReset => Sys2Proof.Machine.execFunctionLevelReset s
  | .pwrGoodAssert failedPhases => Sys2Proof.Machine.execPwrGoodAssert failedPhases s
  | .railSequenceDone => Sys2Proof.Machine.execRailSequenceDone s
  | .railTimeout rail => Sys2Proof.Machine.execRailTimeout rail s
  | .pwrGoodDeassert orderly => Sys2Proof.Machine.execPwrGoodDeassert orderly s
  | .inputShutdown => Sys2Proof.Machine.execInputShutdown s
  | .coreRefLoss => Sys2Proof.Machine.execCoreRefLoss s
  | .memoryStage stackFails lanes badPcs => Sys2Proof.Machine.execMemoryStage stackFails lanes badPcs s
  | .computeStage bistFails calibrated guard => Sys2Proof.Machine.execComputeStage bistFails calibrated guard s
  | .reinstateBistDone pass => Sys2Proof.Machine.execReinstateBistDone pass s
  | .levelChangeComplete => Sys2Proof.Machine.execLevelChangeComplete s
  | .droopStretch col stop => Sys2Proof.Machine.execDroopStretch col stop s
  | .stretchEnd col roots => Sys2Proof.Machine.execStretchEnd col roots s
  | .clockStopCheck col failedPhase => Sys2Proof.Machine.execClockStopCheck col failedPhase s
  | .sensorRead readings => Sys2Proof.Machine.execSensorRead readings s
  | .thermalEvaluate => Sys2Proof.Machine.execThermalEvaluate s
  | .s1Entry core => Sys2Proof.Machine.execS1Entry core s
  | .s2Entry core => Sys2Proof.Machine.execS2Entry core s
  | .s3Entry => Sys2Proof.Machine.execS3Entry s
  | .s3EntryComplete => Sys2Proof.Machine.execS3EntryComplete s
  | .coreWake core => Sys2Proof.Machine.execCoreWake core s
  | .s3Wake => Sys2Proof.Machine.execS3Wake s
  | .s3ExitComplete => Sys2Proof.Machine.execS3ExitComplete s
  | .telemetryRecord watts centivolts cycles => Sys2Proof.Machine.execTelemetryRecord watts centivolts cycles s
  | .arrayOperationDone th entry stall => Sys2Proof.Machine.execArrayOperationDone th entry stall s
  | .vectorOperationDone th entry stall => Sys2Proof.Machine.execVectorOperationDone th entry stall s
  | .atomicAcknowledge th => Sys2Proof.Machine.execAtomicAcknowledge th s
  | .memoryDescriptorComplete item host => Sys2Proof.Machine.execMemoryDescriptorComplete item host s
  | .receivedPacketDiscard l pkt => Sys2Proof.Machine.execReceivedPacketDiscard l pkt s
  | .currentLimitStretch on roots => Sys2Proof.Machine.execCurrentLimitStretch on roots s
  | .clockStopEnd col roots => Sys2Proof.Machine.execClockStopEnd col roots s
  | .ageingGuardBandRaise => Sys2Proof.Machine.execAgeingGuardBandRaise s
  | .entropyBufferRefill v => Sys2Proof.Machine.execEntropyBufferRefill v s
  | .coreWakeComplete core => Sys2Proof.Machine.execCoreWakeComplete core s
  | .cxlLinkPowerState l2 => Sys2Proof.Machine.execCxlLinkPowerState l2 s

end Sys2Proof.Machine
end

