-- ==== Sys2Proof/Safety.lean ====
section
/-! DEFINITION. What claims speak of: the invariant of the canonical memories, a step that stops nowhere, and how one
instruction of a thread changes the state. -/
namespace Sys2Proof.Safety

open Sys2Proof.Machine

/-- Every memory of the device is in its canonical form. -/
abbrev memoriesWf (s : State) : Prop :=
  Memory.wf s.hbm.mem ∧ Memory.wf s.sec.otp ∧ ∀ i : SiteId, Memory.wf s.sites[i].bench

/-- The bench banks that anchors hold are in canonical form, each within its bank. -/
abbrev banksWf (s : State) : Prop :=
  ∀ l, s.launch = some l → ∀ a ∈ l.anchors, ∀ k ∈ a.cores, ∀ b ∈ k.2.banks,
    Memory.wf b.2 ∧ ∀ x ∈ b.2, 65536 * b.1 ≤ x.1 ∧ x.1 < 65536 * b.1 + 65536

/-- Every list of cells that the state holds is in canonical form. -/
def canonical (s : State) : Prop := memoriesWf s ∧ banksWf s

/-- The step answers a next state. -/
def stepsOn (s : State) : Prop := ∃ t, step s = .next t

/-! One instruction of a thread. -/

/-- The thread may issue, and its next word is `w`, which decodes (R44, R190 to R192). -/
abbrev issues (s : State) (th : ThRef) (w : Word) : Prop :=
  canIssue s th = true ∧ fetchWord s th = some (.ok w) ∧ decodeFault w.toNat = none

/-- The thread's next word `w` has opcode `op`, its predicate lets it execute (R198), every unit it names has room (R128) and
it names no register that waits for an FADD (R211). -/
abbrev executes (s : State) (th : ThRef) (w : Word) (op : Nat) (us : List ExecUnit) : Prop :=
  issues s th w ∧ fOPC w.toNat = op ∧ (s.th th).regs.pred (fPRED w.toNat) ≠ fPN w.toNat ∧ sbRoom s th us = true ∧
    heldHit s ⟨th, (s.th th).pos, w.toNat⟩ = false

/-- A thread one instruction further on, at index `p`. -/
def further (t : Thread) (p : Nat) : Thread :=
  { t with pos := p, cycles := t.cycles + 1, stepNo := t.stepNo + 1, steps := t.steps + 1, passed := false }

/-- From `s` to `t` nothing changes but one thread, its core's launch counters, the chip's counters of dropped trace records and
the trace. -/
def onlyThread (s t : State) (th : ThRef) : Prop :=
  t = { s with cores := t.cores, ctrs := t.ctrs, run := t.run, trace := t.trace } ∧
  (∀ c, c ≠ th.core → t.core c = s.core c) ∧ (∀ r, r ≠ th → t.th r = s.th r) ∧
  t.core th.core = { s.core th.core with threads := (t.core th.core).threads, live := (t.core th.core).live }

/-- An instruction that leaves the thread as `T` has executed: the thread stands at `p`, the core has counted it in ISSUED, and
nothing else is touched but the trace and its counters. -/
def goesOn (s t : State) (th : ThRef) (T : Thread) (p : Nat) : Prop :=
  onlyThread s t th ∧ t.th th = { further T p with stretched := (t.th th).stretched } ∧
  (t.core th.core).live = { (s.core th.core).live with issued := sat64 (s.core th.core).live.issued 1 }

/-- The ALU instructions of Table 8.4: the command, its opcode, and `s[A] op b`. -/
def aluTable : List ((ThRef → Instr) × Nat × (Word → Word → Word)) :=
  [(.add, 0x10, fun a b => a + b), (.sub, 0x11, fun a b => a - b), (.mul, 0x12, fun a b => a * b),
   (.and, 0x13, fun a b => a &&& b), (.or, 0x14, fun a b => a ||| b), (.xor, 0x15, fun a b => a ^^^ b),
   (.shl, 0x16, fun a b => a <<< (b.toNat % 64)), (.shr, 0x17, fun a b => a >>> (b.toNat % 64)),
   (.sar, 0x18, fun a b => a.sshiftRight (b.toNat % 64)),
   (.min, 0x19, fun a b => if b.toInt < a.toInt then b else a), (.max, 0x1A, fun a b => if a.toInt < b.toInt then b else a),
   (.minu, 0x1B, fun a b => if b.toNat < a.toNat then b else a), (.maxu, 0x1C, fun a b => if a.toNat < b.toNat then b else a)]

/-- No half of a core's bench is known to fail its code (R520): no operation waits there. -/
abbrev soundBench (s : State) (c : CoreId) : Prop := (s.sites[siteOf s c]).bad = []

/-- From `s` to `t` the benches change in one range of one core's bench only, which now holds `bs`; no half comes to fail its code. -/
def benchHolds (s t : State) (c : CoreId) (a : Nat) (bs : List Byte) : Prop :=
  ∀ i : SiteId, t.sites[i].scrub = s.sites[i].scrub ∧ (∀ h ∈ t.sites[i].bad, h ∈ s.sites[i].bad) ∧
    ∀ x, (t.sites[i].bench).get x =
      if i = siteOf s c ∧ a ≤ x ∧ x < a + bs.length then bs.getD (x - a) 0 else (s.sites[i].bench).get x

/-- The commands that issue an instruction of their own opcode, but for VOP and DMA. -/
def opcodeTable : List ((ThRef → Instr) × Nat) :=
  [(.nopInstr, 0x00), (.endThread, 0x01), (.commit, 0x02), (.anchor, 0x03), (.wait, 0x04), (.br, 0x05), (.loop, 0x06),
   (.lcset, 0x07), (.lcrd, 0x08), (.add, 0x10), (.sub, 0x11), (.mul, 0x12), (.and, 0x13), (.or, 0x14), (.xor, 0x15),
   (.shl, 0x16), (.shr, 0x17), (.sar, 0x18), (.min, 0x19), (.max, 0x1A), (.minu, 0x1B), (.maxu, 0x1C), (.movhi, 0x1D),
   (.cmp, 0x20), (.plog, 0x22), (.ld, 0x28), (.st, 0x29), (.tallyrd, 0x30), ((.entropy · 0), 0x31), (.ctrrd, 0x32),
   (.flagrd, 0x33), (.flagclr, 0x34), (.wld, 0x40), (.mma, 0x41), (.trd, 0x42), (.tjn, 0x43), (.tsr, 0x44), (.topk, 0x51),
   (.smax, 0x52), (.tscale, 0x53), (.slotinit, 0x54), (.slotfinal, 0x55), (.tacc, 0x56), (.bufdef, 0x61), (.fadd, 0x62),
   (.send, 0x63), (.post, 0x64), (.await, 0x65), (.awaitany, 0x66), (.grdy, 0x67)]

/-- The functions of VOP (Tables 6.1 and 8.7): the command, FUNC, and what the function makes of its sources. -/
def vopTable : List ((ThRef → Instr) × Nat × VKind) :=
  [(.vopAdd, 0x00, (.fp fun sat a b _ => fp32Add sat a b)),
   (.vopSub, 0x01, (.fp fun sat a b _ => fp32Sub sat a b)),
   (.vopMul, 0x02, (.fp fun sat a b _ => fp32Mul sat a b)),
   (.vopFma, 0x03, (.fp fp32Fma)),
   (.vopMin, 0x04, (.fp fun _ a b _ => (vmin a b, 0))),
   (.vopMax, 0x05, (.fp fun _ a b _ => (vmax a b, 0))),
   (.vopAbs, 0x06, (unary fun a => (vabs a, 0))),
   (.vopNeg, 0x07, (unary fun a => (vneg a, 0))),
   (.vopCmpeq, 0x08, (.cmp Val.eqv)),
   (.vopCmpne, 0x09, (.cmp fun a b => !Val.eqv a b)),
   (.vopCmplt, 0x0A, (.cmp Val.lt)),
   (.vopCmple, 0x0B, (.cmp fun a b => Val.lt a b || Val.eqv a b)),
   (.vopSelect, 0x0C, (.fp fun _ a b m => (vselect a b m, 0))),
   (.vopIadd, 0x0D, (.int fun a b => satInt32 (a + b))),
   (.vopIsub, 0x0E, (.int fun a b => satInt32 (a - b))),
   (.vopImin, 0x0F, (.int fun a b => satInt32 (min a b))),
   (.vopImax, 0x10, (.int fun a b => satInt32 (max a b))),
   (.vopConvert, 0x11, .convert),
   (.vopTwosum, 0x12, (.pair false false fun sat a b => vtwosum sat a.hi b.hi)),
   (.vopTwoprod, 0x13, (.pair false false fun sat a b => vtwoprod sat a.hi b.hi)),
   (.vopPadd, 0x14, (.pair true true pairAdd)),
   (.vopPaddf, 0x15, (.pair true false pairAdd)),
   (.vopPscale, 0x16, (.pair true false fun sat p f => pscale sat p f.hi)),
   (.vopRcp, 0x17, (vopFun .rcp)),
   (.vopSqrt, 0x18, (vopFun .sqrt)),
   (.vopRsqrt, 0x19, (vopFun .rsqrt)),
   (.vopExp2, 0x1A, (vopFun .exp2)),
   (.vopExp, 0x1B, (vopFun .exp)),
   (.vopLog2, 0x1C, (vopFun .log2)),
   (.vopLog, 0x1D, (vopFun .log)),
   (.vopTanh, 0x1E, (vopFun .tanh)),
   (.vopSigmoid, 0x1F, (vopFun .sigmoid)),
   (.vopGelu, 0x20, (unary gelu)),
   (.vopSilu, 0x21, (unary silu)),
   (.vopSin, 0x22, (vopFun .sin)),
   (.vopCos, 0x23, (vopFun .cos)),
   (.vopVsum, 0x24, .sum),
   (.vopVmax, 0x25, (.fold vmax)),
   (.vopVmin, 0x26, (.fold vmin)),
   (.vopVargmax, 0x27, .argmax)]

/-! Descriptors. -/

/-- From `s` to `t` only the host interface has moved, with what it counts and traces: rings, vectors, open work items, what the
device sends. -/
def hostOnly (s t : State) : Prop :=
  t = { s with subs := t.subs, comps := t.comps, msix := t.msix, lastRing := t.lastRing, items := t.items, nextItem := t.nextItem,
               trace := t.trace, ctrs := t.ctrs, run := t.run, out := t.out, power := { s.power with wakeN := t.power.wakeN } }

/-- `d` is the front descriptor of ring `sq`, its OPC is one the ring takes (R250 check 1), and the ring's dispatcher picks the
ring (R246). -/
abbrev offered (s : State) (sq : RingId) (d : Desc) : Prop :=
  (s.subs[sq]).fetched.head? = some d ∧ d.known (s.subs[sq]).ty = true ∧ pickRing s (Fin.ofNat 4 sq.1) = some sq

/-- The front descriptor of a ring is consumed: HEAD has passed it (R240). -/
def consumed (s u : State) (sq : RingId) : Prop :=
  u.subs = vset s.subs sq { s.subs[sq] with headPos := ((s.subs[sq]).headPos + 1) % 2 ^ 32, fetched := (s.subs[sq]).fetched.drop 1 }

/-- A record for a ring is written, or waits for space, or is discarded and counted as the ring is not ACTIVE (R241, R260). -/
def recordGiven (s u : State) (cq : RingId) (r : Rec) : Prop :=
  if (s.comps[cq]).active then r ∈ (u.comps[cq]).waiting ∨ ∃ a p, Output.record cq a r p ∈ u.out.drop s.out.length
  else (s.comps[cq]).dropped < (u.comps[cq]).dropped ∨ (u.comps[cq]).dropped = 0xFFFF

/-- The KIND 0 record of a descriptor other than LAUNCH: its TAG, OPC, SQ and SLOT, with a STATUS and a RESULT (R261). -/
def doneRec (h : DHead) (status result : Nat) (closes : Option Nat) : Rec :=
  { tag := h.tag, opc := h.opc, status := status, sq := h.sq.1, kind := 0, slot := h.slot, body := recBody [(8, 8, result)],
    more := false, irq := h.irq, closes := closes }

/-- The command takes `d` from the front of ring `sq` and answers it at once; `u` is the state before the rings continue. One that has
been accepted stays an open work item until its record is written (R247). -/
def completes (c : Instr) (s u : State) (sq : RingId) (d : Desc) (status result : Nat) : Prop :=
  exec c s = .next (pumpRings u) ∧ consumed s u sq ∧
    (∀ j ∈ u.items, j ∈ s.items ∨ (j.id = s.nextItem ∧ j.closing = true)) ∧
    ∃ closes, (closes = none ∨ closes = some s.nextItem) ∧
      recordGiven s u (s.subs[sq]).cq (doneRec (headOf s sq d) status result closes)

/-- The command takes `d` from the front of ring `sq` and accepts it as an open work item; `u` is the state before the rings
continue. -/
def accepts (c : Instr) (s u : State) (sq : RingId) (d : Desc) (kind : ItemKind) : Prop :=
  exec c s = .next (pumpRings u) ∧ consumed s u sq ∧ u.nextItem = s.nextItem + 1 ∧
    u.items = s.items ++ [{ id := s.nextItem, h := headOf s sq d, ordered := d.order, kind := kind, closing := false }]

/-- Table 10.8: a descriptor's command, which descriptors are its row's, and the states that admit it. -/
def admitTable (table : Option (List Nat)) (image : Option (List Byte)) : List ((RingId → Instr) × (Desc → Bool) × List Nat) :=
  [(.copy, fun d => decide (d.opc = 0x02), [2, 3, 4, 5, 6]), (.fill, fun d => decide (d.opc = 0x03), [2, 3, 4, 5, 6]),
   (.wipe, fun d => decide (d.opc = 0x04) && !bit d.param 0, [2, 3, 4, 5, 6, 7]),
   ((.fwLoad · image), fun d => decide (d.opc = 0x05) && (match image with | some bs => decide (bs.length = d.word 2) | none => true), [1]),
   ((.routeLoad · table), fun d => decide (d.opc = 0x06), [3, 4, 5]), (.epochSwitch, fun d => decide (d.opc = 0x07), [4, 5]),
   (.fence, fun d => decide (d.opc = 0x08), [3, 4, 5, 6]), (.reinstate, fun d => decide (d.opc = 0x09), [3, 4, 5, 6]),
   (.setLevel, fun d => decide (d.opc = 0x0A), [3, 4, 5, 6]), (.groupClose, fun d => decide (d.opc = 0x0C), [3, 4, 5, 6]),
   (.tallyAlign, fun d => decide (d.opc = 0x0F), [3, 4, 5]),
   (.traceCtlEnable, fun d => decide (d.opc = 0x10) && bit d.param 0, [3, 4, 5, 6]),
   (.traceCtlDisable, fun d => decide (d.opc = 0x10) && !bit d.param 0, [3, 4, 5, 6]),
   (.regionDeclare, fun d => decide (d.opc = 0x11) && decide (field d.param 6 2 ≠ 0), [2, 3, 4, 5, 6]),
   (.regionRemove, fun d => decide (d.opc = 0x11) && decide (field d.param 6 2 = 0), [2, 3, 4, 5, 6]),
   (.quiesce, fun d => decide (d.opc = 0x12) && !bit d.param 0, [3, 4, 6]),
   (.quiesceLeave, fun d => decide (d.opc = 0x12) && bit d.param 0, [5])]

/-! Requests to the Enclave. -/

/-- A mailbox's request of a code is the one the Enclave serves next, and has no answer yet (R435). -/
abbrev served (s : State) (mb : Fin 2) (code : Nat) (bs : List Byte) : Prop :=
  (s.sec.mail[mb]).current = some bs ∧ s.sec.enclaveUp = true ∧ s.sec.queue.head? = some mb ∧ (s.sec.mail[mb]).answer = none ∧
    reqCode bs = code

/-- The command answers the mailbox's request with a status and a response, in the state `u`. -/
def replies (c : Instr) (s u : State) (mb : Fin 2) (st : Nat) (bs : List Byte) : Prop :=
  exec c s = .next (modMail u mb fun m => { m with answer := some (st, bs) })

/-- The Enclave has destroyed every key and secret outside OTP, and nothing else has changed but its flags (R434, R450). -/
def zeroised (s u : State) : Prop :=
  u = { s with sec := { s.sec with mail := u.sec.mail, error := u.sec.error, tested := u.sec.tested, errors := u.sec.errors,
                                   enclaveUp := u.sec.enclaveUp, idKey := none, sessions := [], drbg := [],
                                   ide := Vector.replicate 4 ideStream0 } } ∧
    ∀ mb : Fin 2, (u.sec.mail[mb]).nonce = none

/-- The requests of Table 16.1 with their codes. -/
def requestTable (random key : List Byte) (a b : Bool) : List ((Fin 2 → Instr) × Nat) :=
  [((.getNonce · random), 0x01), (.getIdentity, 0x02), ((.certLoad · a), 0x03), ((.otpProgram · a b), 0x10),
   ((.lifecycleMove · a b), 0x11), ((.debugChallenge · key), 0x20), ((.debugUnlock · a), 0x21), (.zeroise, 0x30),
   ((.selfTest · a), 0x31)]

/-! The fabric. -/

/-- A link takes a routed packet now: it passes the link's checks, the chip is awake, and R292 does not discard it. -/
abbrev takesRouted (s : State) (l : LinkId) (p : Packet) : Prop :=
  linkTakes s l p = true ∧ p.isLocal = false ∧ isAwake s = true ∧ stalePacket s p = false

/-- Between `s` and `t` a packet has been queued on a link, or put on the wire with its stamp, its link's sequence numbers and its
CRC. -/
def sentOn (s t : State) (o : LinkId) (p : Packet) : Prop :=
  p ∈ (t.fabric.links[o]).txq ∨
    ∃ q, Output.packet o q ∈ t.out.drop s.out.length ∧ q = { wireStamp s p with lseq := q.lseq, lack := q.lack, crc := q.crc }

/-- From `s` to `t` only links have moved, with what they send. -/
def linksOnly (s t : State) : Prop := t = { s with fabric := { s.fabric with links := t.fabric.links }, out := t.out }

/-- A packet of this chip goes out by the link its route gives it, or is counted as discarded where its route has none (R295). -/
def goesOut (s t : State) (p : Packet) : Prop :=
  match chooseLink s (stamp s p) true none with
  | some o => sentOn s t o { stamp s p with vc := chooseVc s (stamp s p) none o, hops := 1 }
  | none => s.run.pktDiscards < t.run.pktDiscards ∨ 2 ^ 64 - 1 ≤ t.run.pktDiscards

end Sys2Proof.Safety
end

