-- ==== Sys2Proof/Certificates/Slice0/Obligations.lean ====
section
/-! DEFINITION. The statements for the provers. -/

open Sys2Proof Sys2Proof.Machine Sys2Proof.Safety

/-- The queue is the model's own (log entry 1). -/
def Obligations.StepRunsTheFrontCommand : Prop :=
  (∀ (s : State) (c : Instr) (rest : List Instr), step { s with pending := c :: rest } = exec c { s with pending := rest }) ∧
  ∀ s : State, stepsOn s

/-- R307: the Tally's own count; R309: TALLY_REF; R399: THR; log entry 2: the tick stands for an idle step. -/
def Obligations.IdleStepIsATallyTick : Prop :=
  ∀ (s : State), s.pending = [] →
    (s.power.pll = false → step s = .next s) ∧
    (s.power.pll = true → ∃ t, step s = .next t ∧
      let x : Int := s.align.acc + s.align.rate
      t.align = { s.align with acc := (x % 2 ^ 32).toNat, ticks := s.align.ticks + 1, runs := if 0 ≤ x ∧ x < 2 ^ 32 then s.align.runs
        else (t.tally.toNat, s.align.ticks + 1) :: s.align.runs } ∧ t.tallyPrev = s.tally ∧
      t.tally = s.tally + (if x < 0 then 0 else if 2 ^ 32 ≤ x then 2 else 1) ∧
      t = { s with tally := t.tally, tallyPrev := s.tally, align := t.align, launch := t.launch, ctrs := t.ctrs, out := t.out,
                   power := { s.power with upTicks := s.power.upTicks + 1, eligible := t.power.eligible } } ∧
      t.power.eligible = (if mayS3 s then some (s.power.eligible.getD s.tally.toNat) else none) ∧
      t.out = (if s.align.refOut = true ∧ s.tally.toNat / 524288 < t.tally.toNat / 524288 then s.out ++ [.refEdge] else s.out) ∧
      let cs := (countWaits s).ctrs
      let mesh := meshCycles (s.align.ticks + 1) - meshCycles s.align.ticks
      (∀ l, s.launch = some l → l.st = .active → l.level < s.power.throttle ∨ l.level < s.power.level →
        t.launch = some { l with exc := l.exc ||| 32 } ∧ t.ctrs = { cs with thrTicks := sat64 s.ctrs.thrTicks 1 }) ∧
      ((∀ l, s.launch = some l → l.st ≠ .active ∨ (s.power.throttle ≤ l.level ∧ s.power.level ≤ l.level)) →
        t.launch = s.launch ∧ t.ctrs = cs) ∧
      cs = { s.ctrs with e2eFull := cs.e2eFull, journalFull := cs.journalFull } ∧
      (s.counting = false ∨ e2eWaits s = false → cs.e2eFull = s.ctrs.e2eFull) ∧
      (s.counting = true → e2eWaits s = true → cs.e2eFull = sat64 s.ctrs.e2eFull mesh) ∧
      (s.counting = false ∨ journalWaits s = false → cs.journalFull = s.ctrs.journalFull) ∧
      (s.counting = true → journalWaits s = true → cs.journalFull = sat64 s.ctrs.journalFull mesh))

/-- R411, R412, R387: what a cold reset leaves; R413: wiped memories (before the wipe: log entry 3). -/
def Obligations.ResetState : Prop :=
  let s := State.reset
  s.pending = [] ∧ s.life.state = none ∧ s.power.rails = false ∧ s.power.pll = false ∧ s.power.perst = true ∧ s.tally = 0 ∧
  (∀ l : LinkId, (s.fabric.links[l]).st = .down) ∧ (∀ n : RingId, (s.subs[n]).enable = false ∧ (s.comps[n]).enable = false) ∧
  s.launch = none ∧ s.items = [] ∧ s.regions = Vector.replicate 64 none ∧ s.red = reduction0 ∧ s.fabric.inUse = none ∧ s.life.locks = 0 ∧
  s.power.timers = (26250, 5250000, 2625000000) ∧ (∀ a n, hbmRead s a n = List.replicate n 0) ∧
  (∀ c a n, benchRead s c a n = List.replicate n 0) ∧ canonical s

/-- Every way a command writes memory: stores, DMA, deliveries, descriptors, mirrors, restores, slides, replays, wipes, OTP. -/
def Obligations.EveryStepKeepsMemoriesCanonical : Prop :=
  ∀ s t : State, canonical s → step s = .next t → canonical t

/-- R418 to R421, R426, R451: programming only sets bits, and nothing else touches the store. -/
def Obligations.NoStepClearsAnOtpBit : Prop :=
  ∀ s t : State, canonical s → step s = .next t → ∀ a i, (s.sec.otp.get a).getLsbD i = true → (t.sec.otp.get a).getLsbD i = true

/-- Table 8.4, 0x10 to 0x1C: `s[D] = s[A] op b`, with `b` by R195, and the frame. -/
def Obligations.AluResults : Prop :=
  ∀ (s : State) (th : ThRef) (w : Word), ∀ row ∈ aluTable, executes s th w row.2.1 [] →
    ∃ t, exec (row.1 th) s = .next t ∧
      goesOn s t th { s.th th with regs := ((s.th th).regs.set (fD w.toNat)
        (row.2.2 ((s.th th).regs.get (fA w.toNat))
          (if fI w.toNat then BitVec.ofInt 64 (fSIMM w.toNat) else (s.th th).regs.get (fB w.toNat)))) } ((s.th th).pos + 1)

/-- Table 8.4: MOVHI, CMP, PLOG, LCSET, LCRD; R205: NOP. -/
def Obligations.ScalarResults : Prop :=
  ∀ (s : State) (th : ThRef) (w : Word),
    let n := w.toNat
    let g := (s.th th).regs
    let p := (s.th th).pos + 1
    let a := g.get (fA n)
    let b := if fI n then BitVec.ofInt 64 (fSIMM n) else g.get (fB n)
    let pd : Fin 8 := Fin.ofNat 8 (field n 46 3)
    let pa := g.pred (Fin.ofNat 8 (field n 41 3))
    let pb := g.pred (Fin.ofNat 8 (field n 36 3))
    (executes s th w 0x00 [] → ∃ t, exec (.nopInstr th) s = .next t ∧ goesOn s t th (s.th th) p) ∧
    (executes s th w 0x1D [] → ∃ t, exec (.movhi th) s = .next t ∧
      goesOn s t th { s.th th with regs := g.set (fD n) ((a &&& 0xFFFFFFFF) ||| (BitVec.ofNat 64 (fIMM n) <<< 32)) } p) ∧
    (executes s th w 0x20 [] → ∃ t, exec (.cmp th) s = .next t ∧
      goesOn s t th { s.th th with regs := (g.setPred pd
        (if fSUB n = 0 then a == b else if fSUB n = 1 then a != b else if fSUB n = 2 then a.slt b
         else if fSUB n = 3 then !a.slt b else if fSUB n = 4 then a.ult b else !a.ult b)) } p) ∧
    (executes s th w 0x22 [] → ∃ t, exec (.plog th) s = .next t ∧
      goesOn s t th { s.th th with regs := (g.setPred pd
        (if field n 32 2 = 0 then pa && pb else if field n 32 2 = 1 then pa || pb
         else if field n 32 2 = 2 then pa ^^ pb else pa && !pb)) } p) ∧
    (executes s th w 0x07 [] → ∃ t, exec (.lcset th) s = .next t ∧
      goesOn s t th { s.th th with regs := { g with lc := g.lc.set (field n 46 2 % 4) ((a + b).setWidth 32) (Nat.mod_lt _ (by decide)) } } p) ∧
    (executes s th w 0x08 [] → ∃ t, exec (.lcrd th) s = .next t ∧
      goesOn s t th { s.th th with regs := g.set (fD n) ((g.lc[Fin.ofNat 4 (field n 41 2)]).setWidth 64) } p)

/-- R188: s0 and p0. -/
def Obligations.RegisterFile : Prop :=
  ∀ (g : Regs) (i j : Fin 32) (v : Word) (p q : Fin 8) (b : Bool),
    g.get 0 = 0 ∧ g.set 0 v = g ∧ (i ≠ 0 → (g.set i v).get i = v) ∧ (j ≠ i → (g.set i v).get j = g.get j) ∧
    g.pred 0 = true ∧ g.setPred 0 b = g ∧ (p ≠ 0 → (g.setPred p b).pred p = b) ∧ (q ≠ p → (g.setPred p b).pred q = g.pred q)

/-- R191: an instruction that does not execute takes its issue cycle and has no other effect. R192: the sequencer decodes every instruction at issue, whether or not its predicate lets it execute. -/
def Obligations.PredicatesAndDecodeFaults : Prop :=
  (∀ (s : State) (th : ThRef) (w : Word), issues s th w → (s.th th).regs.pred (fPRED w.toNat) = fPN w.toNat →
      (∀ row ∈ opcodeTable, fOPC w.toNat = row.2 →
        exec (row.1 th) s = .next (s.modTh th fun t => further t (t.pos + 1))) ∧
      (∀ row ∈ vopTable, fOPC w.toNat = 0x50 → fFUNC w.toNat = row.2.1 →
        exec (row.1 th) s = .next (s.modTh th fun t => further t (t.pos + 1)))) ∧
  (∀ (s : State) (th : ThRef) (w : Word), canIssue s th = true → fetchWord s th = some (.ok w) →
      (decodeFault w.toNat = some .illegalOpcode →
        (∀ row ∈ opcodeTable, exec (row.1 th) s = .next (raiseFault s th .illegalOpcode (s.th th).pos w)) ∧
        (∀ row ∈ vopTable, exec (row.1 th) s = .next (raiseFault s th .illegalOpcode (s.th th).pos w))) ∧
      (∀ f, decodeFault w.toNat = some f →
        (∀ row ∈ opcodeTable, fOPC w.toNat = row.2 → exec (row.1 th) s = .next (raiseFault s th f (s.th th).pos w)) ∧
        (∀ row ∈ vopTable, fOPC w.toNat = 0x50 → fFUNC w.toNat = row.2.1 →
          exec (row.1 th) s = .next (raiseFault s th f (s.th th).pos w))))

/-- R196: BRANCH_RANGE and STREAM_END. -/
def Obligations.BranchRangeAndStreamEnd : Prop :=
  ∀ (s : State) (th : ThRef) (w : Word) (st : Stream), (s.th th).stream = some st →
    let n := w.toNat
    let p := (s.th th).pos
    let target : Int := p + fSIMM n
    let lc := (s.th th).regs.lc[Fin.ofNat 4 (field n 46 2)]
    (target < 0 ∨ (st.count : Int) - 1 < target →
      (executes s th w 0x05 [] → exec (.br th) s = .next (raiseFault s th .branchRange p w)) ∧
      (executes s th w 0x06 [] → 1 < lc.toNat → exec (.loop th) s = .next (raiseFault s th .branchRange p w))) ∧
    (canIssue s th = true → st.count ≤ p →
      (∀ row ∈ opcodeTable, exec (row.1 th) s = .next (raiseFault s th .streamEnd p 0)) ∧
      (∀ row ∈ vopTable, exec (row.1 th) s = .next (raiseFault s th .streamEnd p 0)))

/-- R220 steps 1 to 3 and R487; R221: the others of the cycle are counted (log entry 82). -/
def Obligations.FaultHaltsTheLaunch : Prop :=
  ∀ (s : State) (r : ThRef) (f : IFault) (ix : Nat) (w : Word) (l : Launch), s.launch = some l →
    let t := raiseFault s r f ix w
    t.hbm = s.hbm ∧ t.sites = s.sites ∧ t.bufs = s.bufs ∧ t.sec = s.sec ∧ t.fabric = s.fabric ∧ t.power = s.power ∧
    (∀ c, (t.core c).tiles = (s.core c).tiles ∧ (t.core c).planes = (s.core c).planes ∧ (t.core c).slots = (s.core c).slots ∧
      (t.core c).ev = (s.core c).ev) ∧
    (∀ c, c ≠ r.core → (t.core c).fault = (s.core c).fault) ∧
    let latched : Prop := (t.core r.core).fault = if (s.core r.core).fault.valid then (s.core r.core).fault
      else ⟨true, f.code, r.t.1, ((s.th r).window).getD 0xFFFF, ix, w⟩
    let mine := Halt.fault f r ix w (s.th r).window
    (l.halt = none → latched ∧
      t.launch = some { l with st := .halting, halt := some mine, faultTick := s.align.ticks,
                               sameCycle := (allThreads.filter fun q => decide (q ≠ r ∧ (s.th q).st = .running)).map fun q => (q, (s.th q).hold) } ∧
      ∀ q, if (s.th q).st = .absent ∨ (s.th q).st = .ended then (t.th q).st = (s.th q).st
        else (t.th q).st = .halted ∧ (t.th q).hold = [] ∧ (t.th q).acks = []) ∧
    (∀ f0 r0 ix0 w0 win0, l.halt = some (.fault f0 r0 ix0 w0 win0) → l.faultTick = s.align.ticks → latched ∧
      t.launch = some { l with otherFaults := min (l.otherFaults + 1) 0xFFFF,
                               halt := if r.core < r0.core ∨ (r.core = r0.core ∧ r.t < r0.t) then some mine else l.halt } ∧
      ∀ q, (t.th q).st = (s.th q).st) ∧
    (∀ f0 r0 ix0 w0 win0, l.halt = some (.fault f0 r0 ix0 w0 win0) → l.faultTick ≠ s.align.ticks → t = s) ∧
    (∀ h, l.halt = some h → (∀ f0 r0 ix0 w0 win0, h ≠ .fault f0 r0 ix0 w0 win0) → t = s)

/-- Table 8.4: BR and LOOP; R190: a branch to an instruction that is not resident. -/
def Obligations.Branches : Prop :=
  ∀ (s : State) (th : ThRef) (w : Word) (st : Stream), (s.th th).stream = some st →
    let n := w.toNat
    let x := s.th th
    let target : Int := x.pos + fSIMM n
    let lcs (i : Fin 4) (v : W32) : Regs := { x.regs with lc := x.regs.lc.set i.1 v i.2 }
    let i : Fin 4 := Fin.ofNat 4 (field n 46 2)
    let lc := x.regs.lc[i]
    let landed (g : Regs) : Thread :=
      if x.cue.any (·.line = target.toNat / 512) then { x with regs := g, noticed := target.toNat }
      else { x with regs := g, noticed := target.toNat, cue := [], refill := true }
    (executes s th w 0x05 [] → 0 ≤ target → target < st.count →
      ∃ t, exec (.br th) s = .next t ∧ goesOn s t th (landed x.regs) target.toNat) ∧
    (executes s th w 0x06 [] →
      (lc = 0 → ∃ t, exec (.loop th) s = .next t ∧ goesOn s t th x (x.pos + 1)) ∧
      (lc = 1 → ∃ t, exec (.loop th) s = .next t ∧ goesOn s t th { x with regs := lcs i 0 } (x.pos + 1)) ∧
      (1 < lc.toNat → 0 ≤ target → target < st.count →
        ∃ t, exec (.loop th) s = .next t ∧ goesOn s t th (landed (lcs i (lc - 1))) target.toNat))

/-- Table 8.4: LD and ST; R197; R5: byte order; R520 and log entry 76: a failing half. -/
def Obligations.LoadStore : Prop :=
  ∀ (s : State) (th : ThRef) (w : Word), memoriesWf s →
    let n := w.toNat
    let x := s.th th
    let a := (x.regs.get (fA n) + BitVec.ofInt 64 (fSIMM n)).toNat
    let width := 2 ^ field n 32 2
    let lane := (s.core th.core).split = true → (th.t = 0 ↔ a < 0xC0000)
    let entry : SbEntry := { units := [.vector], kind := .vec, index := x.pos }
    let bytes := (s.sites[siteOf s th.core].bench).read a width
    a % width = 0 → a < 0x180000 → lane →
      (executes s th w 0x28 [.vector] → benchHeld s th.core [(a, width)] [] = true → exec (.ld th) s = .next s) ∧
      (executes s th w 0x29 [.vector] → benchHeld s th.core [] [(a, width)] = true → exec (.st th) s = .next s) ∧
      (executes s th w 0x28 [.vector] → benchHeld s th.core [(a, width)] [] = false → ∃ t, exec (.ld th) s = .next t ∧
        goesOn s t th { x with sb := x.sb ++ [entry], regs := (x.regs.set (fD n)
          (if bit n 34 then BitVec.ofInt 64 (signed (8 * width) (ofBytes bytes)) else BitVec.ofNat 64 (ofBytes bytes))) }
          (x.pos + 1)) ∧
      (executes s th w 0x29 [.vector] → benchHeld s th.core [] [(a, width)] = false → ∃ t, exec (.st th) s = .next t ∧
        goesOn { s with sites := t.sites } t th { x with sb := x.sb ++ [entry] } (x.pos + 1) ∧
        benchHolds s t th.core a (toBytes width (x.regs.get (fD n)).toNat))

/-- R197 and the order of Table 8.11. -/
def Obligations.LoadStoreFaults : Prop :=
  ∀ (s : State) (th : ThRef) (w : Word),
    let n := w.toNat
    let x := s.th th
    let a := (x.regs.get (fA n) + BitVec.ofInt 64 (fSIMM n)).toNat
    let width := 2 ^ field n 32 2
    let split := (s.core th.core).split
    let raises (f : IFault) : Prop :=
      (executes s th w 0x28 [.vector] → exec (.ld th) s = .next (raiseFault s th f x.pos w)) ∧
      (executes s th w 0x29 [.vector] → exec (.st th) s = .next (raiseFault s th f x.pos w))
    (a % width ≠ 0 → raises .fieldRange) ∧
    (a % width = 0 → split = true → a < 0x180000 → ¬ (th.t = 0 ↔ a < 0xC0000) → raises .benchLane) ∧
    (a % width = 0 → 0x180000 ≤ a → raises .benchRange)

/-- R42: the value-varying log; Table 8.10: TALLYRD, ENTROPY, CTRRD. -/
def Obligations.ValueVaryingReads : Prop :=
  ∀ (s : State) (th : ThRef) (w : Word) (l : Launch), s.launch = some l →
    let n := w.toNat
    let x := s.th th
    -- the state after a value has been taken: its register, and the cursor past its log entry
    let took (waited : Nat) (u t : State) (v : Word) : Prop :=
      goesOn u t th { x with regs := x.regs.set (fD n) v, vvPos := x.vvPos + 1, cycles := x.cycles + waited } (x.pos + 1)
    -- a logged value again
    let again (i : Instr) (v : Word) : Prop :=
      ∃ t, exec i s = .next t ∧ took 0 { s with launch := some { l with vvx := true } } t v
    -- a fresh value into the log
    let fresh (waited : Nat) (i : Instr) (s' : State) (v : Word) : Prop :=
      ∃ t l', exec i s = .next t ∧ t.launch = some l' ∧
        took waited { s' with hbm := t.hbm, launch := some { l with vvx := true, vvLog := l'.vvLog, replayedFor := l'.replayedFor } } t v ∧
        l'.vvLog = l.vvLog ++ [({ value := v, index := x.pos, th := th, red := false } : VvEntry)] ∧
        t.hbm = (hbmWrite s (l.d.anchorBase + 2 * Config.anchorHalf + 16 * l.vvLog.length)
          (toBytes 8 v.toNat ++ toBytes 4 x.pos ++ toBytes 1 (coreRow th.core) ++ toBytes 1 (coreCol th.core).1)).hbm
    let full (i : Instr) : Prop := exec i s = .next (raiseFault s th .vvLogFull x.pos w)
    (executes s th w 0x30 [] →
      (∀ v, vvNext s th = some v → again (.tallyrd th) v) ∧
      (vvNext s th = none → if vvFull s then full (.tallyrd th) else fresh 0 (.tallyrd th) s s.tally)) ∧
    (executes s th w 0x31 [] → ∀ waited,
      (∀ v, vvNext s th = some v → again (.entropy th waited) v) ∧
      (vvNext s th = none → s.sec.error = false →
        (s.sec.drbg = [] → exec (.entropy th waited) s = .next s) ∧
        (∀ v rest, s.sec.drbg = v :: rest → vvFull s = false →
          fresh waited (.entropy th waited)
            (State.countCore { s with sec := { s.sec with drbg := rest } } th.core fun k =>
              { k with entropyWait := sat64 k.entropyWait waited }) v))) ∧
    (executes s th w 0x32 [] →
      (liveCounter s th.core (field n 0 16) = none → exec (.ctrrd th) s = .next (raiseFault s th .fieldRange x.pos w)) ∧
      (∀ c, liveCounter s th.core (field n 0 16) = some c →
        (∀ v, vvNext s th = some v → again (.ctrrd th) v) ∧
        (vvNext s th = none → if vvFull s then full (.ctrrd th) else fresh 0 (.ctrrd th) s (BitVec.ofNat 64 c))))

/-- R199. -/
def Obligations.FlagClear : Prop :=
  ∀ (s : State) (th : ThRef) (w : Word), executes s th w 0x34 [] →
    let x := s.th th
    let pending := ∃ e ∈ x.sb, e.kind = .vec ∨ ∃ fl, e.kind = .transfer true fl
    (¬ pending → ∃ t, exec (.flagclr th) s = .next t ∧
      goesOn s t th { x with regs := { x.regs with vfl := (t.th th).regs.vfl } } (x.pos + 1) ∧
      ∀ i, i < 4 → (t.th th).regs.vfl.getLsbD i = (x.regs.vfl.getLsbD i && !w.toNat.testBit i)) ∧
    (pending → exec (.flagclr th) s = .next s)

/-- FLAGRD (Table 8.12), TSR (Table 8.6) and WAIT (R200). -/
def Obligations.FlagReadStatusReadWait : Prop :=
  ∀ (s : State) (th : ThRef) (w : Word),
    let n := w.toNat
    let x := s.th th
    let pending := ∃ e ∈ x.sb, e.kind = .vec ∨ ∃ fl, e.kind = .transfer true fl
    let named (u : ExecUnit) : Prop := match u with | .array a => n.testBit a.1 | .vector => n.testBit 4 | .dma => n.testBit 5
    let busy := ∃ e ∈ x.sb, ∃ u ∈ e.units, named u
    (executes s th w 0x33 [] →
      (¬ pending → ∃ t, exec (.flagrd th) s = .next t ∧
        goesOn s t th { x with regs := x.regs.set (fD n) (x.regs.vfl.setWidth 64) } (x.pos + 1)) ∧
      (pending → exec (.flagrd th) s = .next s)) ∧
    (executes s th w 0x44 [] →
      ((s.core th.core).split = true → ¬ (field n 34 2 < 2 ↔ th.t = 0) →
        exec (.tsr th) s = .next (raiseFault s th .tileOwnership x.pos w)) ∧
      (((s.core th.core).split = true → (field n 34 2 < 2 ↔ th.t = 0)) → ∃ t, exec (.tsr th) s = .next t ∧
        goesOn s t th { x with regs := (x.regs.set (fD n)
          (BitVec.ofNat 64 ((s.core th.core).status[Fin.ofNat 32 (8 * field n 34 2 + field n 31 3)]).word)) } (x.pos + 1))) ∧
    (executes s th w 0x04 [] →
      (¬ busy → ∃ t, exec (.wait th) s = .next t ∧ goesOn s t th x (x.pos + 1)) ∧
      (busy → exec (.wait th) s = .next s))

/-- R203: VOP, for each FUNC of Table 8.7 that is not reserved. R141: MIN, MAX, comparisons, SELECT and the integer operations (log entry 65). R221, R520 and log entry 76: a failing half. -/
def Obligations.VectorOperations : Prop :=
  (∀ (s : State) (th : ThRef) (w : Word), memoriesWf s → ∀ row ∈ vopTable, executes s th w 0x50 [.vector] → fFUNC w.toNat = row.2.1 →
      let x := s.th th
      let c : Ctx := ⟨th, x.pos, w.toNat⟩
      let o := vopOp s c
      let held := benchHeld s th.core (vopReads o) (vopWrites row.2.2 o)
      (held = true → exec (row.1 th) s = .next s) ∧
      (∀ f, held = false → vopFault s c row.2.2 o = some f → exec (row.1 th) s = .next (raiseFault s th f x.pos w)) ∧
      (held = false → vopFault s c row.2.2 o = none → ∃ dst t, Fmt.ofCode o.dst.fmt = some dst ∧ exec (row.1 th) s = .next t ∧
        let out := vopResult s th.core row.2.2 o dst
        goesOn { s with sites := t.sites } t th
          { x with sb := x.sb ++ [{ units := [.vector], kind := .vec, index := x.pos }],
                   regs := { x.regs with vfl := x.regs.vfl ||| out.flags } } (x.pos + 1) ∧
        benchHolds s t th.core o.dst.base (out.bytes ++ out.scales))) ∧
  (∀ (a b m : W32) (i : Int),
      ((nan32 a || nan32 b) = true → vmin a b = 0x7FC00000 ∧ vmax a b = 0x7FC00000 ∧ Val.eqv (f32 a) (f32 b) = false ∧
        Val.lt (f32 a) (f32 b) = false) ∧
      ((nan32 a || nan32 b) = false → (vmin a b = a ∨ vmin a b = b) ∧ (vmax a b = a ∨ vmax a b = b)) ∧
      vmin 0x80000000 0 = 0x80000000 ∧ vmin 0 0x80000000 = 0x80000000 ∧ vmax 0x80000000 0 = 0 ∧ vmax 0 0x80000000 = 0 ∧
      vselect a b m = (if m = 0 ∨ m = 0x80000000 then b else a) ∧
      (-2147483648 ≤ i → i ≤ 2147483647 → (satInt32 i).1.toInt = i ∧ (satInt32 i).2 = 0) ∧
      (2147483647 < i → satInt32 i = (0x7FFFFFFF, fOVF)) ∧ (i < -2147483648 → satInt32 i = (0x80000000, fOVF)) ∧
      (nan32 a = false → vabs a = a &&& 0x7FFFFFFF ∧ vneg a = a ^^^ 0x80000000))

/-- R108: the loads on an array alternate between the planes; a class W load takes both. -/
def Obligations.WeightLoad : Prop :=
  ∀ (s : State) (th : ThRef) (w : Word) (fmt : Fmt), Fmt.ofCode (field w.toNat 40 4) = some fmt →
    let x := s.th th
    let c : Ctx := ⟨th, x.pos, w.toNat⟩
    let a : Fin 4 := Fin.ofNat 4 (field w.toNat 44 2)
    let o := stridedWord (x.regs.get (fD w.toNat))
    let old := (s.core th.core).planes[a]
    let held := benchHeld s th.core (wldSpans fmt (bit w.toNat 39) o) []
    executes s th w 0x40 [.array a] →
      (held = true → exec (.wld th) s = .next s) ∧
      (∀ f, held = false → wldFault s c = some f → exec (.wld th) s = .next (raiseFault s th f x.pos w)) ∧
      (held = false → wldFault s c = none → ∃ t sl, exec (.wld th) s = .next t ∧
        goesOn (s.modCore th.core fun k => { k with planes := (t.core th.core).planes }) t th
          { x with sb := x.sb ++ [{ units := [.array a], kind := .load, index := x.pos }] } (x.pos + 1) ∧
        (∀ b, b ≠ a → (t.core th.core).planes[b] = (s.core th.core).planes[b]) ∧
        sl.fmt = fmt ∧ sl.rows = wldRows s th.core fmt (bit w.toNat 39) o ∧ sl.lo = false ∧
        sl.scales = (if fmt.isMx then ((s.sites[siteOf s th.core].bench).read o.third 64).map (·.toNat) else []) ∧
        (t.core th.core).planes[a] =
          (if fmt = .fp32 then { p0 := some sl, p1 := some { sl with lo := true }, next := 0, latest := some 0 }
           else if old.next = 0 then { p0 := some sl, p1 := old.p1, next := 1, latest := some 0 }
           else { p0 := old.p0, p1 := some sl, next := 0, latest := some 1 }))

/-- R99 and R125: masked rows and columns; R121: the tiles an operation reaches. -/
def Obligations.ArrayOperation : Prop :=
  ∀ (s : State) (th : ThRef) (w : Word),
    let x := s.th th
    let c : Ctx := ⟨th, x.pos, w.toNat⟩
    let o := mmaOp s c
    let k := s.core th.core
    let held := benchHeld s th.core (mmaSpans o (o.fmt.bind opClass)) []
    executes s th w 0x41 (mmaUnits w.toNat) →
      (held = true → exec (.mma th) s = .next s) ∧
      (∀ f, held = false → mmaFault s c o = some f → exec (.mma th) s = .next (raiseFault s th f x.pos w)) ∧
      (∀ fa, held = false → mmaFault s c o = none → o.fmt = some fa → ∃ t, exec (.mma th) s = .next t ∧
        (let u := mmaApply (s.modTh th fun y =>
           { y with sb := y.sb ++ [{ units := mmaUnits w.toNat, kind := .matrix, index := x.pos }] }) th o fa
         goesOn u t th (u.th th) (x.pos + 1)) ∧
        t.hbm = s.hbm ∧ t.sites = s.sites ∧ t.bufs = s.bufs ∧ (∀ d, d ≠ th.core → t.core d = s.core d) ∧
        (t.core th.core).planes = k.planes ∧ (t.core th.core).slots = k.slots ∧ (t.core th.core).ev = k.ev ∧
        (t.th th).regs = x.regs ∧
        (∀ q, q < 32 → q ∉ o.named → (t.core th.core).tiles[Fin.ofNat 32 q] = k.tiles[Fin.ofNat 32 q] ∧
          statusOf t th.core q = statusOf s th.core q) ∧
        (∀ i q r j, i < o.span → q < o.tiles → r < 32 → j < 32 → ¬ (o.liveRow (32 * q + r) = true ∧ o.liveCol i j = true) →
          ∀ y ∈ withPartners o.pair [tileIx (o.arr + i) (o.tile + o.stepT * q)],
            tileGet (t.core th.core) y r j = tileGet k y r j) ∧
        (o.span = 1 → o.tiles = 1 → o.pair = false → ∀ sl, latestSlice k.planes[Fin.ofNat 4 o.arr] = some sl →
          ∀ r j, r < 32 → j < 32 → o.liveRow r = true → o.liveCol 0 j = true →
            let (codes, scales) := streamRow s th.core o fa r
            let (col, colScales) := sliceCol o sl j
            tileGet (t.core th.core) (tileIx o.arr o.tile) r j =
              (mmaElem o fa sl.fmt codes col scales colScales ⟨tileGet k (tileIx o.arr o.tile) r j, 0⟩).1.hi))

/-- R123: read-outs; R124: joins. -/
def Obligations.ReadoutAndJoin : Prop :=
  ∀ (s : State) (th : ThRef) (w : Word),
    let n := w.toNat
    let x := s.th th
    let c : Ctx := ⟨th, x.pos, n⟩
    let k := s.core th.core
    let entry (kd : OpKind) : SbEntry := { units := [.array (Fin.ofNat 4 (field n 34 2))], kind := kd, index := x.pos }
    (executes s th w 0x42 (trdUnits n) → ∀ fmt, Fmt.ofCode (field n 25 4) = some fmt →
      let held := benchHeld s th.core [] (trdSpans fmt (field n 17 5 + 1) (stridedWord (x.regs.get (fD n))))
      (held = true → exec (.trd th) s = .next s) ∧
      (∀ f, held = false → trdFault s c fmt = some f → exec (.trd th) s = .next (raiseFault s th f x.pos w)) ∧
      (held = false → trdFault s c fmt = none →
        let o := stridedWord (x.regs.get (fD n))
        let (stream, index) := streamWord (x.regs.get (fB n))
        let mode := rmodeOf (field n 23 2)
        let cell (i j : Nat) : Nat × FlagWord :=
          trdElem (accOf (field n 29 2)) fmt mode (bit n 22)
            (if mode = .sr then srRandom (x.regs.get (fA n)) stream (index + i * o.third + j) else 0)
            (accGet k (accOf (field n 29 2)) (tileIx (field n 34 2) (field n 31 3)) i j)
        ∃ t fl, exec (.trd th) s = .next t ∧
          goesOn { s with sites := t.sites } t th
            { x with sb := x.sb ++ [entry .readout], regs := { x.regs with vfl := x.regs.vfl ||| fl } } (x.pos + 1) ∧
          (∀ b, fl.getLsbD b = true ↔ ∃ i j, i < field n 17 5 + 1 ∧ j < 32 ∧ (cell i j).2.getLsbD b = true) ∧
          t.sites = ((List.range (field n 17 5 + 1)).foldl (fun u i =>
            benchWrite u th.core (o.base + i * o.stride) (packElems fmt.bits ((List.range 32).map fun j => (cell i j).1))) s).sites)) ∧
    (executes s th w 0x43 (trdUnits n) →
      (∀ f, tjnFault s c = some f → exec (.tjn th) s = .next (raiseFault s th f x.pos w)) ∧
      (tjnFault s c = none →
        let acc := accOf (field n 26 2)
        let a := tileIx (field n 34 2) (field n 31 3)
        let b := tileIx (field n 34 2) (field n 28 3)
        let cell (i j : Nat) : AccVal × FlagWord := join acc false (accGet k acc a i j) (accGet k acc b i j)
        ∃ t fl, exec (.tjn th) s = .next t ∧ t.hbm = s.hbm ∧ t.sites = s.sites ∧ (t.th th).regs = x.regs ∧
          (t.th th).pos = x.pos + 1 ∧ (t.th th).sb = x.sb ++ [entry .matrix] ∧
          (∀ d, d ≠ th.core → t.core d = s.core d) ∧ (t.core th.core).planes = k.planes ∧ (t.core th.core).slots = k.slots ∧
          (∀ i j, i < 32 → j < 32 → accGet (t.core th.core) acc a i j =
            (if acc = .fp32p then (cell i j).1 else ⟨(cell i j).1.hi, 0⟩)) ∧
          (∀ q, q < 32 → q ∉ withPartners (acc = .fp32p) [a] →
            (t.core th.core).tiles[Fin.ofNat 32 q] = k.tiles[Fin.ofNat 32 q] ∧ statusOf t th.core q = statusOf s th.core q) ∧
          (∀ y, fl.getLsbD y = true ↔ ∃ i j, i < 32 ∧ j < 32 ∧ (cell i j).2.getLsbD y = true) ∧
          statusOf t th.core a = (statusOf s th.core a).merge (statusOf s th.core b) fl))

/-- R204: the other vector instructions. -/
def Obligations.SlotsAndTiles : Prop :=
  ∀ (s : State) (th : ThRef) (w : Word), memoriesWf s →
    let n := w.toNat
    let x := s.th th
    let c : Ctx := ⟨th, x.pos, n⟩
    let k := s.core th.core
    let entry : SbEntry := { units := [.vector], kind := .vec, index := x.pos }
    -- what all of them share
    let rest (t : State) : Prop :=
      (t.th th).pos = x.pos + 1 ∧ (t.th th).sb = x.sb ++ [entry] ∧ (t.th th).regs.s = x.regs.s ∧ (t.th th).regs.p = x.regs.p ∧
      t.hbm = s.hbm ∧ t.bufs = s.bufs ∧ (t.core th.core).planes = k.planes ∧ (t.core th.core).ev = k.ev ∧
      (∀ d, d ≠ th.core → t.core d = s.core d)
    let tilesKept (t : State) : Prop := (t.core th.core).tiles = k.tiles ∧ (t.core th.core).status = k.status
    let faults (i : Instr) (held : Bool) (f? : Option IFault) : Prop := (held = true → exec i s = .next s) ∧
      ∀ f, held = false → f? = some f → exec i s = .next (raiseFault s th f x.pos w)
    let slot : Fin 32 := Fin.ofNat 32 (field n 41 5)
    let inRange (a len y : Nat) : Prop := a ≤ y ∧ y < a + len
    (executes s th w 0x54 [.vector] →
      ((s.core th.core).split = true → ¬ (slot.1 < 16 ↔ th.t = 0) →
        exec (.slotinit th) s = .next (raiseFault s th .tileOwnership x.pos w)) ∧
      (((s.core th.core).split = true → (slot.1 < 16 ↔ th.t = 0)) → ∃ t, exec (.slotinit th) s = .next t ∧ rest t ∧ tilesKept t ∧
        t.sites = s.sites ∧ (∀ i, i ≠ slot → (t.core th.core).slots[i] = k.slots[i]) ∧
        ∀ r : Fin 32, ((t.core th.core).slots[slot])[r] = ⟨0xFF800000, ⟨0, 0⟩, 0x3F800000⟩)) ∧
    (executes s th w 0x55 [.vector] →
      let rec_ := vecWord (x.regs.get (fD n))
      let lse := vecWord (x.regs.get (fB n))
      let held := benchHeld s th.core [] (slotFinalWrites rec_ lse)
      faults (.slotfinal th) held (slotFinalFault s c slot rec_ lse) ∧
      (held = false → slotFinalFault s c slot rec_ lse = none → ∃ t, exec (.slotfinal th) s = .next t ∧ rest t ∧ tilesKept t ∧
        (∀ i, i ≠ slot → (t.core th.core).slots[i] = k.slots[i]) ∧
        (∀ r : Fin 32, ((t.core th.core).slots[slot])[r] =
          { (k.slots[slot])[r] with a := (slotFinalRow (k.slots[slot])[r]).1 }) ∧
        t.sites = (benchWrite (benchWrite s th.core rec_.base
          (packElems 32 ((k.slots[slot]).toList.map fun r => (slotFinalRow r).1.toNat))) th.core lse.base
          (packElems 32 ((k.slots[slot]).toList.map fun r => (slotFinalRow r).2.1.toNat))).sites)) ∧
    (executes s th w 0x52 [.vector] →
      let o := smaxOp s c
      let held := benchHeld s th.core [] (smaxSpans o)
      faults (.smax th) held (smaxFault s c o) ∧
      (held = false → smaxFault s c o = none → ∃ t, exec (.smax th) s = .next t ∧ rest t ∧ tilesKept t ∧
        (∀ i, i ≠ o.slot → (t.core th.core).slots[i] = k.slots[i]) ∧
        (∀ r : Fin 32, some ((t.core th.core).slots[o.slot])[r] = ((smaxRows k o)[r.1]?).map (·.1)) ∧
        (∀ i, i ≠ siteOf s th.core → t.sites[i] = s.sites[i]) ∧
        (t.sites[siteOf s th.core].bench).read o.fac.base 128 =
          packElems 32 ((smaxRows k o).map fun r => r.1.a.toNat))) ∧
    (executes s th w 0x51 [.vector] →
      let vals := vecWord (x.regs.get (fD n))
      let idx := vecWord (x.regs.get (fB n))
      let len := (x.regs.get (fReg n 31)).toNat
      let cnt := field n 23 8 + 1
      let held := benchHeld s th.core (topkReads (vecWord (x.regs.get (fA n))) len) (topkWrites vals idx cnt)
      faults (.topk th) held (topkFault s c vals (vecWord (x.regs.get (fA n))) idx len cnt) ∧
      (held = false → topkFault s c vals (vecWord (x.regs.get (fA n))) idx len cnt = none → ∃ t, exec (.topk th) s = .next t ∧ rest t ∧
        tilesKept t ∧ (t.core th.core).slots = k.slots ∧ (∀ i, i ≠ siteOf s th.core → t.sites[i] = s.sites[i]) ∧
        (∀ y, ¬ inRange vals.base (4 * cnt) y → ¬ inRange idx.base (2 * cnt) y →
          (t.sites[siteOf s th.core].bench).get y = (s.sites[siteOf s th.core].bench).get y) ∧
        (t.sites[siteOf s th.core].bench).read idx.base (2 * cnt) = packElems 16
          (((if bit n 21 then byIndex else id)
            (topk (bit n 22) cnt ((srcPairs s th.core len ⟨false, x.regs.get (fA n)⟩).1.map (·.hi)))).map (·.2)))) ∧
    (executes s th w 0x53 [.vector] →
      let t0 := tileIx (field n 39 2) (field n 36 3)
      let held := benchHeld s th.core (tscaleReads c (vecWord (x.regs.get (fD n)))) []
      faults (.tscale th) held (tscaleFault s c (vecWord (x.regs.get (fD n)))) ∧
      (held = false → tscaleFault s c (vecWord (x.regs.get (fD n))) = none → ∃ t, exec (.tscale th) s = .next t ∧ rest t ∧ t.sites = s.sites ∧
        (t.core th.core).slots = k.slots ∧
        (∀ q, q < 32 → q ∉ withPartners (bit n 34) [t0] → (t.core th.core).tiles[Fin.ofNat 32 q] = k.tiles[Fin.ofNat 32 q]) ∧
        (bit n 34 = false → bit n 35 = true → ∀ i j : Fin 32, tileGet (t.core th.core) t0 i.1 j.1 =
          (fp32Mul false (tileGet k t0 i.1 j.1) ((k.slots[slot])[i]).a).1))) ∧
    (executes s th w 0x56 [.vector] →
      let t0 := tileIx (field n 39 2) (field n 36 3)
      let v := vecWord (x.regs.get (fD n))
      let held := benchHeld s th.core (taccReads c v) []
      faults (.tacc th) held (taccFault s c v) ∧
      (held = false → taccFault s c v = none → ∃ t, exec (.tacc th) s = .next t ∧ rest t ∧ t.sites = s.sites ∧
        (t.core th.core).slots = k.slots ∧
        (∀ q, q < 32 → q ∉ withPartners (bit n 35) [t0] → (t.core th.core).tiles[Fin.ofNat 32 q] = k.tiles[Fin.ofNat 32 q]) ∧
        (bit n 35 = false → ∀ i j : Fin 32,
          let part : AccVal := ⟨BitVec.ofNat 32 (ofBytes ((s.sites[siteOf s th.core].bench).read (v.base + 4 * (32 * i.1 + j.1)) 4)), 0⟩
          let old : AccVal := ⟨tileGet k t0 i.1 j.1, 0⟩
          tileGet (t.core th.core) t0 i.1 j.1 =
            (if bit n 34 then join .fp32 false old part else join .fp32 false part old).1.hi)))

/-- R210: DMA names a descriptor; R175, R221: its faults; R177, R179: what it holds. -/
def Obligations.DmaTransfers : Prop :=
  ∀ (s : State) (th : ThRef) (w : Word), executes s th w 0x60 [.dma] →
    let x := s.th th
    let c : Ctx := ⟨th, x.pos, w.toNat⟩
    let d := readDesc s c
    let src := d.srcFmt.getD .fp32
    let entry (k : OpKind) : SbEntry := { units := [.dma], kind := k, index := x.pos }
    let released : List Held := if d.release then [.release x.pos d.buf] else []
    let rows : List ((ThRef → Instr) × Nat) :=
      [(.dmaCopy, 0), (.dmaConvert, 1), (.dmaTranspose, 2), (.dmaGather, 3), (.dmaAtomicAdd, 4), (.dmaFill, 5)]
    -- the transfer's state `u`, with the thread one instruction further
    let moved (i : Instr) (u : State) (sb : List SbEntry) (held : List Held) : Prop :=
      ∃ t, exec i s = .next t ∧ goesOn u t th { u.th th with sb := x.sb ++ sb, hold := x.hold ++ held } (x.pos + 1)
    let held := benchHeld s th.core [(descAddr s c, 64)] []
    (held = true → ∀ row ∈ rows, exec (row.1 th) s = .next s) ∧
    (held = false → ∀ row ∈ rows, ∀ f, descFault s c = some f → exec (row.1 th) s = .next (raiseFault s th f x.pos w)) ∧
    (held = false → descFault s c = none → ∀ row ∈ rows, d.op = row.2 ∨ 6 ≤ d.op →
      ∀ f, dmaFault s c d = some f → exec (row.1 th) s = .next (raiseFault s th f x.pos w)) ∧
    (held = false → descFault s c = none → dmaFault s c d = none → dmaWaits s c d = true → ∀ row ∈ rows, d.op = row.2 → exec (row.1 th) s = .next s) ∧
    (held = false → descFault s c = none → dmaFault s c d = none → dmaWaits s c d = false →
      (d.op = 0 → moved (.dmaCopy th) (dmaCopy s th.core d src) [entry (.transfer false 0)] released) ∧
      (d.op = 1 →
        let (u, fl) := dmaConvert s th.core d src (d.dstFmt.getD .fp32) (rmodeOf d.mode) (x.regs.get (Fin.ofNat 32 d.seedReg))
        moved (.dmaConvert th) u [entry (.transfer true fl)] released) ∧
      (d.op = 2 → moved (.dmaTranspose th) (dmaTranspose s th.core d src) [entry (.transfer false 0)] released) ∧
      (d.op = 3 →
        let again := match priorFill (bufOf s d.buf) c x.stepNo with | some f => f.done | none => false
        let n := fillNo s c d
        moved (.dmaGather th) (gatherReads (noteFill s c d) th x.pos n d src) [entry (.gather d.buf n again)] released) ∧
      (d.op = 4 → moved (.dmaAtomicAdd th) (if d.fmt = 0 then s.modLaunch fun l => { l with vvx := true } else s) []
        (.atomicAdd x.pos d :: released)) ∧
      (d.op = 5 → moved (.dmaFill th) (dmaFill s th.core d) [entry (.transfer false 0)] released))

/-- The frame of the DMA transfers. R521: FILL. -/
def Obligations.DmaFrameAndFill : Prop :=
  (∀ (s : State) (c : CoreId) (d : DmaDesc) (a b : Fmt) (mode : RMode) (seed : Word),
      ∀ t ∈ [dmaCopy s c d a, (dmaConvert s c d a b mode seed).1, dmaTranspose s c d a, dmaFill s c d],
        t.cores = s.cores ∧ t.bufs = s.bufs ∧ t.fabric = s.fabric ∧ t.sec = s.sec ∧ t.out = s.out ∧
        (d.dstHbm = true → t.sites = s.sites) ∧
        (d.dstHbm = false → t.hbm = s.hbm ∧ t.launch = s.launch ∧ ∀ i, i ≠ siteOf s c → t.sites[i] = s.sites[i])) ∧
  (∀ (s : State) (c : CoreId) (d : DmaDesc), memoriesWf s → d.dstHbm = false → d.rows = 1 →
      ∀ (i : SiteId) (x : Nat),
        (((dmaFill s c d).sites[i]).bench).get x =
          if i = siteOf s c ∧ d.dst ≤ x ∧ x < d.dst + d.rowElems then BitVec.ofNat 8 (d.src / 256 ^ ((x - d.dst) % 8))
          else ((s.sites[i]).bench).get x)

/-- R177, R178: DMA operations; R118, R138: array and vector operations. -/
def Obligations.ScoreboardLeaves : Prop :=
  ∀ (s : State) (th : ThRef) (entry stall : Nat) (e : SbEntry), (s.th th).sb[entry]? = some e →
    let x := s.th th
    let off : Thread := { x with sb := x.sb.eraseIdx entry }
    let stalls (u : State) : State := u.countCore th.core fun k => { k with bankStall := sat64 k.bankStall stall }
    let alone (same : OpKind → Bool) : Prop := ∀ y ∈ x.sb.take entry, same y.kind = true → ∀ u ∈ y.units, u ∉ e.units
    (∀ conv fl, e.kind = .transfer conv fl →
      exec (.dmaTransferDone th entry stall) s =
        .next (stalls (s.setTh th { off with regs := { x.regs with vfl := x.regs.vfl ||| fl } }))) ∧
    (e.kind = .vec → alone (· = .vec) → exec (.vectorOperationDone th entry stall) s = .next (stalls (s.setTh th off))) ∧
    (e.kind = .load ∨ e.kind = .matrix ∨ e.kind = .readout →
      alone (fun k => if e.kind = .load then decide (k = .load) else k = .matrix || k = .readout) →
      exec (.arrayOperationDone th entry stall) s = .next (stalls (s.setTh th off))) ∧
    (∀ b n, e.kind = .gather b n true → gatherOpen s th e.index b n = false →
      exec (.gatherComplete th entry) s = .next (s.setTh th off)) ∧
    (∀ b n, e.kind = .gather b n false → gatherOpen s th e.index b n = false → 1 < (bufOf s b).parts →
      ∃ t, exec (.gatherComplete th entry) s = .next t ∧ t = { s.setTh th off with bufs := t.bufs } ∧
        (bufOf t b).parts = (bufOf s b).parts - 1 ∧ (bufOf t b).st = (bufOf s b).st ∧ (bufOf t b).uses = (bufOf s b).uses) ∧
    (∀ b n, e.kind = .gather b n false → gatherOpen s th e.index b n = false → (bufOf s b).parts = 1 → (bufOf s b).again = false →
      (s.core (bufOf s b).core).ev[(bufOf s b).ev] ≠ 0xFFFFFFFF →
      ∃ t, exec (.gatherComplete th entry) s = .next t ∧ (bufOf t b).st = .ready ∧ (bufOf t b).parts = 0 ∧
        (t.core (bufOf s b).core).ev[(bufOf s b).ev] = (s.core (bufOf s b).core).ev[(bufOf s b).ev] + 1)

/-- R210: BUFDEF and FADD; R211: FADD is held; R212: a repeated BUFDEF. -/
def Obligations.BufdefAndFadd : Prop :=
  ∀ (s : State) (th : ThRef) (w : Word) (l : Launch), s.launch = some l →
    let n := w.toNat
    let x := s.th th
    let split := (s.core th.core).split
    let b : Fin 256 := Fin.ofNat 256 (field n 0 8)
    let base := (x.regs.get (fD n)).toNat
    let size := (x.regs.get (fA n)).toNat
    let uses := field n 16 16
    let parts := field n 12 4 + 1
    let ev : EventId := Fin.ofNat 64 (field n 35 6)
    let bad := uses = 0 ∨ size = 0 ∨ base % 65536 ≠ 0 ∨ size % 65536 ≠ 0 ∨ (split = true ∧ ¬ (ev.1 < 32 ↔ th.t = 0))
    let inside := l.d.rangeBase ≤ base ∧ base + size ≤ l.d.rangeBase + l.d.rangeBytes
    let same := s.bufs[b].st ≠ .free ∧ s.bufs[b].owner = some (th, x.pos, x.stepNo) ∧ s.bufs[b].base = base ∧
      s.bufs[b].size = size ∧ s.bufs[b].defn = (uses, parts) ∧ s.bufs[b].ev = ev ∧ s.bufs[b].core = th.core
    (executes s th w 0x61 [] →
      (bad → exec (.bufdef th) s = .next (raiseFault s th .fieldRange x.pos w)) ∧
      (¬ bad → ¬ inside → exec (.bufdef th) s = .next (raiseFault s th .dmaRange x.pos w)) ∧
      (¬ bad → inside → same → ∃ t, exec (.bufdef th) s = .next t ∧ goesOn s t th x (x.pos + 1)) ∧
      (¬ bad → inside → ¬ same → s.bufs[b].st ≠ .free →
        exec (.bufdef th) s = .next (s.modTh th fun y => { y with waitAt := some (x.waitAt.getD s.align.ticks) })) ∧
      (¬ bad → inside → s.bufs[b].st = .free → ∃ t, exec (.bufdef th) s = .next t ∧
        (let u := endWait s th
         goesOn { u with bufs := t.bufs } t th { x with waitAt := none } (x.pos + 1) ∧ (x.waitAt = none → u = s) ∧
         ∀ t0, x.waitAt = some t0 → s.counting = true → (u.core th.core).live =
           { (s.core th.core).live with awaitCycles := sat64 (s.core th.core).live.awaitCycles (coreCycles s (s.align.ticks - t0)) }) ∧
        (∀ i, i ≠ b → t.bufs[i] = s.bufs[i]) ∧
        t.bufs[b] = { st := .filling, base := base, size := size, uses := uses, parts := parts, core := th.core, ev := ev,
                      owner := some (th, x.pos, x.stepNo), defn := (uses, parts), fills := [], again := false })) ∧
    (executes s th w 0x62 [.dma] →
      let a := (x.regs.get (fA n)).toNat
      let granted := l.d.rangeBase ≤ a ∧ a + 8 ≤ l.d.rangeBase + l.d.rangeBytes
      (a % 8 ≠ 0 → exec (.fadd th) s = .next (raiseFault s th .fieldRange x.pos w)) ∧
      (a % 8 = 0 → ¬ granted → exec (.fadd th) s = .next (raiseFault s th .dmaRange x.pos w)) ∧
      (a % 8 = 0 → granted → 64 ≤ x.hold.length → exec (.fadd th) s = .next (raiseFault s th .passHoldFull x.pos w)) ∧
      (a % 8 = 0 → granted → x.hold.length < 64 → vvNext s th = none → vvFull s = true →
        exec (.fadd th) s = .next (raiseFault s th .vvLogFull x.pos w)) ∧
      (a % 8 = 0 → granted → x.hold.length < 64 → ((vvNext s th).isSome = true ∨ vvFull s = false) →
        ∃ t, exec (.fadd th) s = .next t ∧
          goesOn { s with launch := some { l with vvx := true } } t th
            { x with hold := x.hold ++ [.fadd x.pos a (x.regs.get (fB n)) (fD n)], faddRegs := x.faddRegs ++ [fD n] } (x.pos + 1)))

/-- R40 and R208, R209: held effects enter the hold queue at issue. -/
def Obligations.HeldPosts : Prop :=
  ∀ (s : State) (th : ThRef) (w : Word),
    let n := w.toNat
    let x := s.th th
    let ix := x.pos
    let split := (s.core th.core).split
    let span := spanWord (x.regs.get (fD n))
    let dest := destWord (x.regs.get (fA n))
    let ev : EventId := Fin.ofNat 64 (field n 35 6)
    let full := 64 ≤ x.hold.length
    let badLen := span.len = 0 ∨ span.len % 64 ≠ 0 ∨ 1048576 < span.len
    let otherLane := split = true ∧
      (if th.t = 0 then 0xC0000 < span.base + span.len ∧ span.base < 0x180000 else span.base < 0xC0000)
    let past := 0x180000 < span.base + span.len ∨ 0x180000 < dest.addr + span.len
    let otherEv := split = true ∧ ¬ (ev.1 < 32 ↔ th.t = 0)
    let raises (i : Instr) (f : IFault) : Prop := exec i s = .next (raiseFault s th f ix w)
    let holds (i : Instr) (u : State) (h : Held) : Prop :=
      ∃ t, exec i s = .next t ∧ goesOn u t th { x with hold := x.hold ++ [h] } (ix + 1)
    (executes s th w 0x63 [] →
      (badLen → raises (.send th) .fieldRange) ∧ (¬ badLen → otherLane → raises (.send th) .benchLane) ∧
      (¬ badLen → ¬ otherLane → past → raises (.send th) .benchRange) ∧
      (¬ badLen → ¬ otherLane → ¬ past → full → raises (.send th) .passHoldFull) ∧
      (¬ badLen → ¬ otherLane → ¬ past → ¬ full → holds (.send th) s (.send ix span dest ev (field n 32 3)))) ∧
    (executes s th w 0x64 [] →
      (full → raises (.post th) .passHoldFull) ∧ (¬ full → holds (.post th) s (.post ix dest ev))) ∧
    (executes s th w 0x67 [] →
      (otherEv → raises (.grdy th) .fieldRange) ∧ (¬ otherEv → full → raises (.grdy th) .passHoldFull) ∧
      (¬ otherEv → ¬ full → if n.testBit 34 then
          holds (.grdy th) (s.modLaunch fun l => { l with vvx := true })
            (.grdy ix span ev (field n 24 8) (field n 0 24) (some (x.regs.get (fA n))))
        else holds (.grdy th) s (.grdy ix span ev (field n 24 8) (field n 0 24) none)))

/-- R207: AWAIT and AWAITANY, and their releases, outside replay mode (R354). -/
def Obligations.EventWaits : Prop :=
  ∀ (s : State) (th : ThRef) (w : Word) (l : Launch), s.launch = some l → l.replay = false →
    let n := w.toNat
    let x := s.th th
    let k := s.core th.core
    let ev (t : State) (e : EventId) : W32 := (t.core th.core).ev[e]
    let kept (t : State) : Prop :=
      t.hbm = s.hbm ∧ t.sites = s.sites ∧ t.bufs = s.bufs ∧ (t.core th.core).tiles = k.tiles ∧
        (∀ d, d ≠ th.core → t.core d = s.core d)
    -- n is taken from event e and the thread goes on
    let takes (t : State) (e : EventId) (amount cycles : Nat) : Prop :=
      ev t e = ev s e - BitVec.ofNat 32 amount ∧ (∀ f, f ≠ e → ev t f = ev s f) ∧
      (t.th th).st = .running ∧ (t.th th).pos = x.pos + 1 ∧ (t.th th).consumed = x.consumed ++ [⟨e, amount⟩] ∧
      (t.core th.core).live.awaitCycles = cycles
    (executes s th w 0x65 [] →
      let e : EventId := Fin.ofNat 64 (field n 40 6)
      let amount := field n 0 32
      let bad := amount = 0 ∨ ((s.core th.core).split = true ∧ ¬ (e.1 < 32 ↔ th.t = 0))
      (bad → exec (.await th) s = .next (raiseFault s th .fieldRange x.pos w)) ∧
      (¬ bad → amount ≤ (ev s e).toNat → ∃ t, exec (.await th) s = .next t ∧ takes t e amount k.live.awaitCycles ∧ kept t ∧ (t.th th).regs = x.regs) ∧
      (¬ bad → (ev s e).toNat < amount → exec (.await th) s = .next (s.setTh th { x with st := .awaiting e amount }))) ∧
    (∀ e amount waited, x.st = .awaiting e amount →
      ((ev s e).toNat < amount → exec (.awaitRelease th waited) s = .next s) ∧
      (l.st = .active → amount ≤ (ev s e).toNat → ∃ t, exec (.awaitRelease th waited) s = .next t ∧ takes t e amount (sat64 k.live.awaitCycles waited) ∧
        kept t ∧ (t.th th).regs = x.regs)) ∧
    (executes s th w 0x66 [] → vvNext s th = none →
      let mask := x.regs.get (fA n)
      let set (e : EventId) : Prop := mask.getLsbD e.1 = true ∧ ev s e ≠ 0
      let bad := (s.core th.core).split = true ∧ ∃ e : EventId, mask.getLsbD e.1 = true ∧ ¬ (e.1 < 32 ↔ th.t = 0)
      (bad → exec (.awaitany th) s = .next (raiseFault s th .fieldRange x.pos w)) ∧
      (¬ bad → vvFull s = true → exec (.awaitany th) s = .next (raiseFault s th .vvLogFull x.pos w)) ∧
      (¬ bad → vvFull s = false → (∀ e, ¬ set e) →
        exec (.awaitany th) s = .next (s.setTh th { x with st := .awaitingAny (fD n) mask })) ∧
      (¬ bad → vvFull s = false → ∀ e, set e → (∀ f, set f → e.1 ≤ f.1) → ∃ t, exec (.awaitany th) s = .next t ∧
        takes t e 1 k.live.awaitCycles ∧ t.sites = s.sites ∧ (t.th th).regs = x.regs.set (fD n) (BitVec.ofNat 64 e.1) ∧
        t.launch.map (·.vvLog) = some (l.vvLog ++ [({ value := BitVec.ofNat 64 e.1, index := x.pos, th := th, red := false } : VvEntry)]) ∧
        t.launch.map (·.vvx) = some true)) ∧
    (∀ d mask waited, x.st = .awaitingAny d mask → vvNext s th = none → l.st = .active →
      ∀ e : EventId, mask.getLsbD e.1 = true → ev s e ≠ 0 → (∀ f : EventId, mask.getLsbD f.1 = true → ev s f ≠ 0 → e.1 ≤ f.1) →
      (vvFull s = true →
        exec (.awaitanyRelease th waited) s = .next (raiseFault s th .vvLogFull x.pos ((wordAt x x.pos).getD 0))) ∧
      (vvFull s = false → ∃ t, exec (.awaitanyRelease th waited) s = .next t ∧ takes t e 1 (sat64 k.live.awaitCycles waited) ∧
        t.sites = s.sites ∧ (t.th th).regs = x.regs.set d (BitVec.ofNat 64 e.1)))

/-- R213 steps 1, 3 and 4, R216, R218. -/
def Obligations.CommitEndAnchor : Prop :=
  ∀ (s : State) (th : ThRef) (w : Word),
    let n := w.toNat
    let x := s.th th
    let k := s.core th.core
    let live := x.regs.get (fA n)
    let number := field n 0 16
    let badLive := k.split = true ∧ (if th.t = 0 then field live.toNat 12 12 ≠ 0 ∨ field live.toNat 40 16 ≠ 0
      else field live.toNat 0 12 ≠ 0 ∨ field live.toNat 24 16 ≠ 0)
    let badOrder := x.window.isSome = true ∨ number ≠ x.anchorNo + 1
    let committed (i : Instr) (st : ThState) : Prop :=
      ∃ t, exec i s = .next t ∧ (t.th th).st = st ∧ (t.th th).pos = x.pos + 1 ∧ (t.th th).regs = x.regs ∧
        (t.th th).ckpt.regs = x.regs ∧ (t.th th).ckpt.sendIx = k.sendIx ∧ (t.th th).ckpt.pos = x.pos + 1 ∧
        (t.th th).written = 0 ∧ (t.th th).consumed = [] ∧ (t.th th).touched = [] ∧ (t.th th).statusSn = [] ∧
        (t.th th).slotSn = [] ∧ (t.th th).hold = [] ∧ (t.th th).faddRegs = [] ∧
        t.hbm = s.hbm ∧ t.sites = s.sites ∧ t.fabric = s.fabric ∧ t.launch = s.launch ∧
        (t.core th.core).ev = k.ev ∧ (t.core th.core).sendIx = k.sendIx ∧ (t.core th.core).tiles = k.tiles ∧
        (∀ d, d ≠ th.core → t.core d = s.core d) ∧ (∀ r, r ≠ th → t.th r = s.th r)
    (executes s th w 0x02 [] →
      (x.sb ≠ [] → exec (.commit th) s = .next s) ∧
      (x.sb = [] → x.hold = [] → x.acks = [] → committed (.commit th) .running)) ∧
    (executes s th w 0x01 [] →
      (x.sb ≠ [] → exec (.endThread th) s = .next s) ∧
      (x.window = none → x.sb = [] → x.hold = [] → x.acks = [] → committed (.endThread th) .ended) ∧
      (∀ v m, x.window = some v → x.mainCkpt = some m → x.sb = [] → x.hold = [] → x.acks = [] →
        ∃ t, exec (.endThread th) s = .next t ∧ (t.th th).st = .running ∧ (t.th th).window = none ∧ (t.th th).passed = true ∧
          (t.th th).pos = m.pos ∧ (t.th th).stream = x.mainStream ∧
          (t.th th).regs = { m.regs with vfl := m.regs.vfl ||| x.regs.vfl } ∧ t.hbm = s.hbm ∧ t.sites = s.sites)) ∧
    (executes s th w 0x03 [] →
      (badLive → exec (.anchor th) s = .next (raiseFault s th .fieldRange x.pos w)) ∧
      (¬ badLive → badOrder → exec (.anchor th) s = .next (raiseFault s th .anchorOrder x.pos w)) ∧
      (¬ badLive → ¬ badOrder → x.sb ≠ [] → exec (.anchor th) s = .next s) ∧
      (¬ badLive → ¬ badOrder → x.sb = [] → x.hold = [] → x.acks = [] → committed (.anchor th) (.atAnchor number live)))

/-- R213 step 2. R216 steps 1 to 3. -/
def Obligations.ReleasesAndSpills : Prop :=
  (∀ (s : State) (th : ThRef) (w : Word) (l : Launch), s.launch = some l → l.replay = false → memoriesWf s →
      let x := s.th th
      let k := s.core th.core
      executes s th w 0x02 [] → x.sb = [] → x.acks = [] →
      (∀ ix dest ev, x.hold = [.post ix dest ev] → dest.chip = s.chipId → ∀ c : CoreId, c.1 = 16 * dest.row + dest.col →
        coreTakesPart s c = true → localIndex s th.core < (k.sendIx + 1) % 2 ^ 32 → (s.core c).ev[ev] ≠ 0xFFFFFFFF →
        ∃ t, exec (.commit th) s = .next t ∧ (t.core th.core).sendIx = (k.sendIx + 1) % 2 ^ 32 ∧
          (t.core c).ev[ev] = (s.core c).ev[ev] + 1 ∧ (∀ e, e ≠ ev → (t.core c).ev[e] = (s.core c).ev[e]) ∧
          (t.th th).hold = [] ∧ (t.th th).st = .running ∧ (t.th th).relCnt = x.relCnt + 1 ∧ t.hbm = s.hbm ∧ t.sites = s.sites) ∧
      (∀ ix a v dest, x.hold = [.fadd ix a v dest] → hbmHeld s [(a, 8)] [] = false →
        let old := ofBytes (s.hbm.mem.read a 8)
        ∃ t, exec (.commit th) s = .next t ∧ (t.th th).st = .committing .commit ∧ (t.th th).hold = [] ∧ (t.th th).regs = x.regs ∧
          (t.th th).acks = [.fadd (BitVec.ofNat 64 old) dest ix] ∧
          (let u := hbmWrite s a (toBytes 8 (BitVec.ofNat 64 old + v).toNat)
           ((vvNext s th).isSome = true → t.hbm = u.hbm ∧ t.launch.map (·.vvLog) = some l.vvLog) ∧
           (vvNext s th = none → t.hbm = (vvLogEntry u th ix (BitVec.ofNat 64 old) false).hbm ∧
             t.launch.map (·.vvLog) = some (l.vvLog ++ [({ value := BitVec.ofNat 64 old, index := ix, th := th, red := false } : VvEntry)]))) ∧
          t.sites = s.sites ∧
          ∃ u, exec (.atomicAcknowledge th) t = .next u ∧ (u.th th).regs = x.regs.set dest (BitVec.ofNat 64 old) ∧
            (u.th th).st = .running ∧ (u.th th).acks = [] ∧ (u.th th).ckpt.regs = x.regs.set dest (BitVec.ofNat 64 old))) ∧
  (∀ (s : State) (l : Launch), s.launch = some l →
      (∀ n, heldAnchor s = some n → l.st = .active → allHeld s n = true →
        ∃ t l', exec .anchorSpill s = .next (if l'.journal.length < l.journal.length then retryHeld t else t) ∧
          t.launch = some l' ∧ l'.journal = journalKept s l ∧ l'.anchorNo = n ∧ l'.vvLog = [] ∧ l'.st = .active ∧
          l'.anchors = l.anchors.filter (fun a => a.number % 2 ≠ n % 2) ++ [anchorRec s n] ∧
          (∀ r, ∀ m live, (s.th r).st = .atAnchor m live → (t.th r).st = .running) ∧
          (∀ r, (t.th r).regs = (s.th r).regs ∧ (t.th r).pos = (s.th r).pos) ∧
          t.hbm = (writeHalf s l n).hbm ∧ (anchorRec s n).complete = true ∧ t.sites = s.sites ∧ t.bufs = s.bufs ∧
          ∀ c, (t.core c).ev = (s.core c).ev ∧ (t.core c).tiles = (s.core c).tiles ∧ (t.core c).slots = (s.core c).slots) ∧
      (heldAnchor s = none → exec .anchorSpill s = .next s) ∧
      (∀ n, heldAnchor s = some n → allHeld s n = false → exec .anchorSpill s = .next s))

/-- R224, R225: windows; R190: the cue buffer. -/
def Obligations.WindowsAndCue : Prop :=
  ∀ (s : State) (th : ThRef),
    let x := s.th th
    let split := (s.core th.core).split
    let lines := if split then 8 else 16
    let kept (t : State) : Prop := t.hbm = s.hbm ∧ t.sites = s.sites ∧ (∀ d, d ≠ th.core → t.core d = s.core d) ∧
      ∀ r, r ≠ th → t.th r = s.th r
    (∀ e, windowAt s th = some e → mayRun s th = true →
      (boundTo s e.window = none → x.st = .running ∨ x.st = .inWindowWait e.window → ∃ t, exec (.windowWait th) s = .next t ∧
        let owed := match x.st, x.waitAt with | .inWindowWait _, some n => coreCycles s (s.align.ticks - n) | _, _ => 0
        (t.th th) = { x with st := .inWindowWait e.window, cycles := x.cycles + owed, waitAt := some s.align.ticks } ∧
        (t.core th.core).live.windowWait = sat64 (s.core th.core).live.windowWait owed ∧ t.launch = s.launch.map (fun l => { l with waited := true }) ∧ kept t) ∧
      (∀ b waited, boundTo s e.window = some b → (x.st = .running ∨ x.st = .inWindowWait e.window) →
        ∃ t, exec (.windowEnter th waited) s = .next t ∧ (t.th th).st = .running ∧ kept t ∧
          (t.core th.core).live.windowWait = (if x.st = .running then (s.core th.core).live.windowWait
            else sat64 (s.core th.core).live.windowWait waited) ∧
          (∀ sec, (b.sections.getD []).find? (fun y => decide (y.th = th)) = some sec →
            (t.th th).window = some b.window ∧ (t.th th).stream = some sec.stream ∧ (t.th th).pos = 0 ∧
            (t.th th).mainCkpt = some { x.ckpt with pos := x.pos } ∧ (t.th th).mainStream = x.stream ∧
            (t.th th).regs.get 1 = b.arg ∧ (t.th th).regs.get 2 = BitVec.ofNat 64 s.chipId ∧
            (t.th th).regs.get 3 = BitVec.ofNat 64 (th.core.1 / 16 * 256 + th.core.1 % 16) ∧
            (t.th th).regs.get 4 = BitVec.ofNat 64 th.t.1 ∧ (t.th th).regs.vfl = 0) ∧
          ((b.sections.getD []).find? (fun y => decide (y.th = th)) = none →
            (t.th th).passed = true ∧ (t.th th).pos = x.pos ∧ (t.th th).stream = x.stream ∧ (t.th th).regs = x.regs))) ∧
    (∀ st line miss, x.stream = some st → nextLine x st.count = some line → x.st ≠ .halted →
      line ≤ x.pos / 512 + (if split then 5 else 11) →
      (∀ a ∈ s.hbm.bad, ¬ (st.base + 4096 * line ≤ a + 63 ∧ a < st.base + 4096 * line + 4096)) →
      (dropOldest x lines).length < lines →
      ∃ t, exec (.cueLineFetch th line miss) s = .next t ∧ kept t ∧ (t.th th).pos = x.pos ∧ (t.th th).regs = x.regs ∧
        (t.th th).cue = dropOldest x lines ++ [⟨line, (unpackElems 64 (min 512 (st.count - 512 * line))
          (s.hbm.mem.read (st.base + 4096 * line) 4096)).map (BitVec.ofNat 64)⟩])

/-- R214, R131, R154: an aborted pass; R346: the third detection fences. -/
def Obligations.PassRecomputed : Prop :=
  ∀ (s : State) (th : ThRef) (lost : Nat) (why : PassCause) (l : Launch), s.launch = some l → l.st = .active → inPass (s.th th) = true →
    let x := s.th th
    let k := s.core th.core
    let marked : State := loseCycles (chargeCore (noteCause s th why) th.core 1) lost
    (2 ≤ x.detections ∨ 31 ≤ k.detections → exec (.passRecompute th ⟨lost, why⟩) s = .next (replay marked (.fence th.core))) ∧
    (x.detections < 2 → k.detections < 31 → l.replay = true → exec (.passRecompute th ⟨lost, why⟩) s =
      .next (replay marked (.detected (some th.core)))) ∧
    (x.detections < 2 → k.detections < 31 → l.replay = false → ∃ t l', exec (.passRecompute th ⟨lost, why⟩) s = .next t ∧
      (∀ p, why = .transient p → t.run.transient = sat64 s.run.transient 1) ∧ (∀ n, why = .cueLine n → ∀ y ∈ (t.th th).cue, y.line ≠ n) ∧
      t.launch = some l' ∧ l'.exc = l.exc ||| 4 ∧ t.ctrs.recCycles = sat64 s.ctrs.recCycles lost ∧
      (t.th th).regs = x.ckpt.regs ∧ (t.th th).pos = x.ckpt.pos ∧ (t.th th).st = .running ∧ (t.th th).sb = [] ∧
      (t.th th).hold = [] ∧ (t.th th).consumed = [] ∧ (t.th th).written = 0 ∧ (t.th th).detections = x.detections + 1 ∧
      (t.core th.core).detections = k.detections + 1 ∧ (t.core th.core).sendIx = k.sendIx ∧
      (∀ q i j : Fin 32, ((t.core th.core).tiles[q])[i][j] =
        if ∃ y ∈ x.touched, Fin.ofNat 32 y.tile = q ∧ y.rows.getLsbD i.1 = true ∧ y.cols.getLsbD j.1 = true then 0
        else (k.tiles[q])[i][j]) ∧
      (∀ q : Fin 32, (t.core th.core).status[q] =
        ((x.statusSn.reverse.find? fun y => decide (Fin.ofNat 32 y.tile = q)).map (·.old)).getD k.status[q]) ∧
      (∀ q : Fin 32, (t.core th.core).slots[q] =
        ((x.slotSn.reverse.find? fun y => decide (y.slot = q)).map (·.old)).getD k.slots[q]) ∧
      (∀ e : EventId, (t.core th.core).ev[e] =
        k.ev[e] + BitVec.ofNat 32 ((x.consumed.filter fun y => decide (y.ev = e)).map (·.amount)).sum) ∧
      t.hbm = s.hbm ∧ t.sites = s.sites ∧ t.bufs = s.bufs ∧ (∀ d, d ≠ th.core → t.core d = s.core d))

/-- R350, R351; R356: the end of a replay's attempts. R354, R357: the end of replay mode; R348: a reduction's join. -/
def Obligations.AnchorReplays : Prop :=
  (∀ (s : State) (l : Launch) (a : AnchorRec), s.launch = some l → l.st = .active → lastAnchor l = some a →
      (4 ≤ l.attempts → exec (.anchorReplay (.detected none)) s = .next (haltLaunch s .internal)) ∧
      (l.attempts < 4 → anchorLost s l a = true → exec (.anchorReplay (.detected none)) s = .next (haltLaunch (beginReplay s) .checksum)) ∧
      (l.attempts < 4 → anchorLost s l a = false → ∃ t l', exec (.anchorReplay (.detected none)) s = .next t ∧ t.launch = some l' ∧
        l'.replay = true ∧ l'.attempts = l.attempts + 1 ∧ l'.exc.getLsbD 3 = true ∧ l'.vvLog = l.vvLog ∧
        t.run.replays = sat64 s.run.replays 1 ∧ t.fabric.localAccepted = a.localAccepted ∧
        (∀ c x, a.cores.find? (fun y => decide (y.1 = c)) = some (c, x) → (a.cores.filter fun y => decide (y.1 = c)).length = 1 →
          (t.core c).sendIx = x.sendIx ∧
          (∀ i : Fin 2, (t.th ⟨c, i⟩).pos = x.ckpts[i].pos ∧ (t.th ⟨c, i⟩).regs = x.ckpts[i].regs ∧ (t.th ⟨c, i⟩).sb = [] ∧
            (t.th ⟨c, i⟩).hold = [] ∧ (t.th ⟨c, i⟩).relCnt = x.ckpts[i].relCnt) ∧
          (∀ q : Fin 32, (∀ y ∈ x.tiles, Fin.ofNat 32 y.1 ≠ q) → (t.core c).tiles[q] = tile0) ∧
          (x.tiles = [] → ∀ q : Fin 32, (t.core c).status[q] = TileStatus.zero) ∧
          ∀ q : Fin 4, (t.core c).planes[q] = planes0))) ∧
  (∀ (s : State) (l : Launch), s.launch = some l → l.st = .active →
      (l.replay = true → (∀ r ∈ s.participants, (s.th r).caughtUp = true) → (∀ e ∈ l.journal, e.applied = true) →
        ∃ t l', exec .replayModeEnd s = .next t ∧ t.launch = some l' ∧ l'.replay = false ∧ l'.journal = l.journal ∧
          t.ctrs.repTicks = sat64 s.ctrs.repTicks (s.tally.toNat - l.replayFrom) ∧
          (∀ r ∈ s.participants, (t.th r).stopPos = none ∧ (t.th r).relMark = 0 ∧ (t.th r).regs = (s.th r).regs ∧
            (t.th r).pos = (s.th r).pos) ∧ t.hbm = s.hbm ∧ t.sites = s.sites) ∧
      (l.replay = false → exec .replayModeEnd s = .next s) ∧
      (∀ r ∈ s.participants, (s.th r).caughtUp = false → exec .replayModeEnd s = .next s) ∧
      (∀ core n, 0 < n → n < 3 → (s.core core).detections + n < 32 → ∃ t l', exec (.reductionJoinRepeat core (.residue n)) s = .next t ∧
        t.launch = some l' ∧ l'.exc = l.exc ||| 4 ∧ (t.core core).detections = (s.core core).detections + n ∧
        t.ctrs.recCount = sat64 s.ctrs.recCount n ∧ t.hbm = s.hbm ∧ t.sites = s.sites ∧ (∀ c, c ≠ core → t.core c = s.core c)) ∧
      (∀ core n, 3 ≤ n ∨ 32 ≤ (s.core core).detections + n → 0 < n → ∃ u, exec (.reductionJoinRepeat core (.residue n)) s = .next (replay u (.fence core)) ∧
        (u.core core).detections = (s.core core).detections + n ∧ u.hbm = s.hbm ∧ u.sites = s.sites) ∧
      (∀ core, ∃ t, exec (.reductionJoinRepeat core (.linear 1)) s = .next t ∧ t.launch = some { l with exc := l.exc ||| 4 } ∧ t.cores = s.cores ∧
        t.ctrs.recCount = sat64 s.ctrs.recCount 1 ∧ t.run.assayerFails = sat64 s.run.assayerFails 1 ∧ t.hbm = s.hbm ∧ t.sites = s.sites) ∧
      (∀ core n, 2 ≤ n → ∃ u, exec (.reductionJoinRepeat core (.linear n)) s = .next (haltLaunch u .checksum) ∧
        u.launch = some { l with exc := l.exc ||| 4 } ∧ u.cores = s.cores ∧ u.run.assayerFails = sat64 s.run.assayerFails n)) ∧
  (∀ (s : State) (c : CoreId),
      (s.launchActive = true → exec (.anchorReplay (.detected (some c))) s =
        .next (replay (chargeCore s c 1) (if (s.core c).detections < 31 then .detected (some c) else .fence c))) ∧
      ∀ p, ∃ u, u.run = { s.run with stored := sat64 s.run.stored 1 } ∧ u.cores = s.cores ∧ u.hbm = s.hbm ∧ u.launch = s.launch ∧
        (∀ i : SiteId, u.sites[i].bench = s.sites[i].bench) ∧ (∀ a, p = .half a → a / 64 * 64 ∈ (u.sites[siteOf s c]).bad) ∧
        (s.launchActive = false → exec (.anchorReplay (.stored c p)) s = .next u) ∧
        (s.launchActive = true → p.key ∈ (s.core c).storedAt → exec (.anchorReplay (.stored c p)) s = .next (replay u (.fence c))) ∧
        (s.launchActive = true → p.key ∉ (s.core c).storedAt → exec (.anchorReplay (.stored c p)) s =
          .next (chargedReplay (u.modCore c fun k => { k with storedAt := k.storedAt ++ [p.key] }) c)))

/-- R168: the code; R184: two reads; Table 7.9: the restore by source. R185, R186. -/
def Obligations.SectorErrors : Prop :=
  (∀ (s : State) (addr lost : Nat) (x y : SectorRead) (reader : SectorReader),
      let a := addr / 64 * 64
      let row := exec (.hbmSectorError addr x y reader lost) s
      let held : Prop := reader = .launch ∧ s.launchActive = true
      let noted (u : State) : Prop := a ∈ u.hbm.bad ∧ (∀ z, z ∈ u.hbm.bad ↔ z ∈ s.hbm.bad ∨ z = a) ∧ u.hbm.mem = s.hbm.mem ∧
        u.hbm.failed.lookup a = some y ∧ u.run.stored = sat64 s.run.stored 1 ∧ u.cores = s.cores ∧ u.sites = s.sites ∧ u.launch = s.launch
      (Config.hbmEnd ≤ a ∨ x.passes a = true → row = .next s) ∧
      (a < Config.hbmEnd → x.passes a = false → y.passes a = true →
        ∃ t, row = .next t ∧ t.hbm = s.hbm ∧ t.sites = s.sites ∧ t.cores = s.cores ∧
          t.run.transient = sat64 s.run.transient 1 ∧ (¬ held → t.launch = s.launch) ∧
          (held → t.launch = s.launch.map fun l => { l with exc := l.exc ||| 4 })) ∧
      (a < Config.generalBase → x.passes a = false → y.passes a = false →
        row = .next { s with run := { s.run with stored := sat64 s.run.stored 1 } }) ∧
      (Config.generalBase ≤ a → a < Config.hbmEnd → x.passes a = false → y.passes a = false → s.fabric.held = [] →
        (∀ o p, otherCopy s a = some (o, p) → o ≠ a →
          (o ∉ s.hbm.bad → ∃ t, row = .next t ∧ t.hbm.mem = s.hbm.mem.copy o a 64 ∧
            (∀ z, z ∈ t.hbm.bad ↔ z ∈ s.hbm.bad ∧ z ≠ a) ∧ t.run.restores = sat64 s.run.restores 1 ∧ t.sites = s.sites ∧ t.cores = s.cores) ∧
          (o ∈ s.hbm.bad → ∃ u, noted u ∧ row = .next (if reader = .scrub then u else haltLaunch u .checksum))) ∧
        (otherCopy s a = none → regionAt s a = none →
          (¬ held → ∃ t, noted t ∧ row = .next t) ∧
          (∀ l, held → s.launch = some l → ∃ u, noted u ∧ row = .next (if a ∈ l.replayedFor then haltLaunch u .checksum
            else replay (u.modLaunch fun l => { l with replayedFor := l.replayedFor ++ [a] }) (.detected none)))))) ∧
  (∀ (s : State) (addr : Nat), memoriesWf s → s.fabric.held = [] →
      let a := addr / 64 * 64
      let asked : Prop := ∃ q ∈ s.fabric.reads, q.use = ReadFor.sector a
      (asked →
        (∀ bs, bs.length = 64 → a ∈ s.hbm.bad → mirrorParts s a 64 = [] → ∃ t, exec (.peerRestoreReply addr 0 bs) s = .next t ∧
          a ∉ t.hbm.bad ∧ t.hbm.mem.read a 64 = bs ∧ (∀ z, ¬ (a ≤ z ∧ z < a + 64) → t.hbm.mem.get z = s.hbm.mem.get z) ∧
          t.run.restores = sat64 s.run.restores 1 ∧ (∀ q ∈ t.fabric.reads, q.use ≠ ReadFor.sector a) ∧ t.sites = s.sites ∧ t.cores = s.cores) ∧
        (∀ bs, bs.length = 64 → a ∉ s.hbm.bad → ∃ t, exec (.peerRestoreReply addr 0 bs) s = .next t ∧
          t.hbm = s.hbm ∧ (∀ q ∈ t.fabric.reads, q.use ≠ ReadFor.sector a) ∧ t.sites = s.sites) ∧
        ∀ r bs, r ≠ 0 → exec (.peerRestoreReply addr r bs) s =
          .next (if (waitedSince s a).isSome then haltLaunch (closeSector s a) .checksum else closeSector s a)) ∧
      (¬ asked → ∀ r bs, exec (.peerRestoreReply addr r bs) s = .next s) ∧
      (∀ tick, waitedSince s a = some tick → exec (.peerRestoreTimeout addr) s =
        .next (if tick + 1048576 ≤ s.tally.toNat then haltLaunch (closeSector s a) .checksum else s)) ∧
      (waitedSince s a = none → (∃ q ∈ s.fabric.reads, q.use = ReadFor.sector a ∧ q.since + 1048576 ≤ s.tally.toNat) →
        exec (.peerRestoreTimeout addr) s = .next (closeSector s a)))

/-- R370, R371: repair and retirement; R170 to R172, R249: refresh and background access; R164, R162: bench scrub. -/
def Obligations.MemoryService : Prop :=
  ∀ (s : State),
    (∀ chan lane n, 3 ≤ laneFails s chan lane → lanesLeft s chan = true → s.hbm.repaired.contains (chan, lane) = false →
      (∃ p ∈ pcsOf chan, s.hbm.slotFree[p] = true) →
      ∃ t, exec (.laneRepair chan lane n) s = .next t ∧
        t.hbm = { s.hbm with repaired := s.hbm.repaired ++ [(chan, lane)], slotFree := t.hbm.slotFree } ∧
        (∀ p : Fin 256, t.hbm.slotFree[p] = (s.hbm.slotFree[p] && !(pcsOf chan).contains p)) ∧
        t.run.laneRepairs = sat64 s.run.laneRepairs 1 ∧ t.sites = s.sites ∧ t.cores = s.cores ∧
        (s.counting = true → t.ctrs.refStall = sat64 s.ctrs.refStall n)) ∧
    (∀ pc, retireDue s pc.1 = true → pc.1 ∉ s.hbm.retired →
      (s.launchActive = true → s.hbm.retired.length < 4 → exec (.pcRetire pc) s = .next (replay s (.retire pc))) ∧
      (s.launchActive = false → laneLost s (chanOf pc.1) = false → s.hbm.retired.length < 4 →
        ∃ t, exec (.pcRetire pc) s = .next t ∧ t.hbm.retired = s.hbm.retired ++ [pc.1] ∧
          t.run.pcRetired = sat64 s.run.pcRetired 1 ∧ t.sites = s.sites ∧ t.cores = s.cores) ∧
      (s.launchActive = false → laneLost s (chanOf pc.1) = true → s.hbm.retired.length < 3 →
        ∃ t, exec (.pcRetire pc) s = .next t ∧ (∀ p ∈ pcsOf (chanOf pc.1), p.1 ∈ t.hbm.retired) ∧ t.sites = s.sites ∧ t.cores = s.cores)) ∧
    (∀ pc, retireDue s pc.1 = false ∨ pc.1 ∈ s.hbm.retired → exec (.pcRetire pc) s = .next s) ∧
    (∀ pc n m, s.hbm.trained = true → s.power.hbmRails = true → isAwake s = true →
      ∃ t, exec (.refresh pc n m) s = .next t ∧ t.hbm.slotFree[pc] = true ∧ t.hbm.refreshes[pc] = s.hbm.refreshes[pc] + 1 ∧
        (∀ q, q ≠ pc → t.hbm.slotFree[q] = s.hbm.slotFree[q] ∧ t.hbm.refreshes[q] = s.hbm.refreshes[q]) ∧
        t.hbm.mem = s.hbm.mem ∧ t.run.stackCorrected = sat64 s.run.stackCorrected m ∧ t.sites = s.sites) ∧
    (∀ pc n lost, s.hbm.slotFree[pc] = true → s.power.hbmRails = true → isAwake s = true →
      ∃ t, exec (.refreshSlotAccess pc ⟨n, lost⟩) s = .next t ∧ t.hbm.slotFree[pc] = false ∧ t.sites = s.sites ∧
        (s.hbm.calDue.getLsbD pc.1 = true → t.hbm.calDue.getLsbD pc.1 = false ∧ t.hbm.dev = s.hbm.dev ∧ t.hbm.scrubAt = s.hbm.scrubAt ∧
          t.hbm.mem = s.hbm.mem) ∧
        (∀ d, s.hbm.calDue.getLsbD pc.1 = false → devWrite s = some d → t.hbm.dev = d ∧ t.hbm.scrubAt = s.hbm.scrubAt ∧ t.hbm.mem = s.hbm.mem) ∧
        (s.hbm.calDue.getLsbD pc.1 = false → devWrite s = none → scrubDue s pc = true →
          t.hbm.scrubAt[pc] = (s.hbm.scrubAt[pc] + 1) % 3145728 ∧ t.hbm.scrubHrs[pc] = s.hbm.scrubHours ∧
          t.hbm.credit[pc] = s.hbm.credit[pc] - scrubPeriod s pc ∧ t.hbm.mem = s.hbm.mem) ∧
        (s.hbm.calDue.getLsbD pc.1 = false → devWrite s = none → scrubDue s pc = false →
          t.run.traceLost = sat64 s.run.traceLost (min lost s.trace.queue.length) ∧ t.hbm.scrubAt = s.hbm.scrubAt)) ∧
    (∀ (site : SiteId) (bank : Fin 24) n, s.power.colRails = true → isAwake s = true →
      siteFenced s (Fin.ofNat 16 site.1) (site.1 / 16) = false → (∀ c, coreAt s site = some c → (s.core c).sleep ≠ .s2) →
      let row := 65536 * bank.1 + 128 * (s.sites[site].scrub[bank]).1
      let u := { s with sites := vmod s.sites site fun x => { x with scrub := vset x.scrub bank (x.scrub[bank] + 1) } }
      let counted := match coreAt s site with | some c => bankStalls u (bankThread s c bank) n | none => u
      (badHalves s site row 128 = [] → exec (.benchScrubRead site bank ⟨.good, n⟩) s = .next counted) ∧
      (∀ c h more, coreAt s site = some c → badHalves s site row 128 = h :: more →
        exec (.benchScrubRead site bank ⟨.good, n⟩) s = .next (storedFind counted c (.half h))))

/-- Table 10.8, R251; R250: a descriptor that completes at a check has no side effect. R250 check 1; R258, R260: records are neither lost nor reordered away. -/
def Obligations.DescriptorsByState : Prop :=
  (∀ (s : State) (sq : RingId) (d : Desc), offered s sq d →
      let turned (c : RingId → Instr) : Prop := ∃ u st, completes (c sq) s u sq d st 0 ∧ (st = 0x10 ∨ st = 0x21) ∧ hostOnly s u
      (∀ tab im, ∀ row ∈ admitTable tab im, row.2.1 d = true → stateCode s ∉ row.2.2 → turned row.1) ∧
      (d.opc = 1 → stateCode s ∉ [3, 4] →
        ((s.subs[sq]).ty = 0 → turned .launch) ∧ ((s.subs[sq]).ty = 1 → turned .backlogItem)) ∧
      (d.opc = 0xB → stateCode s ∉ [3, 4] → turned .groupOpen) ∧
      (d.opc = 0 → ∃ u, completes (.nop sq) s u sq d (if d.flagsOk = true ∧ d.param = 0 ∧ d.zeroFrom 1 = true then 0 else 0x10) 0 ∧
        hostOnly s u)) ∧
  (∀ (u : State) (sq : RingId),
      hostOnly u (pumpRings u) ∧
      (∃ more, (pumpRings u).out = u.out ++ more) ∧
      (∀ cq r, r ∈ (u.comps[cq]).waiting → r ∈ ((pumpRings u).comps[cq]).waiting ∨
        ∃ a p, Output.record cq a r p ∈ (pumpRings u).out.drop u.out.length) ∧
      (∀ d rest, (u.subs[sq]).fetched = d :: rest → d.known (u.subs[sq]).ty = false →
        (∀ r : RingId, r.1 % 4 ≠ sq.1 % 4 → (u.subs[r]).fetched = []) → pickRing u (Fin.ofNat 4 sq.1) = some sq →
        recordGiven u (pumpRings u) (u.subs[sq]).cq (doneRec (headOf u sq d) 0x10 0 none) ∧
        (((pumpRings u).subs[sq]).headPos ≠ (u.subs[sq]).headPos ∨ 2 ^ 32 ≤ (u.subs[sq]).fetched.length)))

/-- R257 (WIPE with STATUS), R181, R462, R491, R493. -/
def Obligations.DescriptorsAtOnce : Prop :=
  ∀ (s : State) (sq : RingId) (d : Desc), offered s sq d → d.flagsOk = true →
    let slot : Fin 64 := Fin.ofNat 64 d.param
    let free : Prop := ∀ r, s.regions[slot] = some r → rangeBusy s r.base r.size = false
    let setTo (c : Instr) (r : Option Region) : Prop := ∃ u, completes c s u sq d 0 0 ∧ u.regions = vset s.regions slot r ∧
      u.hdmOn = (s.hdmOn && windowCovered u (s.hdmBase * 2 ^ 28) (s.hdmSize * 2 ^ 28)) ∧
      hostOnly { s with regions := u.regions, hdmOn := u.hdmOn } u
    (d.opc = 4 → d.param = 1 ∨ d.param = 3 → d.zeroFrom 1 = true → ∃ u, completes (.wipeStatus sq) s u sq d 0 s.life.wipeLeft ∧ hostOnly s u) ∧
    (d.opc = 0x11 → d.param < 64 → d.zeroFrom 3 = true → d.word 1 < 2 ^ 38 → stateCode s ∈ [2, 3, 4, 5, 6] →
      free → setTo (.regionRemove sq) none) ∧
    (d.opc = 0x11 → d.zeroFrom 4 = true → stateCode s ∈ [2, 3, 4, 5, 6] → free → d.word 1 < 2 ^ 38 →
      (∀ chip, chip < 2 ^ 15 → d.param / 64 = 2 → d.word 3 = chip → firstFail (regionChecks s slot ⟨d.word 1, d.word 2, .peer chip⟩) = none →
        setTo (.regionDeclare sq) (some ⟨d.word 1, d.word 2, .peer chip⟩)) ∧
      (d.param / 64 = 3 → d.word 3 = 0 → firstFail (regionChecks s slot ⟨d.word 1, d.word 2, .host⟩) = none →
        setTo (.regionDeclare sq) (some ⟨d.word 1, d.word 2, .host⟩))) ∧
    (d.opc = 0x10 → d.param = 1 → d.word 3 < 2 ^ 29 → d.zeroFrom 4 = true → stateCode s ∈ [3, 4, 5, 6] → s.life.locks.getLsbD 5 = false →
      d.word 1 % 65536 = 0 → d.word 2 % 65536 = 0 → 65536 ≤ d.word 2 → inGeneral (d.word 1) (d.word 2) = true →
      ((d.word 3).testBit 28 = true ∨ (d.word 3 % 65536 ≠ 0 ∧ d.word 3 / 65536 % 4096 ≠ 0)) →
      ∃ t, exec (.traceCtlEnable sq) s = .next t ∧ t.trace.enabled = true ∧ t.trace.draining = false ∧ t.trace.sink = d.word 1 ∧
        t.trace.bytes = d.word 2 ∧ t.trace.written = 0 ∧ t.trace.cols = BitVec.ofNat 16 (d.word 3) ∧
        t.trace.rows = BitVec.ofNat 12 (d.word 3 / 65536) ∧ t.trace.disp = (d.word 3).testBit 28 ∧ t.cores = s.cores ∧ t.sites = s.sites ∧
        t.regions = s.regions ∧ (s.trace.queue = [] → t.hbm = s.hbm ∧ t.launch = s.launch)) ∧
    (d.opc = 0xE → d.param ≤ 5 → d.word 1 % 4096 = 0 → d.zeroFrom 2 = true → stateCode s ∈ [1, 2, 3, 4, 5, 6, 7] →
      (s.life.image.isSome = true ∨ d.param = 0) →
      (∃ u, completes (.query sq false) s u sq d 0x12 0 ∧ hostOnly s u) ∧
      ∃ u, completes (.query sq true) s u sq d 0 0 ∧ hostOnly s u ∧ (queryPage (takeFront s sq) d.param).length = 4096 ∧
        Output.hostWrite (d.word 1) (queryPage (takeFront s sq) d.param) ∈ u.out.drop s.out.length) ∧
    (d.opc = 0xD → d.param = 0 → d.word 2 % 4096 = 0 → 4096 ≤ d.word 2 → d.zeroFrom 3 = true → stateCode s ∈ [1, 2, 3, 4, 5, 6, 7] →
      ∀ w v c, (∃ u, completes (.snapshot sq w v c false) s u sq d 0x12 0 ∧ hostOnly s u) ∧
      ∃ u, completes (.snapshot sq w v c true) s u sq d 0 0 ∧ hostOnly s u ∧
        (snapshotReport (takeFront s sq) (min (d.word 2) 36864) w v c).length = min (d.word 2) 36864 ∧
        Output.hostWrite (d.word 1) (snapshotReport (takeFront s sq) (min (d.word 2) 36864) w v c) ∈ u.out.drop s.out.length)

/-- Table 10.10; R257: ranges; R181: a declaration's checks. -/
def Obligations.MemoryDescriptorsAccepted : Prop :=
  ∀ (s : State) (sq : RingId) (d : Desc), offered s sq d → d.flagsOk = true →
    let inside (a n : Nat) : Prop := Config.generalBase ≤ a ∧ a + n ≤ Config.generalEnd
    let sized (n : Nat) : Prop := 64 ≤ n ∧ n ≤ 2 ^ 38 ∧ n % 64 = 0
    (∀ sh dh src dst n, d.opc = 2 → d.param = sh.toNat + 2 * dh.toNat → (sh && dh) = false → d.word 1 = src → d.word 2 = dst → d.word 3 = n →
      d.zeroFrom 4 = true → src % 64 = 0 → dst % 64 = 0 → sized n → stateCode s ∈ [2, 3, 4, 5, 6] → (sh = false → inside src n) →
      (dh = false → inside dst n) → ∃ u, accepts (.copy sq) s u sq d (.copy sh dh src dst n) ∧ hostOnly s u ∧ u.out = s.out) ∧
    (∀ dst n, d.opc = 3 → d.param = 0 → d.word 1 = dst → d.word 2 = n → d.zeroFrom 4 = true → dst % 64 = 0 → sized n →
      stateCode s ∈ [2, 3, 4, 5, 6] → inside dst n → ∃ u, accepts (.fill sq) s u sq d (.fill dst n (BitVec.ofNat 64 (d.word 3))) ∧ hostOnly s u) ∧
    (∀ base n, d.opc = 4 → d.param = 0 → d.word 1 = base → d.word 2 = n → d.zeroFrom 3 = true → base % 65536 = 0 → n % 65536 = 0 →
      base < 2 ^ 38 →
      (stateCode s ∈ [2, 3, 4, 5, 6] → launchOpen s = false → inside base n → ∃ u, accepts (.wipe sq) s u sq d (.wipe base n) ∧ hostOnly s u) ∧
      (s.life.state = some .halted → ∃ u, completes (.wipe sq) s u sq d 0 0 ∧ hostOnly s u)) ∧
    (d.opc = 4 → d.param = 2 → d.zeroFrom 1 = true → stateCode s ∈ [2, 3, 4, 5, 6] → launchOpen s = false →
      ∃ u, accepts (.wipe sq) s u sq d (.wipe Config.generalBase (Config.generalEnd - Config.generalBase)) ∧ hostOnly s u) ∧
    (∀ m, d.opc = 0x11 → d.param / 64 = 1 → d.word 3 = m → d.zeroFrom 4 = true → d.word 1 < 2 ^ 38 → m < 2 ^ 38 →
      stateCode s ∈ [2, 3, 4, 5, 6] → (∀ r, s.regions[(Fin.ofNat 64 d.param : Fin 64)] = some r → rangeBusy s r.base r.size = false) →
      firstFail (regionChecks s (Fin.ofNat 64 d.param) ⟨d.word 1, d.word 2, .mirror m⟩) = none →
      ∃ u, accepts (.regionDeclare sq) s u sq d (.mirror (Fin.ofNat 64 d.param) ⟨d.word 1, d.word 2, .mirror m⟩) ∧ hostOnly s u)

/-- R248: the turn; R254, R257: the data; R261: RESULT; R185, R186: restores, with the model's reading of log entry 85. -/
def Obligations.MemoryDescriptorsRun : Prop :=
  ∀ (s : State) (i : Item), memoriesWf s → s.fabric.held = [] → s.items.find? (fun j => decide (j.id = i.id)) = some i →
    let goes (host : Option (List Byte)) (a n status result : Nat) (byte : Nat → Byte) : Prop :=
      ∃ t, exec (.memoryDescriptorComplete i.id host) s = .next t ∧
        (∀ x, (∀ p ∈ mirrorParts s a n, ¬ (p.2.1 ≤ x ∧ x < p.2.1 + p.2.2)) →
          t.hbm.mem.get x = if a ≤ x ∧ x < a + n then byte x else s.hbm.mem.get x) ∧
        (∀ p, mirrorParts s a n = [p] → ∀ x, p.2.1 ≤ x → x < p.2.1 + p.2.2 → t.hbm.mem.get x = byte (x - p.2.1 + p.1)) ∧
        t.sites = s.sites ∧ recordGiven s t (s.subs[i.h.sq]).cq (doneRec i.h status result (some i.id))
    let clean (a n : Nat) : Prop := ∀ x ∈ s.hbm.bad, ¬ (x < a + n ∧ a < x + 64)
    let writes (dst : Nat) : Prop := isRestore s i = false ∨ dst ∈ s.hbm.bad
    (memoryMayRun s i = false → ∀ host, exec (.memoryDescriptorComplete i.id host) s = .next s) ∧
    (memoryMayRun s i = true →
      (∀ dh src dst n bs, i.kind = .copy true dh src dst n → bs.length = n →
        (writes dst → goes (some bs) dst n 0 n fun x => bs.getD (x - dst) 0) ∧
        ∃ t, exec (.memoryDescriptorComplete i.id (some bs)) s = .next t ∧ Output.hostRead src n ∈ t.out.drop s.out.length ∧
          recordGiven s t (s.subs[i.h.sq]).cq (doneRec i.h 0 n (some i.id)) ∧
          (¬ writes dst → t.hbm = s.hbm ∧ t.sites = s.sites)) ∧
      (∀ dh src dst n, i.kind = .copy true dh src dst n → ∃ t, exec (.memoryDescriptorComplete i.id none) s = .next t ∧ t.hbm = s.hbm ∧
        hostOnly s t ∧ recordGiven s t (s.subs[i.h.sq]).cq (doneRec i.h 0x12 0 (some i.id))) ∧
      (∀ src dst n host, i.kind = .copy false true src dst n → clean src n → ∃ t, exec (.memoryDescriptorComplete i.id host) s = .next t ∧
        hostOnly s t ∧ Output.hostWrite dst (s.hbm.mem.read src n) ∈ t.out.drop s.out.length ∧
        recordGiven s t (s.subs[i.h.sq]).cq (doneRec i.h 0 n (some i.id))) ∧
      (∀ src dst n host, i.kind = .copy false false src dst n → clean src n → writes dst →
        goes host dst n 0 n fun x => s.hbm.mem.get (x - dst + src)) ∧
      (∀ dh src dst n host, i.kind = .copy false dh src dst n → ¬ clean src n → exec (.memoryDescriptorComplete i.id host) s = .next s) ∧
      (∀ dst n p host, i.kind = .fill dst n p → n % 8 = 0 → goes host dst n 0 n fun x => BitVec.ofNat 8 (p.toNat / 2 ^ (8 * ((x - dst) % 8)))) ∧
      (∀ base n host, i.kind = .wipe base n → goes host base n 0 0 fun _ => 0) ∧
      (∀ slot r m host, i.kind = .mirror slot r → r.src = .mirror m → ∃ t, exec (.memoryDescriptorComplete i.id host) s = .next t ∧
        (∀ x, t.hbm.mem.get x = if m ≤ x ∧ x < m + r.size then s.hbm.mem.get (x - m + r.base) else s.hbm.mem.get x) ∧
        t.regions = vset s.regions slot (some r) ∧ t.sites = s.sites ∧
        recordGiven s t (s.subs[i.h.sq]).cq (doneRec i.h 0 0 (some i.id))))

/-- R366, R362: fences; R294: routes; R298, R299: epochs. -/
def Obligations.FencesAndEpochs : Prop :=
  ∀ (s : State) (sq : RingId) (d : Desc),
    (offered s sq d → d.flagsOk = true →
      (d.opc = 8 → d.param < 512 → d.zeroFrom 1 = true → d.param / 16 % 16 ≤ 12 → stateCode s ∈ [3, 4, 5, 6] → launchOpen s = false →
        let c : Fin 16 := Fin.ofNat 16 d.param
        let row := d.param / 16 % 16
        let m := s.life.masks[c] ||| BitVec.ofNat 13 (2 ^ row)
        (siteFenced s c row = true → ∃ u, completes (.fence sq) s u sq d 0x40 (c.1 * 256 + (s.life.slide[c]).1) ∧ hostOnly s u) ∧
        (siteFenced s c row = false → maskExhausted m = true → d.param < 256 →
          ∃ u, completes (.fence sq) s u sq d 0x41 (c.1 * 256 + (s.life.slide[c]).1) ∧ hostOnly s u) ∧
        (siteFenced s c row = false → maskExhausted m = false ∨ 256 ≤ d.param →
          ∃ u, completes (.fence sq) s u sq d 0 (c.1 * 256 + (slideOf m).1) ∧ hostOnly { s with life := u.life } u ∧
            u.life.masks = vset s.life.masks c m ∧ u.life.slide = vset s.life.slide c (slideOf m) ∧
            u.life.state = if maskExhausted m = true ∧ stateCode s ∈ [3, 4] then some .degraded else s.life.state)) ∧
      (d.opc = 9 → d.param < 256 → d.zeroFrom 1 = true → d.param / 16 ≤ 12 → stateCode s ∈ [3, 4, 5, 6] → launchOpen s = false →
        siteFenced s (Fin.ofNat 16 d.param) (d.param / 16) = true →
        ∃ u, accepts (.reinstate sq) s u sq d (.reinstate (Fin.ofNat 208 d.param)) ∧ hostOnly s u) ∧
      (d.opc = 6 → d.param < 4 → d.zeroFrom 3 = true → stateCode s ∈ [3, 4, 5] →
        let e : Fin 2 := Fin.ofNat 2 d.param
        let loads (c : Instr) (r : Routes) : Prop := ∃ u, completes c s u sq d 0 0 ∧
          u.fabric = { s.fabric with routes := vset s.fabric.routes e r, fresh := vset s.fabric.fresh e true,
                                     inUse := some (s.fabric.inUse.getD e) } ∧
          hostOnly { s with fabric := u.fabric, align := { s.align with parent := u.align.parent },
                            life := { s.life with state := u.life.state } } u ∧
          u.life.state = if s.life.state = some .compute ∧ s.align.okDone = true then some .ready else s.life.state
        s.fabric.inUse ≠ some e → drainCount s e = 0 → (∀ o t, s.fabric.draining = some (o, t) → o ≠ e) →
          (s.life.locks.getLsbD 3 = true → (d.param < 2 ∨ d.zeroFrom 1 = true) → ∀ tab, ∃ u, completes (.routeLoad sq tab) s u sq d 0x22 0 ∧ hostOnly s u) ∧
          (s.life.locks.getLsbD 3 = false →
            (2 ≤ d.param → d.zeroFrom 1 = true → ∀ tab, loads (.routeLoad sq tab) .algo) ∧
            (d.param < 2 → d.word 2 = 65536 →
              (∀ es, tableOk s es = true → loads (.routeLoad sq (some es)) (.table es)) ∧
              (∀ es, tableOk s es = false → ∃ u, completes (.routeLoad sq (some es)) s u sq d 0x10 0 ∧ hostOnly s u) ∧
              ∃ u, completes (.routeLoad sq none) s u sq d 0x12 0 ∧ hostOnly s u))) ∧
      (d.opc = 7 → d.param < 2 → d.zeroFrom 2 = true → stateCode s ∈ [4, 5] → s.fabric.switch = none →
        s.fabric.fresh[(Fin.ofNat 2 d.param : Fin 2)] = true →
        ∃ u, accepts (.epochSwitch sq) s u sq d (.epochSwitch (Fin.ofNat 2 d.param) (d.word 1)) ∧
          hostOnly { s with fabric := { s.fabric with switch := some (Fin.ofNat 2 d.param, d.word 1), switchAt := d.word 1 } } u)) ∧
    (∀ i site pass, s.items.find? (fun j => match j.kind with | .reinstate _ => !j.closing | _ => false) = some i → i.kind = .reinstate site →
      let c : Fin 16 := Fin.ofNat 16 site.1
      let m := s.life.masks[c] &&& ~~~BitVec.ofNat 13 (2 ^ (site.1 / 16))
      let good := pass && !(s.power.domains[c]).lost
      ∃ t, exec (.reinstateBistDone pass) s = .next t ∧ hostOnly { s with life := t.life } t ∧
        (good = true → t.life.masks = vset s.life.masks c m ∧ t.life.slide = vset s.life.slide c (slideOf m)) ∧
        (good = false → t.life = s.life) ∧
        recordGiven s t (s.subs[i.h.sq]).cq
          (doneRec i.h (if good then 0 else 0x40) (c.1 * 256 + ((t.life.slide)[c]).1) (some i.id))) ∧
    (∀ e at_, s.fabric.switch = some (e, at_) →
      (s.tally.toNat < at_ → exec .epochSwitchEffect s = .next s) ∧
      (at_ ≤ s.tally.toNat → ∃ t, exec .epochSwitchEffect s = .next t ∧
        hostOnly { s with fabric := { s.fabric with inUse := some e, switch := none, draining := t.fabric.draining, links := t.fabric.links } } t ∧
        ((∀ k : LinkId, ∀ p ∈ (s.fabric.links[k]).txq, isOwn s p = true → p.epoch = e) → t.fabric.links = s.fabric.links) ∧
        (∀ k : LinkId, ∀ p ∈ (t.fabric.links[k]).txq, isOwn s p = true → p.epoch = e) ∧
        (∀ o, s.fabric.inUse = some o → o ≠ e → t.fabric.draining = some (o, at_)) ∧
        ∀ i, s.items.find? (fun j => decide (j.kind = .epochSwitch e at_ ∧ j.closing = false)) = some i →
          recordGiven s t (s.subs[i.h.sq]).cq (doneRec i.h 0 at_ (some i.id)))) ∧
    (∀ e at_, s.fabric.draining = some (e, at_) →
      (drainCount s e ≠ 0 ∨ s.tally.toNat < at_ + 524800 → exec .epochDrained s = .next s) ∧
      (drainCount s e = 0 → at_ + 524800 ≤ s.tally.toNat → ∃ t, exec .epochDrained s = .next t ∧
        hostOnly { s with fabric := { s.fabric with draining := none, fresh := vset s.fabric.fresh e false } } t))

/-- R385, R389: levels and timers; R305, R308: roles; R465: the trace; R257: QUIESCE. -/
def Obligations.LevelsRolesAndQuiesce : Prop :=
  ∀ (s : State) (sq : RingId) (d : Desc),
    (offered s sq d → d.flagsOk = true →
      (d.opc = 0xA → d.param < 16 → d.param % 8 ≤ 4 → d.zeroFrom 4 = true → stateCode s ∈ [3, 4, 5, 6] →
        let now := s.power.pendingTimers.getD s.power.timers
        let a := newTimer now.1 (d.word 1)
        let b := newTimer now.2.1 (d.word 2)
        let timers := (a, b, newTimer now.2.2 (d.word 3))
        timerOk 525 (d.word 1) = true → timerOk 105000 (d.word 2) = true → timerOk 52500000 (d.word 3) = true →
        a = 2 ^ 64 - 1 ∨ b = 2 ^ 64 - 1 ∨ a < b →
        (8 ≤ d.param → ∃ u, completes (.setLevel sq) s u sq d 0 0 ∧ hostOnly { s with power := u.power } u ∧
          u.power.level = s.power.level ∧ u.power.requested = s.power.requested ∧
          (if s.launchActive then u.power.pendingTimers = some timers ∧ u.power.timers = s.power.timers else u.power.timers = timers)) ∧
        (d.param < 8 → s.life.locks.getLsbD 2 = true → ∃ u, completes (.setLevel sq) s u sq d 0x22 0 ∧ hostOnly s u) ∧
        (d.param < 8 → s.life.locks.getLsbD 2 = false → ∃ t, exec (.setLevel sq) s = .next t ∧ hostOnly { s with power := t.power } t ∧
          t.nextItem = s.nextItem + 1 ∧
          (s.launchActive = true → t.power.level = s.power.level ∧ t.power.changing = s.power.changing ∧ t.power.pendingLevel = some (Fin.ofNat 5 d.param) ∧ t.power.requested = s.power.requested ∧
            t.power.pendingTimers = some timers) ∧
          (s.launchActive = false → t.power.timers = timers ∧ t.power.pendingLevel = none ∧ t.power.requested = Fin.ofNat 5 d.param ∧
            (s.power.changing ≠ none → t.power.changing = s.power.changing ∧ t.power.level = s.power.level) ∧
            (s.power.changing = none →
              let level := targetLevel { s with power := { s.power with requested := Fin.ofNat 5 d.param } }
              t.power.changing = (if s.power.level = level then none else some level) ∧ t.power.level = slower s.power.level level)))) ∧
      (d.opc = 0xF → d.param < 3 → d.word 1 < 2 ^ 15 → d.zeroFrom 3 = true → stateCode s ∈ [3, 4, 5] → launchOpen s = false →
        ∃ t, exec (.tallyAlign sq) s = .next t ∧ t.align.role = some (Fin.ofNat 3 d.param) ∧ t.align.grand = d.word 1 ∧
          t.align.initial = BitVec.ofNat 64 (d.word 2) ∧ t.align.begun = s.align.ticks ∧ t.align.refOut = decide (d.param = 1) ∧ t.nextItem = s.nextItem + 1 ∧
          t.align.aligned = decide (d.param = 1) ∧ t.align.okDone = decide (d.param = 1) ∧
          t.tally = (if d.param = 0 then s.tally else BitVec.ofNat 64 (d.word 2)) ∧
          t.cores = s.cores ∧ t.hbm = s.hbm ∧ t.sites = s.sites ∧ t.fabric = s.fabric) ∧
      (d.opc = 0x10 → d.param = 0 → d.word 3 < 2 ^ 29 → d.zeroFrom 4 = true → d.word 1 < 2 ^ 38 → stateCode s ∈ [3, 4, 5, 6] →
        ∃ t, exec (.traceCtlDisable sq) s = .next t ∧ t.trace.enabled = false ∧ t.trace.sink = s.trace.sink ∧
          t.trace.written = s.trace.written ∧ t.nextItem = s.nextItem + 1 ∧ hostOnly s t) ∧
      (d.opc = 0x12 → d.param = 0 → d.zeroFrom 1 = true → stateCode s ∈ [3, 4, 6] → s.life.quiescePending = false →
        ∃ t, exec (.quiesce sq) s = .next t ∧ hostOnly { s with life := t.life } t ∧
          t.life = (if launchOpen s then { s.life with quiescePending := true } else { s.life with state := some .quiesced })) ∧
      (d.opc = 0x12 → d.param = 1 → d.zeroFrom 1 = true → s.life.state = some .quiesced →
        ∃ u, completes (.quiesceLeave sq) s u sq d 0 0 ∧ hostOnly { s with life := u.life } u ∧
          u.life.state = some (if anyExhausted s then .degraded else if readyConditions s then .ready else .compute))) ∧
    (∀ l, s.power.changing = some l → ∃ t, exec .levelChangeComplete s = .next t ∧ t.power.settings = l ∧ t.cores = s.cores ∧
      t.hbm = s.hbm ∧ t.launch = s.launch ∧ t.life = s.life ∧
      (s.power.pendingLevel = none ∨ s.launchActive = true →
        t.power.level = slower l (targetLevel s) ∧ t.power.changing = if l = targetLevel s then none else some (targetLevel s))) ∧
    (s.power.changing = none → exec .levelChangeComplete s = .next s) ∧
    (∀ i, i ∈ s.items → i.kind = .tallyAlign → i.closing = false → s.align.begun + 1312500000 ≤ s.align.ticks →
      ∃ t, exec .tallyAlignTimeout s = .next t ∧ hostOnly { s with life := { s.life with failCode := 0x30 } } t) ∧
    (s.align.ticks < s.align.begun + 1312500000 → exec .tallyAlignTimeout s = .next s) ∧
    (s.trace.enabled = false → s.trace.draining = true → ∃ t, exec .traceDrainDone s = .next t ∧ t.trace.queue = [] ∧
      t.trace.draining = false ∧ t.trace.enabled = false ∧ t.cores = s.cores ∧ t.sites = s.sites)

/-- R29, R228: acceptance; R248, R189: the start; R44 to R46: the first issue; R218, R261: the completion. -/
def Obligations.LaunchesRun : Prop :=
  ∀ (s : State),
    (∀ sq d, offered s sq d → d.opc = 1 →
      ((s.subs[sq]).ty = 0 → launchHeld s d = false → firstFail (launchChecks s d) = none →
        ∃ u, accepts (.launch sq) s u sq d (.launch (launchOf s d)) ∧ hostOnly { s with cores := u.cores } u ∧
          ∀ c, u.core c = if ∃ x ∈ (launchOf s d).sections, x.th.core = c then
            { s.core c with idleSince := none, sleep := (s.core c).sleep.woken } else s.core c) ∧
      ((s.subs[sq]).ty = 1 → itemHeld s d = false → firstFail (itemChecks s d) = none →
        ∃ u, accepts (.backlogItem sq) s u sq d (.backlog d.param) ∧ hostOnly { s with bound := u.bound } u ∧
          ∃ b, u.bound = s.bound ++ [b] ∧ b.window = d.param ∧ b.arg = BitVec.ofNat 64 (d.word 2) ∧ b.h = headOf s sq d ∧
            (b.sections = none ↔ d.word 1 = 0))) ∧
    (∀ i d, nextLaunch s = some (i, d) → isAwake s = true → s.life.state ≠ some .halted →
      ∃ t l, exec .launchStart s = .next t ∧ t.launch = some l ∧ l.d = d ∧ l.h = i.h ∧ l.st = .starting ∧ l.exc = 0 ∧ l.halt = none ∧
        l.level = askedLevel s ∧ l.seq = (s.seq + 1) % 2 ^ 32 ∧ t.seq = l.seq ∧ t.hbm = { s.hbm with dev := t.hbm.dev } ∧
        (∀ k : Fin 2, t.hbm.dev[k] = devTables t (s.hbm.dev[k]).image) ∧ t.sites = s.sites ∧ t.red = s.red ∧
        (∀ b : Fin 256, t.bufs[b] = bufEntry0) ∧
        (∀ c, (t.core c).sendIx = 0 ∧ (∀ e : EventId, (t.core c).ev[e] = 0) ∧ (∀ q : Fin 32, (t.core c).tiles[q] = tile0) ∧
          (t.core c).fault = (s.core c).fault ∧ (t.core c).sleep = (s.core c).sleep) ∧
        (∀ x, d.sections.find? (fun y => decide (y.th = x.th)) = some x → (t.th x.th).st = .loading ∧
          (t.th x.th).stream = some x.stream ∧ (t.th x.th).pos = 0 ∧ (t.th x.th).regs.get 1 = d.arg ∧
          (t.th x.th).regs.get 2 = BitVec.ofNat 64 s.chipId ∧
          (t.th x.th).regs.get 3 = BitVec.ofNat 64 (coreRow x.th.core * 256 + (coreCol x.th.core).1) ∧
          (t.th x.th).regs.get 4 = BitVec.ofNat 64 x.th.t.1) ∧
        ∀ r, (∀ x ∈ d.sections, x.th ≠ r) → (t.th r).st = .absent) ∧
    (nextLaunch s = none → exec .launchStart s = .next s) ∧
    (∀ l, s.launch = some l → l.st = .starting ∨ l.st = .active → s.power.changing = none → isAwake s = true →
      (s.tally.toNat < l.d.start → exec .launchFirstIssue s = .next s) ∧
      (l.d.start ≤ s.tally.toNat → (∃ r, threadReady s r = true) → ∃ t l', exec .launchFirstIssue s = .next t ∧ t.launch = some l' ∧
        l'.st = .active ∧ l'.firstTick = some (l.firstTick.getD s.tally.toNat) ∧
        (let after := if l.d.start = 0 then 0 else ticksSince s l.d.start
         l'.late = (l.late || decide (0 < after)) ∧
         l'.lateTicks = if 0 < after then min (max l.lateTicks after) (2 ^ 32 - 1) else l.lateTicks) ∧
        (∀ r, (t.th r).st = (if threadReady s r then .running else (s.th r).st) ∧ (t.th r).regs = (s.th r).regs ∧
          (t.th r).pos = (s.th r).pos) ∧ t.hbm = s.hbm ∧ t.sites = s.sites)) ∧
    (∀ l ok, s.launch = some l → launchFinished s l = false → exec (.launchComplete ok) s = .next s) ∧
    (∀ l, s.launch = some l → launchFinished s l = true →
      (∀ ok, ∃ t, exec (.launchComplete ok) s = .next t ∧ t.launch = none ∧ t.hbm.mem = s.hbm.mem ∧
        t.sites = s.sites ∧ (∀ b : Fin 256, t.bufs[b] = bufEntry0) ∧ (l.d.backlog = true → t.bound = []) ∧ t.seq = s.seq ∧
        ∀ r, (t.th r).st = .absent) ∧
      (l.d.backlog = false → l.halt = none → ∃ t, exec (.launchComplete true) s = .next t ∧
        recordGiven s t (s.subs[l.h.sq]).cq (launchRecord s l)))

/-- R238 to R242: the set-up of rings. -/
def Obligations.RingSetUp : Prop :=
  ∀ (s : State) (n : RingId) (v : Word) (secure : Bool),
    let x := v.toNat
    let w := wakeChip s
    (barOpen s secure = false → ∀ line, exec (.sqEnableSet n v secure) s = .next s ∧ exec (.sqEnableClear n secure) s = .next s ∧
      exec (.cqEnableSet n v line secure) s = .next s ∧ exec (.cqEnableClear n secure) s = .next s) ∧
    (barOpen s secure = true → x % 2 = 1 → (s.subs[n]).enable = false → (s.subs[n]).active = false →
      let q : SubRing := { s.subs[n] with cq := Fin.ofNat 64 (x / 2 ^ 18), prio := Fin.ofNat 4 (x / 2 ^ 16), polled := x.testBit 13,
                                          ty := Fin.ofNat 4 (x / 2 ^ 11), log2 := x / 16 % 32 }
      let on : SubRing := { q with enable := true, headPos := 0, err := 0, stopped := false, tail := 0 }
      let good : Prop := q.ty.1 < 2 ∧ 6 ≤ q.log2 ∧ q.log2 ≤ 16
      (¬ good → exec (.sqEnableSet n v secure) s = .next w) ∧
      (good → (s.comps[q.cq]).telemetry = true ∨ (s.comps[q.cq]).active = false →
        exec (.sqEnableSet n v secure) s = .next { w with subs := vset s.subs n { q with err := 4 } }) ∧
      (good → (s.comps[q.cq]).telemetry = false → (s.comps[q.cq]).active = true → (s.subs[n]).lineReading = false →
        (ringServed s n = false → exec (.sqEnableSet n v secure) s = .next { w with subs := vset s.subs n on }) ∧
        (ringServed s n = true → polls s q.polled = true →
          exec (.sqEnableSet n v secure) s = .next { w with subs := vset s.subs n { on with active := true } }) ∧
        (ringServed s n = true → polls s q.polled = false → exec (.sqEnableSet n v secure) s =
          .next (({ w with subs := vset s.subs n { on with lineReading := true } }).emit (.lineRead on.db))))) ∧
    (barOpen s secure = true → (s.subs[n]).enable = true → exec (.sqEnableClear n secure) s =
      .next { w with subs := vset s.subs n { s.subs[n] with enable := false, active := false, lineHeld := false, lineReading := false,
                                                            lineAgain := false, fetching := 0, fetched := [] } }) ∧
    (∀ line, barOpen s secure = true → x % 2 = 1 → (s.comps[n]).enable = false → (s.comps[n]).active = false →
      (s.comps[n]).lineReading = false → 6 ≤ x / 16 % 32 → x / 16 % 32 ≤ 16 → ∃ t, exec (.cqEnableSet n v line secure) s = .next t ∧
        (∀ m, m ≠ n → m ≠ 0 → t.comps[m] = s.comps[m]) ∧ t.subs = s.subs ∧
        (let q := t.comps[n]
         q.enable = true ∧ q.base = (s.comps[n]).base ∧ q.hl = (s.comps[n]).hl ∧ q.vector = Fin.ofNat 64 (x / 2 ^ 16) ∧
          q.holdoff = x / 2 ^ 32 % 65536 ∧ q.irqAll = x.testBit 15 ∧ q.polled = x.testBit 13 ∧ q.log2 = x / 16 % 32 ∧ q.headSeen = (match line with
            | some h => if q.active && !polls s q.polled then h.toNat else 0
            | none => 0) ∧
          (q.telemetry = true ↔ x.testBit 14 = true ∧ ∀ m : RingId, m ≠ n → (s.comps[m]).telemetry = false) ∧
          (q.active = true ↔ ringServed s n = true ∧ (polls s q.polled = true ∨ line.isSome = true)) ∧
          (line.isSome = true ∨ polls s (x.testBit 13) = true ∨ ringServed s n = false → q.tailPos = 0 ∧ q.err = 0 ∧ q.dropped = 0 ∧ q.waiting = []))) ∧
    (barOpen s secure = true → (s.comps[n]).enable = true → ∃ u, exec (.cqEnableClear n secure) s = .next (pumpRings u) ∧ hostOnly w u ∧
      (u.comps[n]).enable = false ∧ (u.comps[n]).active = false ∧ (u.comps[n]).waiting = [] ∧
      (u.comps[n]).dropped = min ((s.comps[n]).dropped + (s.comps[n]).waiting.length) 0xFFFF ∧
      (∀ m, m ≠ n → u.comps[m] = s.comps[m]) ∧ u.subs = s.subs ∧ u.out = s.out)

/-- R242 to R245: the lines; R267: the holdoff. -/
def Obligations.LinesAndInterrupts : Prop :=
  ∀ (s : State) (n : RingId),
    let q := s.subs[n]
    let k := s.comps[n]
    let w := wakeChip s
    (polls s q.polled = false → q.stopped = false →
      (q.lineHeld = true → isAwake s = true → exec (.doorbellStore n) s =
        .next (({ s with subs := vset s.subs n { q with lineHeld := false, lineReading := true } }).emit (.lineRead q.db))) ∧
      (q.lineHeld = true → isAwake s = false → exec (.doorbellStore n) s =
        .next { w with subs := vset s.subs n { q with lineHeld := false, lineReading := true } }) ∧
      (q.lineHeld = false → q.lineReading = true → exec (.doorbellStore n) s =
        .next { w with subs := vset s.subs n { q with lineAgain := true } })) ∧
    (q.lineReading = true → isAwake s = true → 
      (∃ t, exec (.doorbellLineFill n none) s = .next t ∧ hostOnly s t ∧ (t.subs[n]).stopped = true ∧ (t.subs[n]).err = 2 ∧
        (t.subs[n]).active = false) ∧
      (∀ tail : BitVec 32,
        (2 ^ q.log2 < (tail.toNat + 2 ^ 32 - q.headPos % 2 ^ 32) % 2 ^ 32 → ∃ t, exec (.doorbellLineFill n (some tail)) s = .next t ∧
          hostOnly s t ∧ (t.subs[n]).stopped = true ∧ (t.subs[n]).err = 1 ∧ (t.subs[n]).headPos = q.headPos) ∧
        ((tail.toNat + 2 ^ 32 - q.headPos % 2 ^ 32) % 2 ^ 32 ≤ 2 ^ q.log2 → ∃ t, exec (.doorbellLineFill n (some tail)) s = .next t ∧
          hostOnly s t ∧ (t.subs[n]).tail = tail.toNat ∧ (t.subs[n]).active = true ∧ (t.subs[n]).headPos = q.headPos ∧
          (t.subs[n]).fetched = q.fetched ∧ (t.subs[n]).lineReading = q.lineAgain ∧
          ((t.subs[n]).lineHeld = true ↔ q.lineHeld = true ∨ q.lineAgain = false) ∧ (t.subs[n]).lineAgain = false))) ∧
    (0 < q.fetching → 
      (∃ t, exec (.descriptorFetchDone n none) s = .next t ∧ hostOnly s t ∧ (t.subs[n]).stopped = true ∧ (t.subs[n]).err = 2 ∧
        (t.subs[n]).fetched = []) ∧
      (∀ ds, ds.length = q.fetching → q.fetched = [] → (∀ d, ds.head? = some d → d.known q.ty = true) →
        ∃ t, exec (.descriptorFetchDone n (some ds)) s = .next t ∧ hostOnly s t ∧ (t.subs[n]).fetched = ds ∧
          (t.subs[n]).headPos = q.headPos ∧ (t.subs[n]).fetching = 0)) ∧
    (q.active = true → polls s q.polled = true → ∀ tail : BitVec 32, (tail.toNat + 2 ^ 32 - q.headPos % 2 ^ 32) % 2 ^ 32 ≤ 2 ^ q.log2 →
      ∃ t, exec (.ringPoll false n (some tail)) s = .next t ∧ (t.subs[n]).tail = tail.toNat ∧ (t.subs[n]).headPos = q.headPos ∧
        Output.lineRead q.db ∈ t.out.drop s.out.length ∧ t.comps = s.comps ∧ (t.power = s.power ∨ tail.toNat ≠ q.tail)) ∧
    (∀ line, q.active = false ∨ polls s q.polled = false → exec (.ringPoll false n line) s = .next s) ∧
    (∀ line, k.active = false ∨ polls s k.polled = false ∨ k.full = false → exec (.ringPoll true n line) s = .next s) ∧
    (let stops (c : Instr) (err : Nat) : Prop := ∃ t, exec c s = .next t ∧ hostOnly s t ∧ (t.comps[n]).stopped = true ∧
       (t.comps[n]).err = err ∧ (t.comps[n]).active = false ∧ (t.comps[n]).waiting = []
     let reads (c : Instr) (h : BitVec 32) : Prop := ∃ t, exec c s = .next t ∧ (t.comps[n]).headSeen = h.toNat ∧
       Output.lineRead k.hl ∈ t.out.drop s.out.length ∧ t.cores = s.cores ∧ t.hbm = s.hbm ∧
       (k.full = false ∨ ringFree { k with headSeen := h.toNat } ≤ ringFree k → t.power.chip = s.power.chip)
     (k.lineReading = true → stops (.headLineStore n (.line none)) 2 ∧ ∀ h : BitVec 32, exec (.headLineStore n (.line (some h))) s =
       .next { s with comps := vset s.comps n { k with active := true, headSeen := h.toNat, lineHeld := true, lineReading := false } }) ∧
     (k.active = true → stops (.headLineStore n .writeError) 3 ∧
       (polls s k.polled = true → k.full = true → stops (.ringPoll true n none) 2 ∧ ∀ h, reads (.ringPoll true n (some h)) h) ∧
       (k.lineReading = false → k.lineHeld = true → stops (.headLineStore n (.line none)) 2 ∧
         ∀ h, reads (.headLineStore n (.line (some h))) h)) ∧
     (k.active = false → exec (.headLineStore n .writeError) s = .next s ∧
       (k.lineReading = false → ∀ x, exec (.headLineStore n (.line x)) s = .next s))) ∧
    (∀ vec : Fin 64, 
      ((s.msix[vec]).owed = true → (s.msix[vec]).holdTill ≤ s.tally.toNat → (s.msix[vec]).ctrl.getLsbD 0 = false →
        exec (.msixHoldoffExpire vec) s = .next (({ s with msix := vset s.msix vec { s.msix[vec] with
          pend := false, owed := false, holdTill := s.tally.toNat + 64 * (s.msix[vec]).gap } }).emit (.msix vec))) ∧
      ((s.msix[vec]).owed = false ∨ s.tally.toNat < (s.msix[vec]).holdTill → exec (.msixHoldoffExpire vec) s = .next s))

/-- R268 to R270. -/
def Obligations.HdmWindow : Prop :=
  ∀ (s : State) (secure : Bool), memoriesWf s →
    (∀ v : Word, barOpen s secure = true → v.toNat % 2 = 1 →
      (0 < v.toNat / 2 ^ 40 % 512 → v.toNat / 2 ^ 40 % 512 ≤ 256 → exec (.hdmMapEnable v secure) s =
        .next { wakeChip s with hdmSize := v.toNat / 2 ^ 40 % 512, hdmBase := v.toNat / 2 ^ 28 % 1024,
                                hdmOn := windowCovered s (v.toNat / 2 ^ 28 % 1024 * 2 ^ 28) (v.toNat / 2 ^ 40 % 512 * 2 ^ 28) }) ∧
      (v.toNat / 2 ^ 40 % 512 = 0 ∨ 256 < v.toNat / 2 ^ 40 % 512 → exec (.hdmMapEnable v secure) s = .next (wakeChip s))) ∧
    (∀ v : Word, barOpen s secure = false ∨ v.toNat % 2 = 0 → exec (.hdmMapEnable v secure) s = .next s) ∧
    (∀ off, windowAddr s (off / 64 * 64) 64 secure = none →
      exec (.hdmRead off secure) s = .next (s.emit (.memData (List.replicate 64 0)))) ∧
    (∀ off data, windowAddr s off data.length secure = none → exec (.hdmWrite off data secure) s = .next s) ∧
    (∀ off, s.hdmOn = true → s.hdmDecoder = true → (secure = true ∨ s.sec.policy.getLsbD 1 = false) →
      off / 64 * 64 + 64 ≤ s.hdmSize * 2 ^ 28 →
      let a := s.hdmBase * 2 ^ 28 + off / 64 * 64
      (a ∉ s.hbm.bad → ∃ t, exec (.hdmRead off secure) s = .next t ∧ t.out = s.out ++ [.memData (s.hbm.mem.read a 64)] ∧ t.hbm = s.hbm ∧
        (s.launchActive = true → ∃ l l', s.launch = some l ∧ t.launch = some l' ∧ l'.exc = l.exc ||| 128) ∧
        (s.counting = true → t.ctrs.hdmAccesses = sat64 s.ctrs.hdmAccesses 1) ∧ t.cores = s.cores ∧ t.sites = s.sites) ∧
      (a ∈ s.hbm.bad → (∀ o, (otherCopy s a).map (·.1) = some o → o ∈ s.hbm.bad) → ∃ t, exec (.hdmRead off secure) s = .next t ∧
        t.hbm = s.hbm ∧ t.out.getLast? = some (.memData (List.replicate 64 0)) ∧ t.cores = s.cores ∧ t.sites = s.sites) ∧
      (∀ o, a ∈ s.hbm.bad → (otherCopy s a).map (·.1) = some o → o ∉ s.hbm.bad → ∃ t, exec (.hdmRead off secure) s = .next t ∧
        t.out = s.out ++ [.memData (s.hbm.mem.read o 64)] ∧ t.hbm.mem.read a 64 = s.hbm.mem.read o 64 ∧ a ∉ t.hbm.bad ∧
        t.cores = s.cores ∧ t.sites = s.sites)) ∧
    (∀ off data, s.hdmOn = true → s.hdmDecoder = true → (secure = true ∨ s.sec.policy.getLsbD 1 = false) → off % 64 + data.length ≤ 64 →
      off + data.length ≤ s.hdmSize * 2 ^ 28 →
      let a := s.hdmBase * 2 ^ 28 + off
      let at_ := a / 64 * 64
      (data.length < 64 → at_ ∈ s.hbm.bad → (∀ o, (otherCopy s at_).map (·.1) = some o → o ∈ s.hbm.bad) →
        ∃ t, exec (.hdmWrite off data secure) s = .next t ∧ t.hbm = s.hbm ∧ t.cores = s.cores ∧ t.sites = s.sites) ∧
      (∀ o, data.length < 64 → at_ ∈ s.hbm.bad → (otherCopy s at_).map (·.1) = some o → o ∉ s.hbm.bad →
        ∃ t, exec (.hdmWrite off data secure) s = .next t ∧ at_ ∉ t.hbm.bad ∧ t.cores = s.cores ∧ t.sites = s.sites ∧
          ∀ x, (∀ p ∈ mirrorParts s a data.length, ¬ (p.2.1 ≤ x ∧ x < p.2.1 + p.2.2)) →
            t.hbm.mem.get x = if a ≤ x ∧ x < a + data.length then data.getD (x - a) 0
              else if at_ ≤ x ∧ x < at_ + 64 then s.hbm.mem.get (x - at_ + o) else s.hbm.mem.get x) ∧
      (data.length = 64 ∨ a / 64 * 64 ∉ s.hbm.bad → ∃ t, exec (.hdmWrite off data secure) s = .next t ∧
        (∀ x, (∀ p ∈ mirrorParts s a data.length, ¬ (p.2.1 ≤ x ∧ x < p.2.1 + p.2.2)) →
          t.hbm.mem.get x = if a ≤ x ∧ x < a + data.length then data.getD (x - a) 0 else s.hbm.mem.get x) ∧
        (∀ p, mirrorParts s a data.length = [p] → ∀ x, p.2.1 ≤ x → x < p.2.1 + p.2.2 →
          t.hbm.mem.get x = data.getD (x - p.2.1 + p.1 - a) 0) ∧
        (s.launchActive = true → ∃ l l', s.launch = some l ∧ t.launch = some l' ∧ l'.exc = l.exc ||| 128) ∧
        t.cores = s.cores ∧ t.sites = s.sites))

/-- R473: forms of access; R483, R485, R470, R244, R452, R487, R428: the registers. -/
def Obligations.RegisterWrites : Prop :=
  ∀ (s : State) (v : Word) (secure : Bool),
    let x := v.toNat
    let w := wakeChip s
    let f := fabIdOf x
    let to_ (c : Instr) (u : State) : Prop := ∃ t, exec c s = .next t ∧ hostOnly u t
    (barOpen s secure = false → ∀ core off size, exec (.fabIdWrite v secure) s = .next s ∧ exec (.locksWrite v secure) s = .next s ∧
      exec (.scrubCtlWrite v secure) s = .next s ∧ exec (.telCtlWrite v secure) s = .next s ∧
      exec (.faultInfoClear core secure) s = .next s ∧ exec (.registerWrite off size v secure) s = .next s) ∧
    (barOpen s secure = true →
      (s.life.locks.getLsbD 3 = true ∨ launchOpen s = true ∨ f.dx ≤ f.x ∨ f.dy ≤ f.y ∨ f.dz ≤ f.z ∨ f = s.fabric.fabId → to_ (.fabIdWrite v secure) w) ∧
      (s.life.locks.getLsbD 3 = false → launchOpen s = false → f.x < f.dx → f.y < f.dy → f.z < f.dz → f ≠ s.fabric.fabId →
        (s.fabric.fabId.written = false → to_ (.fabIdWrite v secure) { w with fabric := { s.fabric with fabId := f } }) ∧
        (s.fabric.fabId.written = true → ∃ t, exec (.fabIdWrite v secure) s = .next t ∧ t.fabric.fabId = f ∧
          (∀ l : LinkId, (t.fabric.links[l]).st = .down) ∧ hostOnly { w with fabric := t.fabric, align := t.align } t)) ∧
      (∃ t, exec (.locksWrite v secure) s = .next t ∧ t.life.locks = s.life.locks ||| BitVec.ofNat 6 x ∧
        t.sec.debugOpen = (s.sec.debugOpen && (s.life.locks.getLsbD 1 || !x.testBit 1)) ∧
        t.trace.enabled = (s.trace.enabled && (s.life.locks.getLsbD 5 || !x.testBit 5)) ∧
        hostOnly { w with life := { s.life with locks := t.life.locks }, sec := { s.sec with debugOpen := t.sec.debugOpen } } t) ∧
      to_ (.scrubCtlWrite v secure)
        { w with hbm := if 1 ≤ x % 256 ∧ x % 256 ≤ 168 then { s.hbm with scrubHours := x % 256 } else s.hbm } ∧
      to_ (.telCtlWrite v secure)
        { w with obs := if x % 2 ^ 32 = 0 ∨ (52500 ≤ x % 2 ^ 32 ∧ x % 2 ^ 32 ≤ 525000000) then
            { s.obs with telPeriod := x % 2 ^ 32, telLast := s.tally.toNat } else s.obs } ∧
      (∀ core, ∃ t, exec (.faultInfoClear core secure) s = .next t ∧ (t.core core).fault = { (s.core core).fault with valid := false } ∧
        (∀ c, c ≠ core → t.core c = s.core c) ∧ t.core core = { s.core core with fault := (t.core core).fault } ∧
        hostOnly { w with cores := t.cores } t) ∧
      (∀ off size, (size ≠ 8 ∨ off % 8 ≠ 0) → (size ≠ 4 ∨ off % 4 ≠ 0) → exec (.registerWrite off size v secure) s = .next w) ∧
      to_ (.registerWrite 0x10000 8 v secure)
        { w with hifPoll := if 525 ≤ x % 2 ^ 20 ∧ x % 2 ^ 20 ≤ 525000 then x % 2 ^ 20 else s.hifPoll } ∧
      (s.hdmBase < 1024 → s.hdmSize ≤ 256 →
        let base := s.hdmBase / 16 * 16 + x / 2 ^ 28 % 16
        to_ (.registerWrite 0x10008 4 v secure) { w with
          hdmBase := base
          hdmOn := x.testBit 0 && decide (s.hdmSize ≠ 0) && windowCovered s (base * 2 ^ 28) (s.hdmSize * 2 ^ 28) }) ∧
      to_ (.registerWrite 0x1010 8 v secure)
        { w with sec := if s.life.locks.getLsbD 0 then s.sec else { s.sec with policy := BitVec.ofNat 3 x } } ∧
      to_ (.registerWrite 0x6000 8 v secure)
        { w with obs := { s.obs with shadow := x.testBit 25, core := x / 2 ^ 16 % 256, ctrId := x % 65536 } })

/-- R459, R474: the latches; R475, R502: the ports; R503: UART_RX. -/
def Obligations.LatchesAndSideband : Prop :=
  ∀ (s : State) (port : Fin 2),
    (∀ secure, barOpen s secure = true →
      (∀ half, half = .whole ∨ half = .low → ∃ t, exec (.ctrDataRead half secure) s = .next t ∧
        (sampleCounter s s.obs.shadow s.obs.core s.obs.ctrId = none → t.obs.data = 0 ∧ t.obs.tag = 0xFFFFFFFF) ∧
        (∀ n tag, sampleCounter s s.obs.shadow s.obs.core s.obs.ctrId = some (n, tag) → t.obs.data = BitVec.ofNat 64 n ∧ t.obs.tag = tag) ∧
        t = { s with obs := { s.obs with data := t.obs.data, tag := t.obs.tag },
                     out := s.out ++ [.readData (if half = .whole then t.obs.data else BitVec.ofNat 64 (t.obs.data.toNat % 2 ^ 32))] }) ∧
      exec (.ctrDataRead .high secure) s = .next (s.emit (.readData (BitVec.ofNat 64 (s.obs.data.toNat / 2 ^ 32)))) ∧
      exec (.tallyNowRead .whole secure) s = .next ({ s with obs := { s.obs with tallyNow := s.tally } }.emit (.readData s.tally)) ∧
      exec (.tallyNowRead .low secure) s = .next ({ s with obs := { s.obs with tallyNow := s.tally } }.emit
        (.readData (BitVec.ofNat 64 (s.tally.toNat % 2 ^ 32)))) ∧
      exec (.tallyNowRead .high secure) s = .next (s.emit (.readData (BitVec.ofNat 64 (s.obs.tallyNow.toNat / 2 ^ 32))))) ∧
    (∀ half secure, barOpen s secure = false → exec (.ctrDataRead half secure) s = .next s ∧ exec (.tallyNowRead half secure) s = .next s) ∧
    (∀ bytes ok, ok = true ∨ (s.side[port]).i3c ≠ none →
      (∀ off n, off < 65536 → off % 8 = 0 → n < 2 ^ 64 → bytes = toBytes 2 off ++ toBytes 8 n → exec (.smbWrite port bytes ok) s =
        .next (writeReg (wakeChip s) { mb := 1, off := off, all := n, bits := n, low := true, high := true })) ∧
      (∀ off, off < 65536 → bytes = toBytes 2 off → exec (.smbAddress port bytes ok) s =
        .next { wakeChip s with side := vset s.side port { s.side[port] with readOff := off } }) ∧
      (bytes.length ≠ 10 → exec (.smbWrite port bytes ok) s = .next s) ∧
      (bytes.length ≠ 2 → exec (.smbAddress port bytes ok) s = .next s)) ∧
    (∀ bytes, (s.side[port]).i3c = none → exec (.smbWrite port bytes false) s = .next s ∧ exec (.smbAddress port bytes false) s = .next s) ∧
    ((s.side[port]).readOff < 65536 → ∃ t, exec (.smbRead port) s = .next t ∧
      t.side = vset s.side port { s.side[port] with readOff := ((s.side[port]).readOff + 8) % 65536 } ∧
      t = { wakeChip s with side := t.side, obs := t.obs, out := t.out } ∧
      ((s.side[port]).readOff ≠ 0x6008 → (s.side[port]).readOff ≠ 0x3008 → t.obs = s.obs ∧
        t.out = s.out ++ [.readData (BitVec.ofNat 64 (regAt (wakeChip s) 1 (s.side[port]).readOff))])) ∧
    (∀ addr, exec (.i3cAddressAssign port addr) s = .next { s with side := vset s.side port { s.side[port] with i3c := some addr } }) ∧
    (∀ b, exec (.uartRxInput b) s = .next (if lifecycle s = 0 then { s with sec := { s.sec with uartRx := s.sec.uartRx ++ [b] } } else s))

/-- R489, R435, R10. -/
def Obligations.MailboxRequests : Prop :=
  ∀ (s : State) (mb : Fin 2) (secure : Bool),
    let m := s.sec.mail[mb]
    let w := wakeChip s
    let mails (t : State) : Prop := ∀ o : Fin 2, o ≠ mb → t.sec.mail[o] = s.sec.mail[o]
    (mb = 1 ∨ barOpen s secure = true →
      (∀ v : Word, v.toNat % 2 = 1 → m.busy = true → exec (.mbSubmit mb v secure) s = .next w) ∧
      (∀ v : Word, v.toNat % 2 = 1 → m.busy = false →
        let n := v.toNat / 2 ^ 32 % 2 ^ 14
        (8 ≤ n → n ≤ 8192 → ∃ t, exec (.mbSubmit mb v secure) s = .next t ∧ t = { w with sec := t.sec } ∧ mails t ∧
          t.sec = { s.sec with mail := t.sec.mail, queue := s.sec.queue ++ [mb] } ∧
          t.sec.mail[mb] = { m with reqLen := n, busy := true, done := false, answer := none,
                                    current := some ((m.req ++ List.replicate n 0).take n) }) ∧
        (n < 8 ∨ 8192 < n → ∃ t, exec (.mbSubmit mb v secure) s = .next t ∧ hostOnly { w with sec := t.sec } t ∧ mails t ∧
          t.sec = { s.sec with mail := t.sec.mail } ∧
          t.sec.mail[mb] = { m with reqLen := n, status := 0x10, done := true, respLen := 0, resp := [] })) ∧
      exec (.mbDoneClear mb false secure) s =
        .next { w with sec := { s.sec with mail := vset s.sec.mail mb { m with done := false } } } ∧
      exec (.mbDoneClear mb true secure) s = .next w) ∧
    (s.sec.queue.head? = some mb →
      (∀ st bs, m.answer = some (st, bs) → ∃ t, exec (.mbResponse mb) s = .next t ∧ hostOnly { s with sec := t.sec } t ∧ mails t ∧
        t.sec = { s.sec with mail := t.sec.mail, queue := s.sec.queue.drop 1 } ∧
        t.sec.mail[mb] = { m with busy := false, done := true, status := st, respLen := bs.length, resp := bs, current := none, answer := none }) ∧
      (∀ bs, m.answer = none → m.current = some bs → s.sec.enclaveUp = true → reqCode bs ∉ reqCodes →
        ∃ t, exec (.mbResponse mb) s = .next t ∧ t.sec.queue = s.sec.queue.drop 1 ∧ (t.sec.mail[mb]).status = 0x10 ∧
          (t.sec.mail[mb]).done = true ∧ (t.sec.mail[mb]).busy = false ∧ (t.sec.mail[mb]).respLen = 0)) ∧
    (s.sec.queue.head? ≠ some mb → exec (.mbResponse mb) s = .next s)

/-- Table 16.1: the requests without authorisation; R434: the error state. -/
def Obligations.PlainRequests : Prop :=
  ∀ (s : State) (mb : Fin 2) (bs : List Byte),
    (∀ random key a b, random.length = 32 → key.length = 32 → ∀ row ∈ requestTable random key a b, served s mb row.2 bs →
      s.sec.error = true → replies (row.1 mb) s s mb 0x60 []) ∧
    (s.sec.error = false →
      let fresh (r : List Byte) : State := modMail s mb fun m => { m with nonce := some r }
      (plainParams bs = some [] →
        (served s mb 0x01 bs → ∀ r, r.length = 32 → replies (.getNonce mb r) s (fresh r) mb 0 r) ∧
        (served s mb 0x20 bs → ∀ r, r.length = 32 →
          (s.life.locks.getLsbD 1 = true → replies (.debugChallenge mb r) s s mb 0x60 []) ∧
          (s.life.locks.getLsbD 1 = false → replies (.debugChallenge mb r) s (fresh r) mb 0 r)) ∧
        (served s mb 0x02 bs →
          (∀ k, s.sec.idKey = some k → lifecycle s ≠ 0 → lifecycle s ≠ 4 → replies (.getIdentity mb) s s mb 0 (k ++ shake256 k 48)) ∧
          (s.sec.idKey = none ∨ lifecycle s = 0 ∨ lifecycle s = 4 → replies (.getIdentity mb) s s mb 0x21 [])) ∧
        (served s mb 0x30 bs → ∃ u, replies (.zeroise mb) s u mb 0 [] ∧ zeroised s u ∧ u.sec.error = true) ∧
        (served s mb 0x31 bs → replies (.selfTest mb true) s s mb 0 [] ∧
          ∃ u, replies (.selfTest mb false) s u mb 0x60 [] ∧ zeroised s u ∧ u.sec.error = true ∧ u.sec.tested = false ∧
            u.sec.errors = s.sec.errors + 1)) ∧
      (plainParams bs ≠ some [] →
        (served s mb 0x01 bs → ∀ r, r.length = 32 → replies (.getNonce mb r) s s mb 0x10 []) ∧
        (served s mb 0x30 bs → replies (.zeroise mb) s s mb 0x10 [])) ∧
      (∀ off total data ok, off < 2 ^ 32 → total < 2 ^ 32 → plainParams bs = some (toBytes 4 off ++ toBytes 4 total ++ data) → served s mb 0x03 bs →
        let before := if off = 0 then [] else s.sec.chainPart
        data.length ≤ 4096 → total ≤ 16384 → off + data.length ≤ total → before.length = off → (off = 0 ∨ total = s.sec.chainLen) →
        (s.life.locks.getLsbD 0 = true → replies (.certLoad mb ok) s s mb 0x22 []) ∧
        (s.life.locks.getLsbD 0 = false →
          (off + data.length < total → replies (.certLoad mb ok) s
            { s with sec := { s.sec with chainPart := before ++ data, chainLen := total } } mb 0 []) ∧
          (off + data.length = total → s.sec.idKey.isSome = true → replies (.certLoad mb true) s
            { s with sec := { s.sec with chainPart := [], chainLen := 0, chain := before ++ data } } mb 0 []) ∧
          (off + data.length = total → replies (.certLoad mb false) s
            { s with sec := { s.sec with chainPart := [], chainLen := 0 } } mb 0x60 [])))) ∧
    exec (.nonceExpire mb) s = .next (modMail s mb fun m => { m with nonce := none })

/-- R437: the checks; R420 to R422, R425, R426, R448: what each request does. -/
def Obligations.AuthorisedRequests : Prop :=
  ∀ (s : State) (mb : Fin 2) (bs ps : List Byte) (sigOk good : Bool), memoriesWf s → s.sec.error = false → authParams bs = some ps →
    let used : State := if (s.sec.mail[mb]).nonce = some (part bs 8 32) then modMail s mb fun m => { m with nonce := none } else s
    let f := ofBytes (part ps 0 1)
    let v := ofBytes (part ps 1 1)
    let lc := lifecycle s
    let passes (refused : Bool) (who : Option (Fin 2)) : Prop := firstFail (authChecks s mb bs true refused who sigOk) = none
    (served s mb 0x10 bs → otpParamsOk ps = true →
      let who := if f = 0 then moveAuthority lc v else otpAuthority f lc
      (∀ st, firstFail (authChecks s mb bs true (s.life.locks.getLsbD 4) who sigOk) = some st → replies (.otpProgram mb sigOk good) s used mb st []) ∧
      (passes (s.life.locks.getLsbD 4) who →
        (f = 1 → ∀ img, s.life.image = some img → otpVersion s < v → v ≤ img.version → v ≤ 128 →
          ∃ u, replies (.otpProgram mb sigOk good) s u mb 0 [] ∧ u = { used with sec := { used.sec with otp := u.sec.otp } } ∧
            otpVersion u = v ∧ ∀ a, a < 0x10 ∨ 0x40 ≤ a → u.sec.otp.get a = s.sec.otp.get a) ∧
        (2 ≤ f → freeSlot s.sec.otp f = none → replies (.otpProgram mb sigOk good) s used mb 0x60 []) ∧
        (∀ off n k, slotField f = some (off, n) → freeSlot s.sec.otp f = some k →
          ∃ u, replies (.otpProgram mb sigOk good) s u mb (if good then 0 else 0x60) [] ∧
            u = { used with sec := { used.sec with otp := u.sec.otp }, power := { used.power with trims := u.power.trims } } ∧
            (if s.launchActive then u.power.trims = s.power.trims else ∀ c : Fin 16, u.power.trims[c] = trimOf u c.1) ∧ slotProgrammed u.sec.otp off n k = true ∧
            (∀ i, i < n - 8 → u.sec.otp.get (off + n * k + i) = s.sec.otp.get (off + n * k + i) ||| ps.getD (8 + i) 0) ∧
            ∀ a, a < off + n * k ∨ off + n * k + n ≤ a → u.sec.otp.get a = s.sec.otp.get a))) ∧
    (served s mb 0x11 bs → ps.length = (if f = 2 then 56 else 8) →
      let refused := s.life.locks.getLsbD 4 || launchOpen s
      (∀ st, firstFail (authChecks s mb bs true refused (moveAuthority lc f) sigOk) = some st →
        replies (.lifecycleMove mb sigOk good) s used mb st []) ∧
      (passes refused (moveAuthority lc f) → (lc = 0 → f = 1 → otpLacking s 1 = false) → (f = 2 → freeSlot s.sec.otp 3 = some 0 ∧ good = true) →
        ∃ u, replies (.lifecycleMove mb sigOk good) s u mb 0 [] ∧ lifecycle u = f ∧ u.life.state = some .halted ∧ u.hbm.mem = [] ∧
          (∀ i : SiteId, (u.sites[i]).bench = []) ∧ u.sec.idKey = none ∧ u.sec.sessions = [] ∧ u.sec.drbg = [] ∧
          u.sec.ide = Vector.replicate 4 ideStream0 ∧ u.sec.debugOpen = false)) ∧
    (served s mb 0x21 bs → ps = [] →
      (∀ st, firstFail (authChecks s mb bs true (s.life.locks.getLsbD 1) (debugAuthority lc) sigOk) = some st →
        replies (.debugUnlock mb sigOk) s used mb st []) ∧
      (passes (s.life.locks.getLsbD 1) (debugAuthority lc) → replies (.debugUnlock mb sigOk) s
        { used with sec := { used.sec with ide := Vector.replicate 4 ideStream0, sessions := [], debugOpen := true,
                                           debugBy := some (reqSigner bs) } } mb 0 []))

/-- R433, R434, R432: tests and errors; R442, R444: SPDM and IDE; R447: entropy; R405, R439: firmware. -/
def Obligations.EnclaveAndFirmware : Prop :=
  ∀ (s : State),
    (∀ key : List Byte, key.length = 1952 → s.sec.enclaveUp = false →
      exec (.enclaveSelfTests true key) s = .next { s with
        sec := { s.sec with
          enclaveUp := true, tested := true,
          idKey := if 1 ≤ lifecycle s ∧ lifecycle s ≤ 3 ∧ (activeSlot s.sec.otp 6).isSome = true then some key else none } } ∧
      ∃ t, exec (.enclaveSelfTests false key) s = .next t ∧ zeroised s t ∧ t.sec.error = true ∧ t.sec.enclaveUp = true) ∧
    (s.sec.enclaveUp = true → s.sec.error = false → ∀ c, c = .enclaveErrorState ∨ c = .enclaveEnvFault →
      ∃ t, exec c s = .next t ∧ zeroised s t ∧ t.sec.error = true ∧ t.sec.errors = s.sec.errors + 1 ∧ t.sec.tested = false) ∧
    (∀ v, s.sec.enclaveUp = true → s.sec.error = false → 
      (s.sec.drbg.length < 2048 → exec (.entropyBufferRefill v) s = .next { s with sec := { s.sec with drbg := s.sec.drbg ++ [v] } }) ∧
      (2048 ≤ s.sec.drbg.length → exec (.entropyBufferRefill v) s = .next s)) ∧
    (s.life.state.isSome = true → s.sec.enclaveUp = true →
      (s.sec.error = true → ∀ req, exec (.spdmRequest req) s = .next (s.emit (.spdm .error))) ∧
      (s.sec.error = false →
        (∀ offers, exec (.spdmRequest (.negotiate offers)) s = .next (s.emit (.spdm (if offers then .algorithms else .error)))) ∧
        (∀ i, 1 ≤ i → i ≤ 7 → ∀ sec, sec = true ∨ s.sec.policy.getLsbD 2 = false → exec (.spdmRequest (.measurements sec i)) s =
          .next (s.emit (.spdm (.measurements [(i, measurement s i)])))) ∧
        (∀ id, s.sec.idKey.isSome = true → s.sec.sessions.length < 4 → (∀ x ∈ s.sec.sessions, x.1 ≠ id) →
          exec (.spdmRequest (.keyExchange id)) s =
            .next ({ s with sec := { s.sec with sessions := s.sec.sessions ++ [(id, false)] } }.emit (.spdm (.session id)))) ∧
        (∀ id, 4 ≤ s.sec.sessions.length → exec (.spdmRequest (.keyExchange id)) s = .next (s.emit (.spdm .error))) ∧
        (∀ id, (id, true) ∈ s.sec.sessions → ∃ t, exec (.spdmRequest (.endSession id)) s = .next t ∧ t.out = s.out ++ [.spdm (.ended id)] ∧
          (∀ x, x ∈ t.sec.sessions ↔ x ∈ s.sec.sessions ∧ x.1 ≠ id) ∧
          (∀ i : Fin 4, t.sec.ide[i] = if (s.sec.ide[i]).session = some id then ideStream0 else s.sec.ide[i])))) ∧
    (∀ id (stream : Fin 4) (set : Fin 2), (id, true) ∈ s.sec.sessions → s.sec.error = false →
      let x := s.sec.ide[stream]
      let allowed : Prop := s.life.locks.getLsbD 0 = false ∨ (x.secure = true ∧ x.active ≠ some set)
      (allowed → ∀ rx, exec (.ideKmKeyProg id stream set rx) s = .next { s with sec := { s.sec with ide := vset s.sec.ide stream { x with
        session := some id, sets := vset x.sets set (if rx then { x.sets[set] with rx := true } else { x.sets[set] with tx := true }) } } }) ∧
      (allowed → (x.sets[set]).rx = true → (x.sets[set]).tx = true → exec (.ideKmKSetGo id stream set) s =
        .next { s with sec := { s.sec with ide := vset s.sec.ide stream { x with active := some set, secure := true } } }) ∧
      (¬ allowed → (∀ rx, exec (.ideKmKeyProg id stream set rx) s = .next s) ∧ exec (.ideKmKSetGo id stream set) s = .next s)) ∧
    (∀ stream : Fin 4, (s.sec.ide[stream]).secure = true → exec (.ideIntegrityFail stream) s =
      .next ({ s with sec := { s.sec with ide := vset s.sec.ide stream ideStream0 } }.emit (.aer stream))) ∧
    (∀ sq d img, offered s sq d → d.flagsOk = true → d.opc = 5 → d.param = 0 → d.zeroFrom 3 = true → d.word 1 % 4096 = 0 →
      d.word 2 % 4096 = 0 → 4096 ≤ d.word 2 → d.word 2 ≤ 67108864 → s.life.state = some .safe → s.life.staged = none →
      s.life.image = none → s.power.colRails = true → 
      (lifecycle s = 4 ∨ otpLacking s (lifecycle s) = true → ∃ u, completes (.fwLoad sq none) s u sq d 0x60 0 ∧ hostOnly s u) ∧
      (lifecycle s ≠ 4 → otpLacking s (lifecycle s) = false →
        (∃ u, completes (.fwLoad sq none) s u sq d 0x12 0 ∧ hostOnly { s with sites := u.sites } u) ∧
        (img.length = d.word 2 → ∃ u, accepts (.fwLoad sq (some img)) s u sq d .fwLoad ∧ u.life.staged = some (d.word 2) ∧
          hostOnly { s with sites := u.sites, life := { s.life with staged := some (d.word 2) } } u ∧
          stagedBytes u (d.word 2) = img ∧ ∀ i : SiteId, 64 ≤ i.1 → u.sites[i] = s.sites[i]))) ∧
    (∀ n i vOk oOk, s.life.staged = some n → s.items.find? (fun j => decide (j.kind = .fwLoad ∧ j.closing = false)) = some i →
      s.sec.enclaveUp = true →
      let bs := stagedBytes s n
      let code := verifyImage s bs vOk oOk
      (code = 0 → ∃ t, exec (.fwVerifyDone vOk oOk) s = .next t ∧ t.life.staged = none ∧
        t.life.image = some ⟨bs, shake256 (bs.take 0x60) 64, ofBytes (part bs 8 4)⟩ ∧ t.life.state = s.life.state ∧
        hostOnly { s with life := t.life } t ∧
        recordGiven s t (s.subs[i.h.sq]).cq (doneRec i.h 0 (ofBytes (part bs 8 4)) (some i.id))) ∧
      (code ≠ 0 → ∃ t, exec (.fwVerifyDone vOk oOk) s = .next t ∧ t.life = { s.life with staged := none, failCode := code } ∧
        (∀ j : SiteId, j.1 < 64 → (t.sites[j]).bench = []) ∧ hostOnly { s with life := t.life, sites := t.sites } t ∧
        recordGiven s t (s.subs[i.h.sq]).cq (doneRec i.h 0x60 0 (some i.id))))

/-- R273, R274, R277: training; R284, R287: credits and resending; R279: discards. -/
def Obligations.LinksWork : Prop :=
  ∀ (s : State) (l : LinkId),
    let k := s.fabric.links[l]
    let up : Prop := k.st = .up ∨ k.st = .miswired
    let alone : Bool := match linkDim l with | some (d, _) => decide (torusSize s d ≤ 1) | none => false
    let others (t : State) : Prop := (∀ o : LinkId, o ≠ l → t.fabric.links[o] = s.fabric.links[o]) ∧ t.cores = s.cores ∧
      t.sites = s.sites ∧ t.hbm = s.hbm ∧ t.fabric.tracked = s.fabric.tracked ∧ t.fabric.accepted = s.fabric.accepted
    let downed (t : State) (x : LinkSt) : Prop := others t ∧ (t.fabric.links[l]).st = x ∧ (t.fabric.links[l]).txq = [] ∧
      (t.fabric.links[l]).resend = []
    let again (s t : State) (ps : List Packet) : Prop :=
      t.out.drop s.out.length = ps.map (fun p => Output.packet l { p with lack := (t.fabric.links[l]).rxSeq }) ∧
      (s.counting = true → t.ctrs.rtyPackets = sat64 s.ctrs.rtyPackets ps.length) ∧
      (s.launchActive = true → ∀ x, t.launch = some x → x.exc.getLsbD 1 = true)
    (k.st = .down → (linksMayTrain s = true → alone = false → ∃ t, exec (.linkTraining l) s = .next t ∧ others t ∧
        t.fabric.links[l] = { k with st := .training, changes := min (k.changes + 1) 0xFFFF }) ∧
      (linksMayTrain s = false ∨ alone = true → exec (.linkTraining l) s = .next s)) ∧
    (k.st = .training → 
      (∀ m c failed, modeFits (k.failed ||| failed) m = true → (k.degraded = true → k.mode.map LinkMode.narrow = some m) → ∃ t p, exec (.linkTrained l (some m) failed (some c)) s = .next t ∧ others t ∧
        t.fabric.links[l] = { k with st := if c = expectedPartner s l then .up else .miswired, changes := min (k.changes + 1) 0xFFFF,
                                     failed := k.failed ||| failed, mode := some m, partner := some c, txSeq := 1, rxSeq := 0, resend := [p],
                                     replays := 0, credit := creditsFull, freed := credits0, txq := [], turn := 0, tallyT1 := none,
                                     upper := twoLane m && decide ((k.failed ||| failed) &&& 3#4 ≠ 0), stuckAt := s.align.ticks,
                                     exchAt := none } ∧
        Output.packet l p ∈ t.out.drop s.out.length ∧ p.ty = 0 ∧ p.src = s.chipId ∧ p.dst = c ∧ p.crc = crc32c p.bytes) ∧
      (∀ m c failed, modeFits (k.failed ||| failed) m = false ∨ (k.degraded = true ∧ k.mode.map LinkMode.narrow ≠ some m) →
        exec (.linkTrained l (some m) failed (some c)) s = .next (modLink s l fun x => { x with failed := k.failed ||| failed })) ∧
      (∀ failed partner, ∃ t, exec (.linkTrained l none failed partner) s = .next t ∧ downed t .down)) ∧
    (up → ∀ lane, let f := k.failed ||| BitVec.ofNat 4 (2 ^ lane.1)
      ∃ t, exec (.linkLaneLoss l lane) s = .next t ∧ (t.fabric.links[l]).failed = f ∧ (t.fabric.links[l]).degraded = true ∧
        downed t (if f &&& 3#4 ≠ 0 ∧ f &&& 12#4 ≠ 0 then .down else .training)) ∧
    (∀ p, linkTakes s l p = true → p.ty = 0 → k.txq = [] →
      (∃ t, exec (.linkPacketReceive l p) s = .next t ∧ others t ∧ (t.fabric.links[l]).rxSeq = (k.rxSeq + 1) % 65536 ∧
        (t.fabric.links[l]).credit = ⟨k.credit.c + p.ex 0 16, k.credit.d0 + p.ex 16 16, k.credit.d1 + p.ex 32 16, k.credit.e + p.ex 48 16⟩ ∧
        (p.index.testBit 16 = false → t.out = s.out ∧ t.launch = s.launch) ∧
        (p.index.testBit 16 = true → (∃ q ∈ (t.fabric.links[l]).resend, q.lseq = p.index % 65536) →
          again s t (keptAfter (t.fabric.links[l]).resend (p.index % 65536))))) ∧
    (up → k.txq = [] → k.resend.length < 1024 → ∃ t p, exec (.linkCreditReturn l) s = .next t ∧ others t ∧
      t.out = s.out ++ [.packet l p] ∧ p.ty = 0 ∧ (t.fabric.links[l]).freed = credits0 ∧
      (t.fabric.links[l]).resend = k.resend ++ [p] ∧ p.lseq = k.txSeq ∧ p.lack = k.rxSeq ∧
      (k.freed.c < 65536 → k.freed.d0 < 65536 → k.freed.d1 < 65536 → k.freed.e < 65536 →
        p.ex 0 16 = k.freed.c ∧ p.ex 16 16 = k.freed.d0 ∧ p.ex 32 16 = k.freed.d1 ∧ p.ex 48 16 = k.freed.e)) ∧
    (up → k.resend ≠ [] → s.align.ticks < k.stuckAt + 1050 → exec (.linkReplayTimeout l) s = .next s) ∧
    (up → k.resend ≠ [] → k.stuckAt + 1050 ≤ s.align.ticks →
      (k.replays < 16 → ∃ t, exec (.linkReplayTimeout l) s = .next t ∧ others t ∧
        t.fabric.links[l] = { k with replays := k.replays + 1, stuckAt := s.align.ticks } ∧ again s t k.resend) ∧
      (16 ≤ k.replays → ∃ t, exec (.linkReplayTimeout l) s = .next t ∧ downed t .down)) ∧
    (up → ∀ p,
      (p.crc ≠ crc32c p.bytes → k.txq = [] → k.resend.length < 1024 → k.rxSeq < 65536 →
        ∃ t q, exec (.receivedPacketDiscard l p) s = .next t ∧ others t ∧
          t.out = s.out ++ [.packet l q] ∧ q.ty = 0 ∧ q.index = 65536 + k.rxSeq ∧ (t.fabric.links[l]).rxSeq = k.rxSeq) ∧
      (p.crc = crc32c p.bytes → p.lseq ≠ k.rxSeq → exec (.receivedPacketDiscard l p) s = .next s) ∧
      (p.crc = crc32c p.bytes → p.lseq = k.rxSeq → p.ok = false → ∃ t, exec (.receivedPacketDiscard l p) s = .next t ∧ others t ∧
        t.run.pktDiscards = sat64 s.run.pktDiscards 1 ∧ (t.fabric.links[l]).rxSeq = (k.rxSeq + 1) % 65536))

/-- R283, R289, R290, R301: what an arriving SEND or POST does; R358, R354: the journal; R304, R364: a fence; R292, R390. -/
def Obligations.SendsAndPostsArrive : Prop :=
  ∀ (s : State) (l : LinkId) (p : Packet) (c : CoreId) (early : Bool), memoriesWf s → p.dstCore = c.1 → forThisChip s p = true →
    let row : List (Instr × Nat × List Byte × EventId × Nat) :=
      [(.sendReceive l ⟨p, early⟩, 8, p.payload, Fin.ofNat 64 (p.ex 21 6), p.ex 0 21 + 1024 * p.seg),
       (.postReceive l ⟨p, early⟩, 1, [], Fin.ofNat 64 (p.ex 32 6), 0)]
    let ack (n f : Nat) : Packet := ownPacket s tyACK p.src p.srcCore p.dstCore p.index (extOf [(0, p.launch), (32, p.seg), (48, n), (56, f)]) []
    let got := ((s.fabric.assembly.find? fun a => decide (a.src = p.src ∧ a.srcCore = p.srcCore ∧ a.index = p.index)).map (·.got)).getD 0
    ∀ r ∈ row, let (i, ty, data, ev, addr) := r
      p.ty = ty → p.target = 0 →
      (linkTakes s l p = true → isAwake s = false → stalePacket s p = false → ∃ t, exec i s = .next t ∧ t.fabric.held = s.fabric.held ++ [(l, p)] ∧
        t.cores = s.cores ∧ t.sites = s.sites ∧ (s.power.chip = .asleep → t.power.chip = .leaving)) ∧
      (linkTakes s l p = true → stalePacket s p = true → ∃ t, exec i s = .next t ∧ t.cores = s.cores ∧
        t.sites = s.sites ∧ t.fabric.accepted = s.fabric.accepted ∧ t.run.pktDiscards = sat64 s.run.pktDiscards 1) ∧
      (takesRouted s l p →
        (receivingTag s ≠ some p.launch → ∃ t, exec i s = .next t ∧ linksOnly s t) ∧
        (receivingTag s = some p.launch → accepted s p = true → ∃ t, exec i s = .next t ∧ t.cores = s.cores ∧ t.sites = s.sites ∧
          t.fabric.accepted = s.fabric.accepted ∧ t.launch = s.launch ∧ goesOut s t (ack (if coreTakesPart s c then 1 else 0) 0) ∧
          (s.counting = true → t.ctrs.repeatDiscards = sat64 s.ctrs.repeatDiscards 1)) ∧
        (receivingTag s = some p.launch → accepted s p = false → s.fabric.accepted.length < 262144 →
          journalFits s (if ty = 8 then data.length else 8) = true → addr + data.length ≤ 0x180000 →
          (coreTakesPart s c = false → ∃ t, exec i s = .next t ∧ t.cores = s.cores ∧ t.sites = s.sites ∧ goesOut s t (ack 0 0) ∧
            t.fabric.accepted = s.fabric.accepted ++ [acceptKey s p]) ∧
          (coreTakesPart s c = true → ∃ t, exec i s = .next t ∧ t.fabric.accepted = s.fabric.accepted ++ [acceptKey s p] ∧ t.hbm = s.hbm ∧
            (let dropped := early && hasMoved s c
             let whole := decide (ty = 1 ∨ p.ex 64 16 < got + 1)
             goesOut s t (if dropped then ack 0 1 else ack 1 0) ∧
             (inReplay s = true ∨ dropped = true → t.cores = s.cores ∧ t.sites = s.sites ∧
              ∀ x, s.launch = some x → t.launch = some { x with journal := x.journal ++ [⟨⟨c, addr, data, ev, whole⟩, false, none⟩] }) ∧
             (inReplay s = false → dropped = false → (s.core c).ev[ev] ≠ 0xFFFFFFFF#32 → benchHolds s t c addr data ∧
              (∀ x, s.launch = some x → t.launch = some { x with journal := x.journal ++ [⟨⟨c, addr, data, ev, whole⟩, true, none⟩] }) ∧
              (∀ d, d ≠ c → t.core d = s.core d) ∧
              t.core c = { s.core c with ev := vset (s.core c).ev ev ((s.core c).ev[ev] + (if whole then 1 else 0)) })))))

/-- R288, R289, R293, R295, R291, R290. -/
def Obligations.PacketsAnswered : Prop :=
  ∀ (s : State) (l : LinkId) (p : Packet), memoriesWf s →
    (takesRouted s l p → forThisChip s p = false → (p.ty = 0xA → portFails s p = false) → ∃ t, exec (.packetForward l p) s = .next t ∧ t.cores = s.cores ∧ t.sites = s.sites ∧
      t.hbm = s.hbm ∧ t.launch = s.launch ∧ t.fabric.tracked = s.fabric.tracked ∧ t.fabric.held = s.fabric.held ∧
      match chooseLink s p false (some l) with
      | some o => sentOn s t o { p with vc := chooseVc s p (some l) o, hops := (p.hops + 1) % 32 }
      | none => t.run.pktDiscards = sat64 s.run.pktDiscards 1) ∧
    (takesRouted s l p → forThisChip s p = true →
      (p.ty = 2 → ∃ t, exec (.ackReceive l p) s = .next t ∧ t.cores = s.cores ∧ t.sites = s.sites ∧ t.hbm = s.hbm ∧
        (∀ x ∈ t.fabric.tracked, Sys2Proof.Machine.answers p x = true → p.src ∈ x.acked ∧ x.acked.length < x.members) ∧
        (∀ x ∈ s.fabric.tracked, Sys2Proof.Machine.answers p x = false → x.acked.length < x.members → x ∈ t.fabric.tracked)) ∧
      (p.ty = 3 → ∃ t, exec (.readReqReceive l p) s = .next t ∧ t.cores = s.cores ∧ t.sites = s.sites ∧ t.hbm = s.hbm ∧
        t.launch = s.launch ∧
        (s.hbm.trained = false ∨ stateCode s ∈ [0, 1] → t.run.pktDiscards = sat64 s.run.pktDiscards 1 ∧ linksOnly { s with run := t.run } t) ∧
        (s.hbm.trained = true → stateCode s ∉ [0, 1] →
        let n := 64 * (p.ex 38 4 + 1)
        let answer (r : Nat) (bs : List Byte) : Packet :=
          ownPacket s 9 p.src p.srcCore p.dstCore p.index (extOf [(0, r), (32, p.ex 38 4)]) bs
        (inGeneral (p.ex 0 38) n = false → goesOut s t (answer 1 (List.replicate n 0))) ∧
        (inGeneral (p.ex 0 38) n = true → badIn s (p.ex 0 38) n = true → p.ex 42 1 = 0 → goesOut s t (answer 2 (List.replicate n 0))) ∧
        (inGeneral (p.ex 0 38) n = true → (∀ x ∈ s.hbm.bad, ¬ (x < p.ex 0 38 + n ∧ p.ex 0 38 < x + 64)) → p.ex 42 1 = 0 →
          goesOut s t (answer 0 (s.hbm.mem.read (p.ex 0 38) n))))) ∧
      (p.ty = 9 → 
        (openRead s p = none → ∃ t, exec (.readRespReceive l p) s = .next t ∧ linksOnly s t) ∧
        (∀ q th index buf fill dst skip take, openRead s p = some q → q.use = .gather th index buf fill dst skip take →
          (p.ex 0 8 = 0 → hbmHeld s [] [(dst, take)] = true → ∃ t, exec (.readRespReceive l p) s = .next t ∧ t.hbm = s.hbm ∧ t.sites = s.sites ∧
            t.cores = s.cores ∧ t.fabric.reads = s.fabric.reads ∧ t.fabric.held = s.fabric.held ++ [(l, p)]) ∧
          (p.ex 0 8 = 0 → hbmHeld s [] [(dst, take)] = false → ∃ t, exec (.readRespReceive l p) s = .next t ∧ t.sites = s.sites ∧
            (∀ x ∈ t.fabric.reads, x.id ≠ q.id) ∧
            let bs := (p.payload.drop skip).take take
            (∀ x, (∀ m ∈ mirrorParts s dst bs.length, ¬ (m.2.1 ≤ x ∧ x < m.2.1 + m.2.2)) →
              t.hbm.mem.get x = if dst ≤ x ∧ x < dst + bs.length then bs.getD (x - dst) 0 else s.hbm.mem.get x)) ∧
          (p.ex 0 8 = 2 → ∀ k, s.launch = some k →
            ((th, index) ∈ k.replayedGather → k.halt = none → ∃ t, exec (.readRespReceive l p) s = .next t ∧ t.hbm = s.hbm ∧ t.sites = s.sites ∧
              ∃ k', t.launch = some k' ∧ k'.st = .halting ∧ k'.halt = some .checksum) ∧
            ((th, index) ∉ k.replayedGather → ∃ u t, exec (.readRespReceive l p) s = .next t ∧
              u.launch = some { k with replayedGather := k.replayedGather ++ [(th, index)] } ∧ u.hbm = s.hbm ∧ u.sites = s.sites ∧
              u.cores = s.cores ∧ t = freeUnits (replay u (.detected none)) l p))))) ∧
    (∀ i x, s.fabric.tracked[i]? = some x → 
      (s.tally.toNat < x.sentAt + 10500 → exec (.e2eResend i) s = .next s) ∧
      (x.sentAt + 10500 ≤ s.tally.toNat → (∀ k, s.launch = some k → k.st ≠ .halting) →
        let sector : Prop := x.pkt.ty = 3 ∧ x.pkt.ex 42 1 = 1
        (sector → sectorOver s x.pkt = true → exec (.e2eResend i) s = .next s) ∧
        (16 ≤ x.resends → ¬ sector → exec (.e2eResend i) s = .next (haltLaunch s .internal)) ∧
        (x.resends < 16 ∨ sector → (sector → sectorOver s x.pkt = false) → ∃ t, exec (.e2eResend i) s = .next t ∧ t.cores = s.cores ∧ t.sites = s.sites ∧ t.hbm = s.hbm ∧
          t.fabric.tracked = s.fabric.tracked.set i { x with
            pkt := { x.pkt with sec := decide (9 ≤ x.resends + 1) }, sentAt := s.tally.toNat, resends := x.resends + 1 } ∧
          (s.launchActive = true → ∃ k k', s.launch = some k ∧ t.launch = some k' ∧ k'.exc = k.exc ||| 2) ∧
          (x.pkt.ty = 1 ∨ x.pkt.ty = 3 → x.line = none → goesOut s t { x.pkt with sec := decide (9 ≤ x.resends + 1) })))) ∧
    (∀ i x, s.fabric.accepted[i]? = some x →
      (s.tally.toNat < x.tick + 1048576 → exec (.acceptRecordExpire i) s = .next s) ∧
      (x.tick + 1048576 ≤ s.tally.toNat → s.fabric.held = [] → ∃ t, exec (.acceptRecordExpire i) s = .next t ∧
        t = { s with fabric := { s.fabric with accepted := s.fabric.accepted.eraseIdx i } }))

/-- R306, R307, R308, R309: exchanges. -/
def Obligations.TallyFollows : Prop :=
  ∀ (s : State),
    let after (s t : State) (d2 : Int) : Prop := 
      let a := s.align
      let good := if d2.natAbs ≤ 2 then a.good + 1 else 0
      t.align.lastD2 = d2 ∧ t.cores = s.cores ∧ t.hbm = s.hbm ∧ t.sites = s.sites ∧ t.fabric.tracked = s.fabric.tracked ∧
      (a.stepped = false → t.tally = s.tally + BitVec.ofInt 64 (if 0 ≤ d2 then (d2 + 1) / 2 else -((1 - d2) / 2)) ∧ t.align.rate = 0 ∧
        t.align.integ = 0 ∧ t.align.stepped = true) ∧
      (a.stepped = true → t.tally = s.tally ∧ t.align.integ = max (-858993) (min 858993 (a.integ + 1024 * d2)) ∧
        t.align.rate = max (-858993) (min 858993 (t.align.integ + 8192 * d2))) ∧
      t.align.good = good ∧ (16 ≤ good → t.align.aligned = true) ∧ (a.aligned = true → t.align.aligned = true) ∧
      (a.aligned = false → good < 16 → t.align.aligned = false) ∧
      (a.aligned = true → 4 < d2.natAbs → (a.bad < 3 → t.align.bad = a.bad + 1) ∧
        (a.bad = 3 → t.align.bad = 0 ∧ recordGiven s t 0
          { tag := 0, opc := 0, status := 0, sq := 0, kind := 4, slot := 0,
            body := recBody [(8, 1, 6), (0x18, 7, t.tally.toNat), (0x10, 8, wrap 64 (if 0 ≤ d2 then (d2 + 1) / 2 else -((1 - d2) / 2)))],
            more := false, irq := false, closes := none }))
    (∀ l : LinkId, let k := s.fabric.links[l]
      let due : Prop := ∀ x, k.exchAt = some x → x + 32768 ≤ s.align.ticks
      (k.st = .up ∨ k.st = .miswired → due → ∃ t, exec (.tallyExchange l) s = .next t ∧ (t.fabric.links[l]).exchAt = some s.align.ticks ∧
        linksOnly s t ∧ sentOn s t l (ownPacket s 4 (k.partner.getD 0) 0 0 (2 ^ 31) 0 []) ∧
        (k.txq = [] → k.resend.length < 1024 → (t.fabric.links[l]).tallyT1 = some s.tally.toNat ∧
          ∃ q, t.out = s.out ++ [.packet l q] ∧ q.ex 0 64 = s.tally.toNat)) ∧
      (k.st = .down ∨ k.st = .training ∨ ¬ due → exec (.tallyExchange l) s = .next s) ∧
      (∀ p stamp, linkTakes s l p = true → p.ty = 4 →
        (p.index = 2 ^ 31 → ∃ t, exec (.tallyPacketReceive l p stamp) s = .next t ∧ linksOnly s t ∧
          sentOn s t l (ownPacket s 4 (k.partner.getD 0) 0 0 (wrap 32 ((stamp.toNat : Int) - p.ex 0 64)) 0 [])) ∧
        (p.index ≠ 2 ^ 31 → k.tallyT1 = none → ∃ t, exec (.tallyPacketReceive l p stamp) s = .next t ∧ linksOnly s t) ∧
        (p.index ≠ 2 ^ 31 → k.tallyT1.isSome = true → s.align.role = some 0 → s.align.parent = some l →
          ∃ t, exec (.tallyPacketReceive l p stamp) s = .next t ∧ (t.fabric.links[l]).tallyT1 = none ∧
            after s t (signed 32 p.index - signed 64 (stamp.toNat + 2 ^ 64 - p.ex 0 64))))) ∧
    (s.align.role = some 2 → ∃ t, exec .tallyRefEdge s = .next t ∧ t.fabric = s.fabric ∧
      (s.tally.toNat % 524288 < 262144 → after s t (-2 * ((s.tally.toNat % 524288 : Nat) : Int))) ∧
      (262144 ≤ s.tally.toNat % 524288 → after s t (2 * (524288 - ((s.tally.toNat % 524288 : Nat) : Int))))) ∧
    (s.align.role ≠ some 2 → exec .tallyRefEdge s = .next s)

/-- R252, R313, R314, R341: groups; R317, R318, R321, R323: rounds; R334: deadlines. -/
def Obligations.GroupsAndRounds : Prop :=
  (∀ (s : State) (sq : RingId) (d : Desc), offered s sq d → d.flagsOk = true → d.param < 256 →
    let no : Fin 256 := Fin.ofNat 256 d.param
    let f := field (d.word 1) 24 4
    (d.opc = 0xB → d.zeroFrom 6 = true → field (d.word 1) 28 4 = 0 → field (d.word 1) 21 3 = 0 → (f = 0 ∨ f = 1 ∨ f = 0xE) →
      devAddr (d.word 2) = true → devAddr (d.word 3) = true → devAddr (d.word 4) = true → stateCode s ∈ [3, 4] →
      (s.red.groups[no] = none → groupHeld s d = false → firstFail (groupChecks s d) = none → ∃ u, completes (.groupOpen sq) s u sq d 0 0 ∧
        u.red = { s.red with groups := vset s.red.groups no (some (groupOfDesc s d).1) } ∧ hostOnly { s with red := u.red } u) ∧
      (∀ g, s.red.groups[no] = some g → ∃ u, completes (.groupOpen sq) s u sq d 0x21 0 ∧ hostOnly s u)) ∧
    (d.opc = 0xC → d.word 1 < 65536 → d.zeroFrom 2 = true → stateCode s ∈ [3, 4, 5, 6] →
      ((∀ g, s.red.groups[no] = some g → g.gen ≠ d.word 1 ∨ g.closing = true) → ∃ u, completes (.groupClose sq) s u sq d 0x23 0 ∧ hostOnly s u) ∧
      (∀ g, s.red.groups[no] = some g → g.gen = d.word 1 → g.closing = false → (∀ e ∈ s.red.insts, e.1 = no → e.2.st = .gathering → roundBegun s no.1 e.2 = true) →
        ((∃ e ∈ s.red.insts, e.1 = no ∧ roundBegun s no.1 e.2 = true) → ∃ u, accepts (.groupClose sq) s u sq d (.groupClose no.1 g.gen) ∧
          u.red = { s.red with groups := vset s.red.groups no (some { g with closing := true }) } ∧ hostOnly { s with red := u.red } u) ∧
        ((∀ e ∈ s.red.insts, e.1 = no → roundBegun s no.1 e.2 = false) → (∀ j ∈ s.items, j.kind ≠ .groupClose no.1 g.gen) →
          ∃ t, exec (.groupClose sq) s = .next t ∧ t.red.groups = vset s.red.groups no none ∧
            t.red.insts = s.red.insts.filter (fun e => decide (e.1 ≠ no)) ∧ t.cores = s.cores ∧ t.sites = s.sites ∧ t.hbm = s.hbm ∧
            recordGiven s t (s.subs[sq]).cq (doneRec (headOf s sq d) 0 g.stale (some s.nextItem)))))) ∧
  (∀ (s : State) (no : Fin 256) (b sg : Nat) (x : RX), memoriesWf s → rxOf s no.1 b sg = some x → (receivingTag s).isSome = true →
    let i := x.round s (x.sg.rounds + 1)
    let now (t : State) : Option RInst := roundOf t no.1 x.g.gen b sg (x.sg.rounds + 1)
    let v : List AccVal := (List.range x.sg.count).map fun e =>
      (splitTree (join .fp32 false) (x.sg.cores.map fun c =>
        ((i.contribs.find? fun k => decide (k.core = c)).map (·.data)).getD [] |>.getD e ⟨0, 0⟩)).1.getD ⟨0, 0⟩
    let p : Partial := ⟨1, if v.any (fun a => !(f32 a.hi).isFinite) then 1 else 0, false, false, false, .fp v⟩
    let plain : Prop := x.g.fmt = .fp32 ∧ x.g.policy = 0 ∧ i.st = .gathering ∧ i.kept = [] ∧ i.absent = [] ∧
      i.formed = [] ∧ i.got = none ∧ i.staleOut = false ∧ i.redo = []
    (i.isOpen = false → allContributed x i = false ∨ (inTime s i = true ∧ leafHeld s x = true) → exec (.segmentInstanceBegin no b sg) s = .next s) ∧
    (plain → allContributed x i = true → i.deadline = none →
      (x.top s = .v s.chipId → trackRoom s (ceilDiv (partialBytes .fp32 p).length 1024) = true →
        ∃ t j, exec (.segmentInstanceBegin no b sg) s = .next t ∧ now t = some j ∧ j.st = .main ∧ j.own = v ∧ j.formed = [false] ∧
          t.sites = s.sites ∧ t.hbm = s.hbm ∧ (∀ c, c ≠ x.root → t.core c = s.core c) ∧
          (t.fabric.tracked.drop s.fabric.tracked.length).flatMap (·.pkt.payload) = partialBytes .fp32 p ∧
          ∀ q ∈ t.fabric.tracked.drop s.fabric.tracked.length, q.pkt.ty = 0xA ∧ q.members = 1 ∧
            some q.pkt.dst = (x.top s).parent.map (PKey.point x.g.members x.g.rootSlot)) ∧
      (∀ k, x.g.members = [s.chipId] → x.g.closing = false → endHeld s x = false → s.chipId < 32768 → x.g.rootSlot = s.chipId % 8 → i.contribs = [k] → x.sg.cores = [k.core] →
        inReplay s = false → (s.core k.core).ev[k.ev] ≠ 0xFFFFFFFF#32 → journalFits s (4 * x.sg.count) = true → trackRoom s 0 = true →
        ∃ t j, exec (.segmentInstanceBegin no b sg) s = .next t ∧ now t = some j ∧ j.st = .done ∧
          (rxOf t no.1 b sg).map (·.sg.rounds) = some (x.sg.rounds + 1) ∧ t.fabric = s.fabric ∧
          benchHolds s t k.core k.span.base (meanOf .fp32 p x.sg.count).1 ∧
          (∀ c, c ≠ k.core → t.core c = s.core c) ∧
          t.core k.core = { s.core k.core with ev := vset (s.core k.core).ev k.ev ((s.core k.core).ev[k.ev] + 1) } ∧
          let e := x.g.tableAt + 0x60 + 64 * b
          ∀ a, ¬ (e ≤ a ∧ a < e + 16) → (∀ m ∈ mirrorParts s e 16, ¬ (m.2.1 ≤ a ∧ a < m.2.1 + m.2.2)) →
            t.hbm.mem.get a = s.hbm.mem.get a)) ∧
    (i.deadline = none → exec (.reductionStageDeadline no b sg) s = .next s) ∧
    (∀ dl, i.deadline = some dl → 
      (s.tally.toNat < dl → i.st = .gathering → exec (.reductionStageDeadline no b sg) s = .next s) ∧
      (dl ≤ s.tally.toNat → plain → x.g.closing = false → allContributed x i = false → x.top s = .v s.chipId →
        ∃ t j, exec (.reductionStageDeadline no b sg) s = .next t ∧ now t = some j ∧ j.st = .main ∧ j.missed = true ∧ j.ownMissing = true ∧
          j.formed = [false] ∧ t.fabric.tracked = s.fabric.tracked ∧ t.sites = s.sites)))

/-- R325, R328, R329, R335, R340, R342, R343; R289, R290: acceptance. -/
def Obligations.ReductionPackets : Prop :=
  ∀ (s : State) (l : LinkId) (p : Packet), memoriesWf s →
    let still (t : State) : Prop := t.cores = s.cores ∧ t.sites = s.sites ∧ t.hbm = s.hbm ∧ t.launch = s.launch
    let room : Prop := s.fabric.accepted.length < 262144
    let noted (t : State) : Prop := t.fabric.accepted = s.fabric.accepted ++ [acceptKey s p]
    let told (t : State) (op : Nat) : Prop := ∃ q, t.fabric.tracked = s.fabric.tracked ++ [⟨q, 1, [], s.tally.toNat, 0, none⟩] ∧ q.ty = 6 ∧
      q.dst = p.src ∧ q.dstCore = p.srcCore ∧ q.ex 48 4 = op
    let halted (t : State) : Prop := ∀ k, s.launch = some k → k.halt = none → ∃ k', t.launch = some k' ∧ k'.st = .halting ∧ k'.halt = some .checksum
    (p.ty = 0xA →
      let ack : Packet := ownPacket s tyACK p.src p.srcCore p.dstCore p.index (extOf [(0, p.launch), (32, p.seg), (48, 1), (56, 0)]) []
      let ph := decide (p.ex 36 1 = 1)
      let w : State := match linkDim l with | some (dim, _) => if redLine p then lineForward s p (some l) dim else s | none => s
      (∀ c, (c = .redDataReceive l p ∧ forThisChip s p = true) ∨ (c = .packetForward l p ∧ forThisChip s p = false) →
        linkTakes s l p = true → isAwake s = true → portFails s p = true →
        (failsOf s p < 2 → failsOfPacket s p = 0 → (s.fabric.links[l]).txq = [] → (s.fabric.links[l]).resend.length < 1024 →
          (s.fabric.links[l]).rxSeq < 65536 → ∃ t q, exec c s = .next t ∧ still t ∧
            t.red = { s.red with fails := s.red.fails ++ [(p.src, p.srcCore, p.index, p.seg)] } ∧ t.out = s.out ++ [.packet l q] ∧
            q.ty = 0 ∧ q.index = 65536 + (s.fabric.links[l]).rxSeq ∧ (t.fabric.links[l]).rxSeq = (s.fabric.links[l]).rxSeq) ∧
        (2 ≤ failsOf s p → ∃ t, exec c s = .next t ∧ halted t)) ∧
      (forThisChip s p = true → ∀ c, (c = .redDataReceive l p ∧ takesRouted s l p ∧ portFails s p = false) ∨
          (∃ k, c = .reductionWindowSpace k ∧ s.fabric.held[k]? = some (l, p) ∧ isAwake s = true) →
        (receivingTag s ≠ some p.launch → ∃ t, exec c s = .next t ∧ still t ∧ t.red = s.red ∧ t.fabric.accepted = s.fabric.accepted ∧
          t.fabric.tracked = s.fabric.tracked) ∧
        (receivingTag s = some p.launch → accepted s p = true → ∃ t, exec c s = .next t ∧ still t ∧ t.red = s.red ∧
          t.fabric.accepted = s.fabric.accepted ∧ goesOut w t ack) ∧
        (receivingTag s = some p.launch → accepted s p = false → room → trackRoom s 1 = true →
          (∀ g, s.red.groups[(Fin.ofNat 256 (p.ex 0 8) : Fin 256)] = g → (∀ y, g = some y → y.gen ≠ p.ex 48 16) →
            ∃ t, exec c s = .next t ∧ noted t ∧ told t 1 ∧ goesOut w t ack ∧ t.sites = s.sites ∧ t.hbm = s.hbm ∧ t.launch = s.launch ∧
              t.red = { s.red with groups := vset s.red.groups (Fin.ofNat 256 (p.ex 0 8)) (g.map fun y => { y with stale := y.stale + 1 }) }) ∧
          (∀ x, rxOfRoot s (p.ex 0 8) (p.ex 8 24) p.dstCore = some x → x.g.gen = p.ex 48 16 → x.g.closing = false →
            let n := roundNo x (p.ex 80 16) 16
            let i := x.round s n
            let key := topKey x.g.members x.g.rootSlot p.src
            let now (t : State) : Option RInst := roundOf t x.no x.g.gen x.bucket x.seg n
            i.deadline = none → i.redo = [] → i.st ≠ .done → x.sg.rounds < n → windowUsed s x.no x.root + p.payload.length ≤ x.g.redLen → i.got = none →
            (∀ a ∈ i.arriving, ¬ (a.src = p.src ∧ a.index = p.index)) →
            (p.ex 37 1 = 0 → key.parent.map (PKey.point x.g.members x.g.rootSlot) = some s.chipId → p.src ∈ x.g.members →
              key ∉ i.absent → ph ∉ i.formed → (ph = true → i.st ≠ .main) →
              (p.ex 38 1 = 0 → ∃ t j, exec c s = .next t ∧ still t ∧ noted t ∧ goesOut w t ack ∧ now t = some j ∧
                (∃ a ∈ j.arriving, a.src = p.src ∧ a.index = p.index ∧ a.pkts = [(p.seg, p.payload)]) ∧ t.fabric.tracked = s.fabric.tracked) ∧
              (p.ex 38 1 = 1 → p.seg = 0 → 
                (∀ q, readPartial x.g.fmt (thinOf x.g.policy).isSome ph x.sg.count p.payload = some q → i.st = .gathering →
                  ∃ t j, exec c s = .next t ∧ still t ∧ noted t ∧ goesOut w t ack ∧ now t = some j ∧ j.kept = i.kept ++ [⟨key, ph, p.src, q, p.index⟩] ∧
                    j.st = .gathering) ∧
                (readPartial x.g.fmt (thinOf x.g.policy).isSome ph x.sg.count p.payload = none →
                  (failsOf s p < 2 → ∃ t, exec c s = .next t ∧ told t 2 ∧ t.sites = s.sites ∧ t.hbm = s.hbm ∧
                    t.run.assayerFails = sat64 s.run.assayerFails 1 ∧
                    ∀ a ∈ t.fabric.accepted, ¬ (a.src = p.src ∧ a.srcCore = p.srcCore ∧ a.index = p.index)) ∧
                  (2 ≤ failsOf s p → ∃ t, exec c s = .next t ∧ halted t)))) ∧
            (∀ q k, p.ex 37 1 = 1 → ph = false → p.ex 38 1 = 1 → p.seg = 0 → i.st = .main → i.contribs = [k] → x.g.fmt = .fp32 →
              x.g.policy = 0 → totalDests s x.g.members x.g.rootSlot i.staleOut = [] → trackRoom s 0 = true → endHeld s x = false →
              journalFits s (4 * x.sg.count) = true → inReplay s = false → (s.core k.core).ev[k.ev] ≠ 0xFFFFFFFF#32 →
              readPartial .fp32 false false x.sg.count p.payload = some q →
              ∃ t j, exec c s = .next t ∧ now t = some j ∧ j.st = .done ∧ noted t ∧ goesOut w t ack ∧
                benchHolds s t k.core k.span.base (meanOf .fp32 q x.sg.count).1 ∧ (∀ o, o ≠ k.core → t.core o = s.core o) ∧
                t.core k.core = { s.core k.core with ev := vset (s.core k.core).ev k.ev ((s.core k.core).ev[k.ev] + 1) }))))) ∧
    (p.ty = 6 → forThisChip s p = true →
      let ack : Packet := ownPacket s tyACK p.src p.srcCore p.dstCore p.index (extOf [(0, (launchTag s).getD 0), (32, 0), (48, 1), (56, 0)]) []
      ∀ bad, ∀ row ∈ [(Instr.redCtlMissed l p, 0), (.redCtlStale l p, 1), (.redCtlResend l ⟨p, bad⟩, 2)], let (c, op) := row
        p.ex 48 4 = op → takesRouted s l p →
        (receivingTag s = none → ∃ t, exec c s = .next t ∧ linksOnly s t) ∧
        ((receivingTag s).isSome = true → accepted s p = true → ∃ t, exec c s = .next t ∧ still t ∧ t.red = s.red ∧
          t.fabric.accepted = s.fabric.accepted ∧ goesOut s t ack) ∧
        ((receivingTag s).isSome = true → accepted s p = false → room →
          (ctlRound s p = none → ∃ t, exec c s = .next t ∧ still t ∧ t.red = s.red ∧ noted t ∧ goesOut s t ack ∧
            t.fabric.tracked = s.fabric.tracked) ∧
          (∀ x i, ctlRound s p = some (x, i) → x.g.closing = false →
            let now (t : State) : Option RInst := roundOf t x.no x.g.gen x.bucket x.seg i.n
            let sends := resendSet s i p.src (p.ex 52 6)
            let ph := sends.all fun q => q.ex 36 1 = 1
            let failing := i.kept.filter fun k => decide (k.prepass = ph ∧ k.chip ≠ s.chipId) && bad.contains k.chip
            let failures (k : Kept) : Nat := (s.red.fails.filter fun f => decide (f.1 = k.chip ∧ f.2.1 = x.root.1 ∧ f.2.2.1 = k.index)).length
            let j : RInst := { i with missed := true }
            (op = 0 → trackRoom s (feeders s i).length = true → i.st ≠ .done ∨ endHeld s x = false → ∃ t, exec c s = .next t ∧
              t.sites = s.sites ∧ noted t ∧ goesOut s t ack ∧ now t = some j ∧
              (∀ f ∈ feeders s i, ∃ q ∈ t.fabric.tracked, q.pkt.ty = 6 ∧ q.pkt.dst = f ∧ q.pkt.ex 48 4 = 0) ∧
              (i.missed = true ∨ i.st ≠ .done ∨ i.n ≠ x.sg.rounds → t.hbm = s.hbm ∧ t.launch = s.launch) ∧
              (i.missed = false → i.st = .done → i.n = x.sg.rounds →
                (∀ r, x.sg.res = some r → r.n = i.n →
                  (rxOf t x.no x.bucket x.seg).bind (·.sg.res) = some { r with rflags := r.rflags ||| 1 }) ∧
                let e := x.g.tableAt + 0x60 + 64 * x.bucket
                let bs := if (x.round s (i.n + 1)).isOpen then [] else (residualOf x j).getD []
                ∀ a, ¬ (e ≤ a ∧ a < e + 16) →
                  (∀ m ∈ mirrorParts s e 16 ++ mirrorParts s x.residualAt bs.length, ¬ (m.2.1 ≤ a ∧ a < m.2.1 + m.2.2)) →
                  t.hbm.mem.get a = if x.residualAt ≤ a ∧ a < x.residualAt + bs.length then bs.getD (a - x.residualAt) 0 else s.hbm.mem.get a)) ∧
            (op = 1 → i.phase = none → ∃ t, exec c s = .next t ∧ still t ∧ t.red = s.red ∧ noted t ∧ goesOut s t ack) ∧
            (op = 1 → i.phase.isSome = true → ∃ t j, exec c s = .next t ∧ now t = some j ∧ j.staleOut = true ∧ noted t ∧ goesOut s t ack) ∧
            (op = 2 → failing ≠ [] → trackRoom s failing.length = true → ∃ t, exec c s = .next t ∧ t.sites = s.sites ∧ t.hbm = s.hbm ∧
              now t = some { i with resent := true, kept := i.kept.filter (fun k => !failing.contains k), again := i.again ++ failing.map (·.key),
                                    redo := i.redo ++ [(p.src, p.ex 52 6)] } ∧ acceptKey s p ∈ t.fabric.accepted ∧
              ((∃ k ∈ failing, 2 ≤ failures k) → halted t) ∧
              ((failing.map fun k => (k.chip, k.index)).Nodup → (∀ k ∈ failing, failures k < 2) →
                ∀ k ∈ failing, ∃ q ∈ t.fabric.tracked, q.pkt.ty = 6 ∧ q.pkt.dst = k.chip ∧ q.pkt.ex 48 4 = 2)) ∧
            (op = 2 → failing = [] → trackRoom s sends.length = true → ∃ t, exec c s = .next t ∧ t.cores = s.cores ∧ t.sites = s.sites ∧ t.hbm = s.hbm ∧
              now t = some { i with resent := true } ∧ noted t ∧ goesOut s t ack ∧
              (s.counting = true → t.ctrs.rtyPackets = sat64 s.ctrs.rtyPackets sends.length) ∧
              (∀ k, s.launch = some k → ∃ k', t.launch = some k' ∧ k'.exc.getLsbD 1 = true) ∧
              ∀ q ∈ sends, ∃ y ∈ t.fabric.tracked, y.pkt.index = q.index ∧ y.pkt.seg = q.seg ∧ y.pkt.srcCore = q.srcCore))))

/-- R374, R375: phases; R394, R395, R376: clocks; R383: guard band; R392, R393: notices; R397, R398, R401: heat. -/
def Obligations.PowerAndHeat : Prop :=
  ∀ (s : State) (col : Fin 16),
    let d := s.power.domains[col]
    let leaves (c : Instr) (p : Power) : Prop := exec c s = .next { s with power := p }
    let slowed (c : Instr) (p : Power) (counted : State) (cols : Fin 16 → Bool) : Prop := ∃ t, exec c s = .next t ∧
      t = { s with power := p, cores := t.cores, launch := t.launch, ctrs := counted.ctrs } ∧
      (∀ k, t.core k = if cols (coreCol k) then
        { s.core k with threads := (s.core k).threads.map fun x => { x with stretched := true } } else s.core k) ∧
      t.launch = if s.launchActive then s.launch.map fun k => { k with exc := k.exc ||| 16 } else s.launch
    let ended (c : Instr) (roots : Fin 24) (p : Power) : Prop := exec c s = .next { s with
      power := p
      ctrs := if s.counting then { s.ctrs with strCycles := sat64 s.ctrs.strCycles (strOwed s col roots.1) } else s.ctrs }
    let upTo (d : Domain) (roots : Nat) : Nat := max d.slowAt (24 * s.power.upTicks + roots)
    let withDomain (x : Domain) : Power := { s.power with domains := vset s.power.domains col x }
    let fails (c : Instr) (n : Fin 7) : Prop :=
      let left := d.phases &&& ~~~BitVec.ofNat 7 (2 ^ n.1)
      (d.phases.getLsbD n.1 = false → exec c s = .next s) ∧
      (d.phases.getLsbD n.1 = true → 3 ≤ phaseCount left ∨ d.lost = true → exec c s = .next { s with
        power := withDomain { d with phases := left }
        run := { s.run with phasesLost := sat64 s.run.phasesLost 1 } }) ∧
      (d.phases.getLsbD n.1 = true → phaseCount left < 3 → d.lost = false → ∃ t, exec c s = .next t ∧
        t.power.domains = vset s.power.domains col { d with phases := left, lost := true } ∧
        t.run.phasesLost = sat64 s.run.phasesLost 1 ∧ t.hbm = s.hbm ∧ t.fabric = s.fabric ∧
        (∀ i : SiteId, t.sites[i] = if i.1 % 16 = col.1 then { s.sites[i] with bench := [], bad := [] } else s.sites[i]) ∧
        t.life.masks = vset s.life.masks col 0x1FFF#13 ∧
        t.life.state = (if stateCode s ∈ [3, 4] then some .degraded else s.life.state) ∧
        ∀ k, s.launch = some k → k.halt = none → ∃ k', t.launch = some k' ∧ k'.st = .halting ∧ k'.halt = some .spare)
    (s.power.rails = true →
      (∀ n : Fin 7, fails (.phaseFail (.column col) (Fin.ofNat 12 n.1)) n) ∧
      (∀ (k : Fin 7) (n : Fin 12), if (s.power.otherPhases[k]).getLsbD n.1 then
          exec (.phaseFail (.other k) n) s = .next { s with
            power := { s.power with otherPhases := vset s.power.otherPhases k (s.power.otherPhases[k] &&& ~~~BitVec.ofNat 12 (2 ^ n.1)) }
            run := { s.run with phasesLost := sat64 s.run.phasesLost 1 } }
        else exec (.phaseFail (.other k) n) s = .next s)) ∧
    (s.power.rails = false → ∀ r n, exec (.phaseFail r n) s = .next s) ∧
    (domainOn s col = true →
      (d.clock ≠ .stopped → slowed (.droopStretch col true) (withDomain { d with
        clock := .stopped, stopAt := s.tally.toNat, marked := true, slowAt := upTo d 0 }) (settleStr s col 0) fun c => c = col) ∧
      (d.clock = .run → slowed (.droopStretch col false) (withDomain { d with clock := .stretched, marked := true, slowAt := upTo d 0 })
        (settleStr s col 0) fun c => c = col) ∧
      (d.clock = .stretched → exec (.droopStretch col false) s = .next s) ∧
      (d.clock = .stopped → ∀ stop, exec (.droopStretch col stop) s = .next s)) ∧
    (domainOn s col = false → ∀ stop, exec (.droopStretch col stop) s = .next s) ∧
    (∀ roots : Fin 24,
      (d.clock = .stretched → ended (.stretchEnd col roots) roots (withDomain { d with clock := .run, slowAt := upTo d roots })) ∧
      (d.clock ≠ .stretched → exec (.stretchEnd col roots) s = .next s) ∧
      (d.clock = .stopped → ended (.clockStopEnd col roots) roots (withDomain { d with clock := .stretched, slowAt := upTo d roots })) ∧
      (d.clock ≠ .stopped → exec (.clockStopEnd col roots) s = .next s) ∧
      (s.power.limited = true → exec (.currentLimitStretch false roots) s = .next { s with
        power := { s.power with limited := false, domains := s.power.domains.map fun d => { d with slowAt := upTo d roots } }
        ctrs := (settleStrs s roots).ctrs }) ∧
      (s.power.limited = false → exec (.currentLimitStretch false roots) s = .next s) ∧
      (s.power.limited = false → s.power.colRails = true → slowed (.currentLimitStretch true roots)
        { s.power with limited := true, domains := s.power.domains.map fun d => { d with marked := true, slowAt := upTo d roots } }
        (settleStrs s roots) fun _ => true) ∧
      (s.power.limited = true ∨ s.power.colRails = false → exec (.currentLimitStretch true roots) s = .next s)) ∧
    (∀ n, (d.clock = .stopped → d.stopAt + 5250 ≤ s.tally.toNat → fails (.clockStopCheck col (some n)) n) ∧
      (d.clock ≠ .stopped ∨ s.tally.toNat < d.stopAt + 5250 → exec (.clockStopCheck col (some n)) s = .next s)) ∧
    exec (.clockStopCheck col none) s = .next s ∧
    (s.power.colRails = true → s.power.guardBand + s.power.guardOwed < 4 →
      leaves .ageingGuardBandRaise (if s.launchActive then { s.power with guardOwed := s.power.guardOwed + 1 }
        else { s.power with guardBand := s.power.guardBand + 1 })) ∧
    (s.power.colRails = false ∨ 4 ≤ s.power.guardBand + s.power.guardOwed → exec .ageingGuardBandRaise s = .next s) ∧
    (∀ th : ThRef, coreCol th.core = col →
      let k := s.core th.core
      let x := s.th th
      let lead := noticeLead s.power.level
      let ahead (first : Nat) : Option (Nat × Nat) := arrayAhead x first (lead + 1) x.pos lead
      let sends (n : Notice) (d' : Domain) (k' : Core) : Prop := exec (.loadNotice th n) s = .next { s.setCore th.core k' with
        power := withDomain d', out := s.out ++ [.notice col n] }
      (x.st = .running →
        (∀ ix n, ahead x.noticed = some (ix, n) → sends (.rise n) { d with notices := d.notices + n, roseAt := s.power.upTicks }
            { k with threads := vset k.threads th.t { x with noticed := ix + 1 }, risen := vset k.risen th.t (k.risen[th.t] + n) } ∧
          ∀ m, m ≠ n → exec (.loadNotice th (.rise m)) s = .next s) ∧
        (ahead x.noticed = none → ∀ n, exec (.loadNotice th (.rise n)) s = .next s) ∧
        (ahead 0 = none → k.risen[th.t] ≠ 0 → sends .fall { d with notices := d.notices - k.risen[th.t] } { k with risen := vset k.risen th.t 0 }) ∧
        ((ahead 0).isSome = true ∨ k.risen[th.t] = 0 → exec (.loadNotice th .fall) s = .next s)) ∧
      (x.st ≠ .running → ∀ n, exec (.loadNotice th n) s = .next s)) ∧
    (s.power.rails = true →
      (∀ (i : SiteId) (v : Option Int), let x := s.power.sites[i]
        meshOn s = true → x.excluded = false → (∀ v', v = some v' → v' < 108) → tripReached s = false → ∃ t, exec (.sensorRead [(.site i, v)]) s = .next t ∧
          t = { s with power := t.power, hbm := { s.hbm with hot := t.hbm.hot } } ∧ t.power = { s.power with sites := t.power.sites } ∧
          t.power.sites = vset s.power.sites i (match v with
            | some y => { x with reading := some y, fails := 0 }
            | none => { x with fails := x.fails + 1, excluded := decide (3 ≤ x.fails + 1) })) ∧
      (∀ i v, meshOn s = false → tripReached s = false → ∃ t, exec (.sensorRead [(.site i, v)]) s = .next t ∧
        t = { s with hbm := { s.hbm with hot := t.hbm.hot } }) ∧
      (∀ v, 120 ≤ v → s.power.pu.excluded = false → s.power.tripN = false →
        let again := s.power.afterTrip = true ∧ s.power.upTicks < 525000000
        ∃ t, exec (.sensorRead [(.pu, some v)]) s = .next t ∧ t.power.colRails = false ∧ t.power.hbmRails = false ∧ t.power.tripN = true ∧
          t.power.faultN = true ∧ t.hbm.mem = [] ∧ (again → s.life.state = some .safe → t.life.state = some .safe ∧ t.power.tripHold = true) ∧
          (¬ again ∨ s.life.state ≠ some .safe → t.life.state = some .halted) ∧
          ∀ k, s.launch = some k → k.halt = none → ∃ k', t.launch = some k' ∧ k'.st = .halting ∧ k'.halt = some .internal)) ∧
    (s.power.rails = true →
      let base := baseLevel s
      ∃ t, exec .thermalEvaluate s = .next t ∧ t = { s with power := t.power, ctrs := t.ctrs } ∧
        (tooHot s = true → (t.power.throttle).1 = min 4 ((throttleLevel s).1 + 1) ∧ t.power.releases = 0) ∧
        (tooHot s = false → coolEnough s = true → if 9 ≤ s.power.releases then
            (t.power.throttle).1 = (s.power.throttle).1 - 1 ∧ t.power.releases = 0
          else t.power.throttle = s.power.throttle ∧ t.power.releases = s.power.releases + 1) ∧
        (tooHot s = false → coolEnough s = false → t.power.throttle = s.power.throttle ∧ t.power.releases = 0) ∧
        t.power.throttledSince = (s.power.throttledSince || decide (slower t.power.throttle base ≠ base)) ∧
        (let target := slower base t.power.throttle
         (s.power.changing = none → t.power.changing = (if s.power.level = target then none else some target) ∧
          t.power.level = if s.power.level < target then target else s.power.level) ∧
         (s.power.changing ≠ none → t.power.changing = s.power.changing ∧ t.power.level = s.power.level))) ∧
    (s.power.rails = false → exec .thermalEvaluate s = .next s)

/-- R386, R387, R390: cores; R388 to R391: the chip; R505: the link; R469: telemetry. -/
def Obligations.SleepAndTelemetry : Prop :=
  ∀ (s : State),
    (∀ c : CoreId,
      let k := s.core c
      let becomes (i : Instr) (k' : Core) : Prop := exec i s = .next (s.setCore c k')
      let from2 : Prop := k.sleep = .s1 ∨ (k.sleep = .s0 ∧ s.power.timers.1 = 2 ^ 64 - 1)
      let go1 : Prop := domainOn s (coreCol c) = true ∧ k.sleep = .s0 ∧ idleFor s c s.power.timers.1 = true
      let go2 : Prop := domainOn s (coreCol c) = true ∧ from2 ∧ idleFor s c s.power.timers.2.1 = true
      (go1 → becomes (.s1Entry c) { k with sleep := .toS1 false }) ∧ (¬ go1 → exec (.s1Entry c) s = .next s) ∧
      (go2 → becomes (.s2Entry c) { k with sleep := .toS2 false }) ∧ (¬ go2 → exec (.s2Entry c) s = .next s) ∧
      (k.sleep = .s0 → exec (.coreWake c) s = .next s ∧ exec (.coreWakeComplete c) s = .next s) ∧
      (∀ w, k.sleep = .toS1 w → becomes (.coreWake c) { k with idleSince := none, sleep := .toS1 true } ∧
        becomes (.coreWakeComplete c) { k with sleep := if w then .waking1 else .s1 }) ∧
      (∀ w, k.sleep = .toS2 w → becomes (.coreWake c) { k with idleSince := none, sleep := .toS2 true } ∧
        becomes (.coreWakeComplete c) { k with sleep := if w then .waking2 else .s2 }) ∧
      (k.sleep = .s1 → becomes (.coreWake c) { k with idleSince := none, sleep := .waking1 }) ∧
      (k.sleep = .s2 → becomes (.coreWake c) { k with idleSince := none, sleep := .waking2 }) ∧
      (k.sleep = .waking1 ∨ k.sleep = .waking2 → becomes (.coreWakeComplete c) { k with
        sleep := .s0
        idleSince := if coreFree s c = true then some s.tally.toNat else none })) ∧
    (let ready : Prop := ∃ e, s.power.eligible = some e ∧ mayS3 s = true ∧ s.power.timers.2.2 ≠ 2 ^ 64 - 1 ∧
        e + s.power.timers.2.2 ≤ s.tally.toNat ∧ isAwake s = true
     (ready → exec .s3Entry s = .next { s with power := { s.power with chip := .entering false } }) ∧
     (¬ ready → exec .s3Entry s = .next s)) ∧
    (∀ w, s.power.chip = .entering w →
      (∃ t, exec .s3EntryComplete s = .next t ∧ t = { s with power := t.power, sites := t.sites, cores := t.cores } ∧
        t.power = { s.power with chip := if w then .leaving else .asleep, colRails := false } ∧
        (∀ i : SiteId, t.sites[i] = { s.sites[i] with bench := [], bad := [] }) ∧
        ∀ c : CoreId, t.core c = { s.core c with
          threads := (s.core c).threads.map (fun x => { x with cue := [] }), tiles := Vector.replicate 32 tile0,
          status := Vector.replicate 32 TileStatus.zero, planes := Vector.replicate 4 planes0,
          slots := Vector.replicate 32 (Vector.replicate 32 slotRow0) }) ∧
      exec .s3Wake s = .next { s with power := { s.power with chip := .entering true } }) ∧
    ((∀ w, s.power.chip ≠ .entering w) → exec .s3EntryComplete s = .next s) ∧
    (s.power.chip = .asleep → exec .s3Wake s = .next { s with power := { s.power with chip := .leaving } }) ∧
    (s.power.chip = .awake ∨ s.power.chip = .leaving → exec .s3Wake s = .next s) ∧
    (s.power.chip ≠ .leaving → exec .s3ExitComplete s = .next s) ∧
    (s.power.chip = .leaving → s.fabric.held = [] → ∃ t, exec .s3ExitComplete s = .next t ∧ hostOnly { s with
      power := { s.power with chip := .awake, colRails := true, eligible := none }
      cores := s.cores.map fun k => { k with sleep := .s0, idleSince := some s.tally.toNat } } t) ∧
    exec (.cxlLinkPowerState true) s = .next { s with power := { s.power with linkL2 := true } } ∧
    (∃ t, exec (.cxlLinkPowerState false) s = .next t ∧ t.power = { s.power with linkL2 := false, wakeN := false } ∧
      hostOnly { s with power := t.power } t ∧
      (isAwake s = true → ∀ q r rest, (s.comps[q]).waiting = r :: rest → r.after = [] → (if r.more then 2 else 1) ≤ ringFree s.comps[q] →
        ∃ a p, Output.record q a r p ∈ t.out.drop s.out.length)) ∧
    (∀ w v cy,
      (telemetryRing s = none ∨ s.obs.telPeriod = 0 ∨ s.tally.toNat / s.obs.telPeriod ≤ s.obs.telLast / s.obs.telPeriod →
        exec (.telemetryRecord w v cy) s = .next s) ∧
      (∀ q, telemetryRing s = some q → s.obs.telPeriod ≠ 0 → s.obs.telLast / s.obs.telPeriod < s.tally.toNat / s.obs.telPeriod →
        isAwake s = true → stateCode s ∈ [2, 3, 4, 5, 6, 7] →
        let count := s.tally.toNat / s.obs.telPeriod * s.obs.telPeriod
        ∃ t, exec (.telemetryRecord w v cy) s = .next t ∧ t.obs = { s.obs with telCount := s.obs.telCount + 1, telLast := count } ∧
          t.power = { s.power with throttledSince := false, domains := s.power.domains.map fun d => { d with marked := false } } ∧
          hostOnly { s with obs := t.obs, power := t.power } t ∧
          ((s.comps[q]).active = true → s.power.linkL2 = false → 1 ≤ ringFree s.comps[q] → ∃ a r p,
            Output.record q a r p ∈ t.out.drop s.out.length ∧ r.kind = 5 ∧ r.slot = s.obs.telCount % 65536 ∧
            field r.body.toNat 0 56 = count % 2 ^ 56 ∧ field r.body.toNat 64 16 = w % 65536 ∧ field r.body.toNat 80 16 = v % 65536) ∧
          ((s.comps[q]).active = false ∨ s.power.linkL2 = true ∨ ringFree s.comps[q] = 0 →
            (t.comps[q]).dropped = min ((s.comps[q]).dropped + 1) 0xFFFF)))

/-- R411, R412: resets; R403: SLOT_ID; R380, R381: rails; R378, R508, R514: losses; R407, R408, R410: stages. The operands of the input's
commands are DESIGN CHOICE (log entries 43 and 84). -/
def Obligations.ResetsAndStart : Prop :=
  ∀ (s : State),
    let p := s.power
    let phasesKept (t : State) : Prop := t.power.otherPhases = p.otherPhases ∧ ∀ c : Fin 16, (t.power.domains[c]).phases = (p.domains[c]).phases
    let cleared (t : State) : Prop := t.life.image = none ∧ t.life.locks = 0 ∧ t.items = [] ∧ t.subs = Vector.replicate 64 subRing0 ∧
      (∀ n : RingId, (t.comps[n]).active = false) ∧ t.launch = none ∧ t.regions = Vector.replicate 64 none ∧ t.red = reduction0 ∧
      t.bufs = Vector.replicate 256 bufEntry0 ∧ t.fabric.routes = Vector.replicate 2 .none ∧ t.fabric.inUse = none ∧
      t.life.masks = Vector.replicate 16 0 ∧ t.hbm.repaired = [] ∧ t.hbm.retired = [] ∧ t.sec.sessions = [] ∧
      t.sec.ide = Vector.replicate 4 ideStream0 ∧ t.sec.otp = s.sec.otp ∧ t.pending = s.pending ∧ phasesKept t
    let afresh (t : State) : Prop := cleared t ∧ t.tally = 0 ∧ t.fabric = fabric0 ∧ t.align = align0 ∧ t.sec.enclaveUp = false
    let unpowered (t : State) : Prop := t.power.rails = false ∧ t.power.hbmRails = false ∧ t.power.colRails = false ∧ t.power.pll = false
    let failed (t : State) : Prop := unpowered t ∧ t.power.sequencing = false ∧ t.power.faultN = true ∧ t.life.state = some .halted ∧
      t.life.failCode = 0x40
    let stopped (c : Instr) : Prop := ∃ t, exec c s = .next t ∧ failed t
    let tested (t u : State) (fs : List (Rail × Fin 12)) : Prop :=
      (railLacking (testPhases u fs) = true → failed t) ∧ (railLacking (testPhases u fs) = false → t = testPhases u fs)
    let restarts (c : Instr) (tests : Option (List (Rail × Fin 12))) : Prop := ∃ u t, exec c s = .next t ∧ afresh u ∧ u.life.state = none ∧
      u.power.perst = true ∧ u.power.rails = false ∧ u.power.sequencing = true ∧ u.power.railStep = 0 ∧ u.power.shutdown = false ∧
      u.power.faultN = false ∧ u.power.tripN = false ∧ u.power.afterTrip = p.tripN ∧ u.power.tests = none ∧
      match tests with | none => t = u | some fs => tested t u fs
    let lost (c : Instr) (shut : Bool) : Prop := ∃ t, exec c s = .next t ∧ cleared t ∧ unpowered t ∧ t.tally = 0 ∧
      t.power.sequencing = false ∧ t.power.shutdown = (shut || p.shutdown) ∧ t.power.faultN = (shut || p.faultN) ∧
      t.life.state = if shut then some .halted else none
    let idle : Prop := p.rails = false ∧ p.sequencing = false
    let safeLife (x : Life) : Life := { x with state := some .safe, failCode := if otpLacking s (lifecycle s) then 0x50 else 0 }
    (∃ t, exec .coldReset s = .next t ∧ afresh t ∧ unpowered t ∧ t.power.perst = true ∧ t.life.state = none ∧ t.sec = { sec0 with otp := s.sec.otp }) ∧
    (p.perst = true → exec .perstAssert s = .next s) ∧
    (p.perst = false → p.sequencing = true →
      exec .perstAssert s = .next { s with power := { p with perst := true, clkreq := false, warmOwed := true } }) ∧
    (p.perst = false → p.sequencing = false →
      (p.pwrGood = true → p.inRange = true → p.shutdown = true ∨ p.tripN = true → restarts .perstAssert p.tests) ∧
      (p.pwrGood = false ∨ p.inRange = false ∨ (p.shutdown = false ∧ p.tripN = false) →
        ∃ t, exec .perstAssert s = .next t ∧ afresh t ∧ t.power.perst = true ∧ t.life.state = none ∧ t.power.rails = p.rails ∧
          t.power.sequencing = false ∧
          (p.pwrGood = true → p.inRange = true → t.power.faultN = false ∧ t.power.afterTrip = false) ∧
          (p.pwrGood = false ∨ p.inRange = false → t.power.faultN = p.faultN ∧ t.power.shutdown = p.shutdown ∧ t.power.tripN = p.tripN))) ∧
    (∀ slot cacheOn, (p.perst = false → exec (.perstDeassert ⟨slot, cacheOn⟩) s = .next s) ∧
      (p.perst = true → p.rails = false ∨ s.life.state.isSome = true → exec (.perstDeassert ⟨slot, cacheOn⟩) s = .next { s with
        cacheOn := cacheOn, power := { p with perst := false }, life := { s.life with slotId := slot } }) ∧
      (p.perst = true → p.rails = true → s.life.state = none → exec (.perstDeassert ⟨slot, cacheOn⟩) s = .next { s with
        cacheOn := cacheOn, power := { p with perst := false, clkreq := true }, life := safeLife { s.life with slotId := slot } })) ∧
    (∀ c ∈ [Instr.cxlHotReset, Instr.functionLevelReset],
      (p.rails = true → p.perst = false → s.life.state.isSome = true → ∃ t, exec c s = .next t ∧ cleared t ∧ t.life.state = some .safe ∧
        t.tally = s.tally ∧ t.align = { s.align with okDone := false } ∧ t.fabric.fabId = s.fabric.fabId ∧ t.life.slotId = s.life.slotId ∧
        t.power.rails = true ∧ t.sec.enclaveUp = s.sec.enclaveUp ∧ t.cacheOn = s.cacheOn ∧
        ∀ l : LinkId, t.fabric.links[l] = { s.fabric.links[l] with txq := [], freed := (t.fabric.links[l]).freed }) ∧
      (p.rails = false ∨ p.perst = true ∨ s.life.state = none → exec c s = .next s)) ∧
    (∀ fs, (p.pwrGood = true → p.inRange = true → exec (.pwrGoodAssert fs) s = .next s) ∧
      (p.pwrGood = false ∨ p.inRange = false → p.rails = true ∨ (p.shutdown = true ∧ p.perst = false) → exec (.pwrGoodAssert fs) s = .next { s with
        power := { p with pwrGood := true, inRange := true, tests := some fs } }) ∧
      (p.pwrGood = false ∨ p.inRange = false → p.rails = false → p.shutdown = true → p.perst = true → restarts (.pwrGoodAssert fs) (some fs)) ∧
      (p.pwrGood = false ∨ p.inRange = false → p.shutdown = false → p.rails = false →
        let u : State := { s with power := { p with
          pwrGood := true, inRange := true, tests := none, sequencing := true, railStep := 0, rails := false } }
        ∃ t, exec (.pwrGoodAssert fs) s = .next t ∧ tested t u fs ∧
          (fs = [] → t = { u with power := { u.power with otherPhases := power0.otherPhases, domains := Vector.replicate 16 domain0 } }))) ∧
    (∀ r, (p.sequencing = true → p.railStep < railEvent r → stopped (.railTimeout r)) ∧
      (p.sequencing = false ∨ railEvent r ≤ p.railStep → exec (.railTimeout r) s = .next s)) ∧
    (p.sequencing = false → exec .railSequenceDone s = .next s) ∧
    (p.sequencing = true →
      let n := p.railStep + 1
      let locks : Prop := n = 7
      let u : State := { s with
        tally := if locks then 0 else s.tally
        tallyPrev := if locks then 0 else s.tallyPrev
        align := if locks then { s.align with runs := [(0, s.align.ticks)] } else s.align
        power := { p with railStep := n, pll := if locks then true else p.pll } }
      let up : State := { u with power := { u.power with sequencing := false, rails := true, hbmRails := true, colRails := true, upTicks := 0 } }
      (n < 16 → exec .railSequenceDone s = .next u) ∧
      (16 ≤ n → p.warmOwed = false → p.perst = true ∨ s.life.state.isSome = true → exec .railSequenceDone s = .next up) ∧
      (16 ≤ n → p.warmOwed = false → p.perst = false → s.life.state = none → exec .railSequenceDone s = .next { up with
        power := { up.power with clkreq := true }, life := safeLife s.life }) ∧
      (16 ≤ n → p.warmOwed = true → p.tests = none ∨ (p.shutdown = false ∧ p.tripN = false) →
        ∃ t, exec .railSequenceDone s = .next t ∧ afresh t ∧ t.power.warmOwed = false ∧
          t.life.state = if t.power.rails = true ∧ p.perst = false then some .safe else none)) ∧
    (∀ o, (p.pwrGood = false → exec (.pwrGoodDeassert o) s = .next s) ∧
      (p.pwrGood = true → o = true ∨ p.perst = true → lost (.pwrGoodDeassert o) false) ∧
      (p.pwrGood = true → o = false → p.perst = false → lost (.pwrGoodDeassert o) true)) ∧
    (¬ idle → lost .coreRefLoss true) ∧ (idle → exec .coreRefLoss s = .next s) ∧
    (¬ idle → lost .inputShutdown true ∧ ∀ t, exec .inputShutdown s = .next t → t.power.inRange = false) ∧
    (idle → exec .inputShutdown s = .next (if p.shutdown then { s with power := { p with inRange := false } } else s)) ∧
    (∀ stackFails lanes pcs, let c : Instr := .memoryStage stackFails lanes pcs
      (s.life.state ≠ some .safe ∨ s.life.stage ≠ 2 ∨ s.life.image = none ∨ p.hbmRails = false ∨ p.colRails = false ∨ isAwake s = false →
        exec c s = .next s) ∧
      (∀ image, s.life.state = some .safe → s.life.stage = 2 → s.life.image = some image → p.hbmRails = true → p.colRails = true →
        isAwake s = true →
        (s.life.step = 1 → stackFails = true ∨ 4 < pcs.eraseDups.length → ∃ t, exec c s = .next t ∧ t.life.state = some .halted ∧
          t.life.failCode = if stackFails then 0x10 else 0x11) ∧
        (s.life.step = 1 → stackFails = false → pcs.eraseDups.length ≤ 4 → ∃ t, exec c s = .next t ∧
          t = { s with life := { s.life with step := 2 }, hbm := t.hbm, run := t.run, out := s.out ++ [.uart s.tally] } ∧
          t.hbm.trained = true ∧ t.hbm.mem = [] ∧ t.hbm.bad = [] ∧ t.hbm.repaired = lanes ∧ t.hbm.retired = pcs.eraseDups.map (·.1) ∧
          t.run = { s.run with laneRepairs := sat64 s.run.laneRepairs lanes.length
                               pcRetired := sat64 s.run.pcRetired pcs.eraseDups.length }) ∧
        (s.life.step = 2 → exec c s = .next { s with
          hbm := { s.hbm with mem := [], bad := [], failed := [] }, life := { s.life with wipeLeft := 0, step := 3 }, out := s.out ++ [.uart s.tally] }) ∧
        (s.life.step ≠ 1 → s.life.step ≠ 2 → ∃ t, exec c s = .next t ∧ t.life = { s.life with state := some .memory, stage := 3, step := 1 } ∧
          t.hbm = { s.hbm with dev := Vector.replicate 2 (devTables s image.bytes) } ∧ t.cores = s.cores ∧
          ∀ i : SiteId, t.sites[i] = if i.1 < 64 then { s.sites[i] with bench := [], bad := [] } else s.sites[i]))) ∧
    (∀ fails cal guard, let c : Instr := .computeStage fails cal guard
      (s.life.state ≠ some .memory ∨ p.colRails = false ∨ isAwake s = false → exec c s = .next s) ∧
      (s.life.state = some .memory → p.colRails = true → isAwake s = true →
        (s.life.step = 1 → ∃ t, exec c s = .next t ∧
          t = { s with sites := t.sites, cores := t.cores, trace := trace0, life := { s.life with step := 2 }, out := s.out ++ [.uart s.tally] } ∧
          (∀ i : SiteId, t.sites[i] = { s.sites[i] with bench := [], bad := [] }) ∧
          ∀ k, t.core k = { core0 with idleSince := some s.tally.toNat }) ∧
        (s.life.step = 2 → exec c s = .next { s with
          life := { s.life with bistFail := fails.eraseDups, step := 3 }, out := s.out ++ [.uart s.tally] }) ∧
        (s.life.step = 3 → ∃ t, exec c s = .next t ∧ t = { s with life := t.life, out := s.out ++ [.uart s.tally] } ∧
          t.life = { s.life with step := 4, masks := t.life.masks, slide := t.life.slide } ∧
          (∀ (k : Fin 16) (row : Fin 13), (t.life.masks[k]).getLsbD row.1 = ((p.domains[k]).lost || (spareMask s k).getLsbD row.1 ||
            s.life.bistFail.any fun i => decide (i.1 = 16 * row.1 + k.1))) ∧
          ∀ k : Fin 16, t.life.slide[k] = slideOf t.life.masks[k]) ∧
        (s.life.step ∉ [1, 2, 3] → ∃ t, exec c s = .next t ∧ t.hbm = s.hbm ∧ t.sites = s.sites ∧ t.cores = s.cores ∧
          t.life.stage = 0 ∧ t.life.step = 0 ∧
          (cal = false → t.life.state = some .halted ∧ t.life.failCode = 0x21) ∧
          (cal = true → t.power.level = 0 ∧ t.power.settings = 0 ∧ t.power.requested = 0 ∧ t.power.guardBand = min guard 4 ∧
            if anyExhausted s then t.life.state = some .degraded ∧ t.life.failCode = 0x20 else t.life.state = some .compute))))
end

