-- ==== Sys2Proof/Laws/Memory.lean ====
section
/-! SUPPORT. Memories: every operation keeps the canonical form, and what is read after a write. -/
namespace Sys2Proof.Machine

/-- Cells that lie in a range. -/
def Memory.within (m : Memory) (a n : Nat) : Prop := ∀ c ∈ m, a ≤ c.1 ∧ c.1 < a + n

theorem Memory.wf_nil : Memory.wf [] := ⟨List.Pairwise.nil, by simp⟩

theorem Memory.wf_tail {c : Host.Cell} {m : Memory} (h : Memory.wf (c :: m)) : Memory.wf m :=
  ⟨(List.pairwise_cons.1 h.1).2, fun x hx => h.2 x (List.mem_cons_of_mem _ hx)⟩

theorem Memory.wf_sublist {l m : Memory} (hs : l.Sublist m) (h : Memory.wf m) : Memory.wf l :=
  ⟨h.1.sublist hs, fun c hc => h.2 c (hs.subset hc)⟩

theorem Memory.wf_append {l m : Memory} (hl : Memory.wf l) (hm : Memory.wf m) (h : ∀ x ∈ l, ∀ y ∈ m, x.1 < y.1) :
    Memory.wf (l ++ m) :=
  ⟨List.pairwise_append.2 ⟨hl.1, hm.1, h⟩, fun c hc => (List.mem_append.1 hc).elim (hl.2 c) (hm.2 c)⟩

theorem Memory.cells_within (a : Nat) (bs : List Byte) : (Memory.cells a bs).within a bs.length := by
  induction bs generalizing a with
  | nil => intro c hc; simp [Memory.cells] at hc
  | cons b bs ih =>
    intro c hc
    have hrest : c ∈ Memory.cells (a + 1) bs → a ≤ c.1 ∧ c.1 < a + (bs.length + 1) := fun h => by
      have := ih (a + 1) c h; omega
    simp only [Memory.cells] at hc
    split at hc
    · exact hrest hc
    · rcases List.mem_cons.1 hc with rfl | h
      · simp
      · exact hrest h

theorem Memory.cells_wf (a : Nat) (bs : List Byte) : (Memory.cells a bs).wf := by
  induction bs generalizing a with
  | nil => exact Memory.wf_nil
  | cons b bs ih =>
    simp only [Memory.cells]
    split
    · exact ih _
    · refine Memory.wf_append (l := [(a, b)]) ⟨List.pairwise_singleton _ _, by simpa⟩ (ih _) ?_
      intro x hx y hy
      have := Memory.cells_within (a + 1) bs y hy
      simp only [List.mem_singleton] at hx
      subst hx
      show a < y.1
      omega

theorem Memory.mem_takeWhile_lt {m : Memory} {a : Nat} {c : Host.Cell} (h : c ∈ m.takeWhile (·.1 < a)) : c.1 < a := by
  simpa using List.mem_takeWhile_imp h

theorem Memory.takeWhile_eq_filter {m : Memory} (h : m.wf) (a : Nat) :
    m.takeWhile (·.1 < a) = m.filter (·.1 < a) := by
  induction m with
  | nil => rfl
  | cons c m ih =>
    by_cases hc : c.1 < a
    · simp [hc, ih (Memory.wf_tail h)]
    · have : m.filter (·.1 < a) = [] := by
        refine List.filter_eq_nil_iff.2 fun y hy => ?_
        have := (List.pairwise_cons.1 h.1).1 y hy
        simp; omega
      simp [hc, this]

theorem Memory.dropWhile_eq_filter {m : Memory} (h : m.wf) (a : Nat) :
    m.dropWhile (·.1 < a) = m.filter (a ≤ ·.1) := by
  induction m with
  | nil => rfl
  | cons c m ih =>
    by_cases hc : c.1 < a
    · have : ¬ a ≤ c.1 := by omega
      simp [hc, this, ih (Memory.wf_tail h)]
    · have : m.filter (a ≤ ·.1) = m := by
        refine List.filter_eq_self.2 fun y hy => ?_
        have := (List.pairwise_cons.1 h.1).1 y hy
        simp; omega
      have h2 : a ≤ c.1 := by omega
      simp [hc, h2, this]

/-- Which cells a memory holds after `place`. -/
theorem Memory.mem_place {m : Memory} (h : m.wf) (a n : Nat) (cs : Memory) (c : Host.Cell) :
    c ∈ m.place a n cs ↔ c ∈ cs ∨ (c ∈ m ∧ ¬ (a ≤ c.1 ∧ c.1 < a + n)) := by
  simp only [Memory.place, Memory.takeWhile_eq_filter h, Memory.dropWhile_eq_filter h, List.mem_append, List.mem_filter,
    decide_eq_true_eq]
  constructor
  · rintro ((⟨h1, h2⟩ | h1) | ⟨h1, h2⟩)
    · exact .inr ⟨h1, by omega⟩
    · exact .inl h1
    · exact .inr ⟨h1, by omega⟩
  · rintro (h1 | ⟨h1, h2⟩)
    · exact .inl (.inr h1)
    · by_cases h3 : c.1 < a
      · exact .inl (.inl ⟨h1, h3⟩)
      · exact .inr ⟨h1, by omega⟩

/-- Canonical cells put over a range that holds them keep the canonical form. -/
theorem Memory.place_wf {m cs : Memory} {a n : Nat} (h : m.wf) (hc : cs.wf) (hi : cs.within a n) : (m.place a n cs).wf := by
  unfold Memory.place
  refine Memory.wf_append (Memory.wf_append (Memory.wf_sublist (List.takeWhile_sublist _) h) hc ?_)
    (Memory.wf_sublist (List.dropWhile_sublist _) h) ?_
  · intro x hx y hy
    have := Memory.mem_takeWhile_lt hx
    have := hi y hy
    omega
  · intro x hx y hy
    rw [Memory.dropWhile_eq_filter h] at hy
    have hy' : a + n ≤ y.1 := by simpa using (List.mem_filter.1 hy).2
    rcases List.mem_append.1 hx with hx | hx
    · have := Memory.mem_takeWhile_lt hx; omega
    · have := hi x hx; omega

theorem Memory.write_wf {m : Memory} (h : m.wf) (a : Nat) (bs : List Byte) : (m.write a bs).wf :=
  Memory.place_wf h (Memory.cells_wf a bs) (Memory.cells_within a bs)

theorem Memory.clear_wf {m : Memory} (h : m.wf) (a n : Nat) : (m.clear a n).wf :=
  Memory.place_wf h Memory.wf_nil (by intro c hc; simp at hc)

theorem Memory.window_wf {m : Memory} (h : m.wf) (a n : Nat) : (m.window a n).wf :=
  Memory.wf_sublist ((List.takeWhile_sublist _).trans (List.dropWhile_sublist _)) h

theorem Memory.window_within {m : Memory} (h : m.wf) (a n : Nat) : (m.window a n).within a n := by
  intro c hc
  unfold Memory.window at hc
  have h1 : c.1 < a + n := by simpa using List.mem_takeWhile_imp hc
  have h2 := List.takeWhile_sublist _ |>.subset hc
  rw [Memory.dropWhile_eq_filter h] at h2
  exact ⟨by simpa using (List.mem_filter.1 h2).2, h1⟩

/-- The cells of a window, moved to another base. -/
theorem Memory.moved_wf {m : Memory} {a n : Nat} (h : m.wf) (hi : m.within a n) (b : Nat) :
    Memory.wf (m.map fun (k, x) => (k - a + b, x)) := by
  refine ⟨List.pairwise_map.2 (h.1.imp_of_mem ?_), ?_⟩
  · intro x y hx hy hxy
    have := hi x hx
    have := hi y hy
    show x.1 - a + b < y.1 - a + b
    omega
  · intro c hc
    obtain ⟨d, hd, rfl⟩ := List.mem_map.1 hc
    exact h.2 d hd

theorem Memory.moved_within {m : Memory} {a n : Nat} (hi : m.within a n) (b : Nat) :
    Memory.within (m.map fun (k, x) => (k - a + b, x)) b n := by
  intro c hc
  obtain ⟨d, hd, rfl⟩ := List.mem_map.1 hc
  have := hi d hd
  show b ≤ d.1 - a + b ∧ d.1 - a + b < b + n
  omega

theorem Memory.copy_wf {m : Memory} (h : m.wf) (src dst n : Nat) : (m.copy src dst n).wf :=
  Memory.place_wf h (Memory.moved_wf (Memory.window_wf h src n) (Memory.window_within h src n) dst)
    (Memory.moved_within (Memory.window_within h src n) dst)

theorem Memory.get_cons (c : Host.Cell) (m : Memory) (x : Nat) :
    Memory.get (c :: m) x = if x = c.1 then c.2 else Memory.get m x := by
  obtain ⟨k, b⟩ := c
  unfold Memory.get
  by_cases hx : x = k
  · subst hx; simp [List.lookup]
  · have hb : (x == k) = false := beq_false_of_ne hx
    simp [List.lookup, hb, hx]

/-- A byte of a canonical memory is nonzero exactly where a cell says so. -/
theorem Memory.get_eq_iff {m : Memory} (h : m.wf) (x : Nat) {b : Byte} (hb : b ≠ 0) : m.get x = b ↔ (x, b) ∈ m := by
  induction m with
  | nil => simp [Memory.get]; exact fun h => hb h.symm
  | cons c m ih =>
    obtain ⟨k, v⟩ := c
    rw [Memory.get_cons, List.mem_cons]
    by_cases hx : x = k
    · subst hx
      have : ∀ b, (x, b) ∉ m := fun b hm => absurd ((List.pairwise_cons.1 h.1).1 _ hm) (by simp)
      simp [this]; exact eq_comm
    · simp [hx, ih (Memory.wf_tail h)]

theorem Memory.get_ext {m : Memory} (h : m.wf) (x : Nat) {n : Memory} (hn : n.wf) (he : ∀ b, (x, b) ∈ m ↔ (x, b) ∈ n) :
    m.get x = n.get x := by
  by_cases hb : m.get x = 0
  · by_cases hc : n.get x = 0
    · rw [hb, hc]
    · exact (Memory.get_eq_iff h x hc).2 ((he _).2 ((Memory.get_eq_iff hn x hc).1 rfl))
  · exact ((Memory.get_eq_iff hn x hb).2 ((he _).1 ((Memory.get_eq_iff h x hb).1 rfl))).symm

/-- Outside the range of `place` every byte is as before. -/
theorem Memory.get_place_out {m cs : Memory} {a n : Nat} (h : m.wf) (hc : cs.wf) (hi : cs.within a n) {x : Nat}
    (hx : ¬ (a ≤ x ∧ x < a + n)) : (m.place a n cs).get x = m.get x := by
  refine Memory.get_ext (Memory.place_wf h hc hi) x h fun b => ?_
  rw [Memory.mem_place h]
  constructor
  · rintro (h1 | h1)
    · exact absurd (hi _ h1) hx
    · exact h1.1
  · exact fun h1 => .inr ⟨h1, hx⟩

/-- Inside the range every byte is what the cells say. -/
theorem Memory.get_place_in {m cs : Memory} {a n : Nat} (h : m.wf) (hc : cs.wf) (hi : cs.within a n) {x : Nat}
    (hx : a ≤ x ∧ x < a + n) : (m.place a n cs).get x = cs.get x := by
  refine Memory.get_ext (Memory.place_wf h hc hi) x hc fun b => ?_
  rw [Memory.mem_place h]
  constructor
  · rintro (h1 | h1)
    · exact h1
    · exact absurd hx h1.2
  · exact .inl

theorem Memory.get_cells (a : Nat) (bs : List Byte) (i : Nat) : (Memory.cells a bs).get (a + i) = bs.getD i 0 := by
  induction bs generalizing a i with
  | nil => simp [Memory.cells, Memory.get]
  | cons b bs ih =>
    have hlow : (Memory.cells (a + 1) bs).get a = 0 := by
      by_contra hne
      have := Memory.cells_within (a + 1) bs _ ((Memory.get_eq_iff (Memory.cells_wf _ _) a hne).1 rfl)
      simp at this
    simp only [Memory.cells]
    cases i with
    | zero =>
      split
      · next h => simpa [h] using hlow
      · simp [Memory.get_cons]
    | succ i =>
      have e : a + (i + 1) = a + 1 + i := by omega
      split
      · rw [e, ih]; simp
      · rw [Memory.get_cons, if_neg (by show ¬ a + (i + 1) = a; omega), e, ih]; simp

/-- A read after a write, byte by byte. -/
theorem Memory.get_write {m : Memory} (h : m.wf) (a : Nat) (bs : List Byte) (x : Nat) :
    (m.write a bs).get x = if a ≤ x ∧ x < a + bs.length then bs.getD (x - a) 0 else m.get x := by
  unfold Memory.write
  split
  · next hx =>
    rw [Memory.get_place_in h (Memory.cells_wf a bs) (Memory.cells_within a bs) hx]
    have := Memory.get_cells a bs (x - a)
    rwa [show a + (x - a) = x by omega] at this
  · next hx => exact Memory.get_place_out h (Memory.cells_wf a bs) (Memory.cells_within a bs) hx

theorem Memory.get_clear {m : Memory} (h : m.wf) (a n x : Nat) :
    (m.clear a n).get x = if a ≤ x ∧ x < a + n then 0 else m.get x := by
  unfold Memory.clear
  split
  · next hx => rw [Memory.get_place_in h Memory.wf_nil (by intro c hc; simp at hc) hx]; rfl
  · next hx => exact Memory.get_place_out h Memory.wf_nil (by intro c hc; simp at hc) hx

@[simp] theorem Memory.expand_length (n a : Nat) (m : Memory) : (Memory.expand n a m).length = n := by
  induction n generalizing a m with
  | zero => simp [Memory.expand]
  | succ n ih => cases m with
    | nil => simp [Memory.expand, ih]
    | cons c m => simp only [Memory.expand]; split <;> simp [ih]

@[simp] theorem Memory.read_length (m : Memory) (a n : Nat) : (m.read a n).length = n := by simp [Memory.read]

theorem Memory.expand_getD {m : Memory} (h : m.wf) (n a i : Nat) (hlow : ∀ c ∈ m, a ≤ c.1) (hi : i < n) :
    (Memory.expand n a m).getD i 0 = m.get (a + i) := by
  induction n generalizing a m i with
  | zero => omega
  | succ n ih =>
    cases m with
    | nil =>
      cases i with
      | zero => simp [Memory.expand, Memory.get]
      | succ i =>
        have := ih (m := []) h (a + 1) i (by simp) (by omega)
        rw [show a + (i + 1) = a + 1 + i by omega]
        simpa [Memory.expand] using this
    | cons c m =>
      obtain ⟨k, b⟩ := c
      have hk : a ≤ k := hlow (k, b) (by simp)
      have hrise : ∀ d ∈ m, k < d.1 := fun d hd => (List.pairwise_cons.1 h.1).1 d hd
      simp only [Memory.expand]
      split
      · next he =>
        subst he
        cases i with
        | zero => simp [Memory.get_cons]
        | succ i =>
          rw [List.getD_cons_succ, ih (Memory.wf_tail h) (k + 1) i (fun d hd => hrise d hd) (by omega), Memory.get_cons,
            if_neg (by show ¬ k + (i + 1) = k; omega), show k + (i + 1) = k + 1 + i by omega]
      · next he =>
        cases i with
        | zero =>
          have hz : Memory.get ((k, b) :: m) (a + 0) = 0 := by
            by_contra hne
            have hm := (Memory.get_eq_iff h (a + 0) hne).1 rfl
            rcases List.mem_cons.1 hm with e | e
            · have := congrArg Prod.fst e; simp at this; omega
            · have := hrise _ e; simp at this; omega
          rw [hz]; simp
        | succ i =>
          rw [List.getD_cons_succ, ih h (a + 1) i ?_ (by omega), show a + (i + 1) = a + 1 + i by omega]
          intro d hd
          rcases List.mem_cons.1 hd with rfl | e
          · show a + 1 ≤ k; omega
          · have := hrise d e; omega

/-- A read of a canonical memory gives its bytes. -/
theorem Memory.read_getD {m : Memory} (h : m.wf) (a n i : Nat) (hi : i < n) : (m.read a n).getD i 0 = m.get (a + i) := by
  unfold Memory.read
  rw [Memory.expand_getD (Memory.wf_sublist (List.dropWhile_sublist _) h) n a i ?_ hi]
  · refine Memory.get_ext (Memory.wf_sublist (List.dropWhile_sublist _) h) _ h fun b => ?_
    rw [Memory.dropWhile_eq_filter h]; simp
  · intro c hc; rw [Memory.dropWhile_eq_filter h] at hc; simpa using (List.mem_filter.1 hc).2

/-- What has been written is read back. -/
theorem Memory.read_write {m : Memory} (h : m.wf) (a : Nat) (bs : List Byte) : (m.write a bs).read a bs.length = bs := by
  refine List.ext_getElem (by simp) fun i h1 h2 => ?_
  have h3 := Memory.read_getD (Memory.write_wf h a bs) a bs.length i h2
  rw [Memory.get_write h, if_pos (by omega), show a + i - a = i by omega] at h3
  simpa [List.getD_eq_getElem?_getD, List.getElem?_eq_getElem h1, List.getElem?_eq_getElem h2] using h3

/-- A write elsewhere leaves what is read. -/
theorem Memory.read_write_out {m : Memory} (h : m.wf) (a b n : Nat) (bs : List Byte)
    (hd : b + n ≤ a ∨ a + bs.length ≤ b) : (m.write a bs).read b n = m.read b n := by
  refine List.ext_getElem (by simp) fun i h1 h2 => ?_
  have hi : i < n := by simpa using h2
  have e1 := Memory.read_getD (Memory.write_wf h a bs) b n i hi
  have e2 := Memory.read_getD h b n i hi
  rw [Memory.get_write h, if_neg (by omega), ← e2] at e1
  simpa [List.getD_eq_getElem?_getD, List.getElem?_eq_getElem h1, List.getElem?_eq_getElem h2] using e1

end Sys2Proof.Machine
end

