-- ==== Sys2Proof/Laws/State.lean ====
section
/-! SUPPORT. What the named updates of State leave as it was: one lemma per field and update. -/
namespace Sys2Proof.Machine

variable (s : State)

@[simp] theorem State.setCore_pending (c : CoreId) (k : Core) : (s.setCore c k).pending = s.pending := rfl
@[simp] theorem State.setCore_tally (c : CoreId) (k : Core) : (s.setCore c k).tally = s.tally := rfl
@[simp] theorem State.setCore_tallyPrev (c : CoreId) (k : Core) : (s.setCore c k).tallyPrev = s.tallyPrev := rfl
@[simp] theorem State.setCore_align (c : CoreId) (k : Core) : (s.setCore c k).align = s.align := rfl
@[simp] theorem State.setCore_life (c : CoreId) (k : Core) : (s.setCore c k).life = s.life := rfl
@[simp] theorem State.setCore_power (c : CoreId) (k : Core) : (s.setCore c k).power = s.power := rfl
@[simp] theorem State.setCore_sites (c : CoreId) (k : Core) : (s.setCore c k).sites = s.sites := rfl
@[simp] theorem State.setCore_bufs (c : CoreId) (k : Core) : (s.setCore c k).bufs = s.bufs := rfl
@[simp] theorem State.setCore_hbm (c : CoreId) (k : Core) : (s.setCore c k).hbm = s.hbm := rfl
@[simp] theorem State.setCore_regions (c : CoreId) (k : Core) : (s.setCore c k).regions = s.regions := rfl
@[simp] theorem State.setCore_subs (c : CoreId) (k : Core) : (s.setCore c k).subs = s.subs := rfl
@[simp] theorem State.setCore_comps (c : CoreId) (k : Core) : (s.setCore c k).comps = s.comps := rfl
@[simp] theorem State.setCore_msix (c : CoreId) (k : Core) : (s.setCore c k).msix = s.msix := rfl
@[simp] theorem State.setCore_hifPoll (c : CoreId) (k : Core) : (s.setCore c k).hifPoll = s.hifPoll := rfl
@[simp] theorem State.setCore_cacheOn (c : CoreId) (k : Core) : (s.setCore c k).cacheOn = s.cacheOn := rfl
@[simp] theorem State.setCore_hdmOn (c : CoreId) (k : Core) : (s.setCore c k).hdmOn = s.hdmOn := rfl
@[simp] theorem State.setCore_hdmBase (c : CoreId) (k : Core) : (s.setCore c k).hdmBase = s.hdmBase := rfl
@[simp] theorem State.setCore_hdmSize (c : CoreId) (k : Core) : (s.setCore c k).hdmSize = s.hdmSize := rfl
@[simp] theorem State.setCore_hdmDecoder (c : CoreId) (k : Core) : (s.setCore c k).hdmDecoder = s.hdmDecoder := rfl
@[simp] theorem State.setCore_lastRing (c : CoreId) (k : Core) : (s.setCore c k).lastRing = s.lastRing := rfl
@[simp] theorem State.setCore_items (c : CoreId) (k : Core) : (s.setCore c k).items = s.items := rfl
@[simp] theorem State.setCore_nextItem (c : CoreId) (k : Core) : (s.setCore c k).nextItem = s.nextItem := rfl
@[simp] theorem State.setCore_seq (c : CoreId) (k : Core) : (s.setCore c k).seq = s.seq := rfl
@[simp] theorem State.setCore_launch (c : CoreId) (k : Core) : (s.setCore c k).launch = s.launch := rfl
@[simp] theorem State.setCore_bound (c : CoreId) (k : Core) : (s.setCore c k).bound = s.bound := rfl
@[simp] theorem State.setCore_fabric (c : CoreId) (k : Core) : (s.setCore c k).fabric = s.fabric := rfl
@[simp] theorem State.setCore_red (c : CoreId) (k : Core) : (s.setCore c k).red = s.red := rfl
@[simp] theorem State.setCore_ctrs (c : CoreId) (k : Core) : (s.setCore c k).ctrs = s.ctrs := rfl
@[simp] theorem State.setCore_ctrsOld (c : CoreId) (k : Core) : (s.setCore c k).ctrsOld = s.ctrsOld := rfl
@[simp] theorem State.setCore_ctrSeq (c : CoreId) (k : Core) : (s.setCore c k).ctrSeq = s.ctrSeq := rfl
@[simp] theorem State.setCore_ctrSeqOld (c : CoreId) (k : Core) : (s.setCore c k).ctrSeqOld = s.ctrSeqOld := rfl
@[simp] theorem State.setCore_run (c : CoreId) (k : Core) : (s.setCore c k).run = s.run := rfl
@[simp] theorem State.setCore_trace (c : CoreId) (k : Core) : (s.setCore c k).trace = s.trace := rfl
@[simp] theorem State.setCore_obs (c : CoreId) (k : Core) : (s.setCore c k).obs = s.obs := rfl
@[simp] theorem State.setCore_sec (c : CoreId) (k : Core) : (s.setCore c k).sec = s.sec := rfl
@[simp] theorem State.setCore_side (c : CoreId) (k : Core) : (s.setCore c k).side = s.side := rfl
@[simp] theorem State.setCore_out (c : CoreId) (k : Core) : (s.setCore c k).out = s.out := rfl

@[simp] theorem State.modCore_pending (c : CoreId) (f : Core → Core) : (s.modCore c f).pending = s.pending := rfl
@[simp] theorem State.modCore_tally (c : CoreId) (f : Core → Core) : (s.modCore c f).tally = s.tally := rfl
@[simp] theorem State.modCore_tallyPrev (c : CoreId) (f : Core → Core) : (s.modCore c f).tallyPrev = s.tallyPrev := rfl
@[simp] theorem State.modCore_align (c : CoreId) (f : Core → Core) : (s.modCore c f).align = s.align := rfl
@[simp] theorem State.modCore_life (c : CoreId) (f : Core → Core) : (s.modCore c f).life = s.life := rfl
@[simp] theorem State.modCore_power (c : CoreId) (f : Core → Core) : (s.modCore c f).power = s.power := rfl
@[simp] theorem State.modCore_sites (c : CoreId) (f : Core → Core) : (s.modCore c f).sites = s.sites := rfl
@[simp] theorem State.modCore_bufs (c : CoreId) (f : Core → Core) : (s.modCore c f).bufs = s.bufs := rfl
@[simp] theorem State.modCore_hbm (c : CoreId) (f : Core → Core) : (s.modCore c f).hbm = s.hbm := rfl
@[simp] theorem State.modCore_regions (c : CoreId) (f : Core → Core) : (s.modCore c f).regions = s.regions := rfl
@[simp] theorem State.modCore_subs (c : CoreId) (f : Core → Core) : (s.modCore c f).subs = s.subs := rfl
@[simp] theorem State.modCore_comps (c : CoreId) (f : Core → Core) : (s.modCore c f).comps = s.comps := rfl
@[simp] theorem State.modCore_msix (c : CoreId) (f : Core → Core) : (s.modCore c f).msix = s.msix := rfl
@[simp] theorem State.modCore_hifPoll (c : CoreId) (f : Core → Core) : (s.modCore c f).hifPoll = s.hifPoll := rfl
@[simp] theorem State.modCore_cacheOn (c : CoreId) (f : Core → Core) : (s.modCore c f).cacheOn = s.cacheOn := rfl
@[simp] theorem State.modCore_hdmOn (c : CoreId) (f : Core → Core) : (s.modCore c f).hdmOn = s.hdmOn := rfl
@[simp] theorem State.modCore_hdmBase (c : CoreId) (f : Core → Core) : (s.modCore c f).hdmBase = s.hdmBase := rfl
@[simp] theorem State.modCore_hdmSize (c : CoreId) (f : Core → Core) : (s.modCore c f).hdmSize = s.hdmSize := rfl
@[simp] theorem State.modCore_hdmDecoder (c : CoreId) (f : Core → Core) : (s.modCore c f).hdmDecoder = s.hdmDecoder := rfl
@[simp] theorem State.modCore_lastRing (c : CoreId) (f : Core → Core) : (s.modCore c f).lastRing = s.lastRing := rfl
@[simp] theorem State.modCore_items (c : CoreId) (f : Core → Core) : (s.modCore c f).items = s.items := rfl
@[simp] theorem State.modCore_nextItem (c : CoreId) (f : Core → Core) : (s.modCore c f).nextItem = s.nextItem := rfl
@[simp] theorem State.modCore_seq (c : CoreId) (f : Core → Core) : (s.modCore c f).seq = s.seq := rfl
@[simp] theorem State.modCore_launch (c : CoreId) (f : Core → Core) : (s.modCore c f).launch = s.launch := rfl
@[simp] theorem State.modCore_bound (c : CoreId) (f : Core → Core) : (s.modCore c f).bound = s.bound := rfl
@[simp] theorem State.modCore_fabric (c : CoreId) (f : Core → Core) : (s.modCore c f).fabric = s.fabric := rfl
@[simp] theorem State.modCore_red (c : CoreId) (f : Core → Core) : (s.modCore c f).red = s.red := rfl
@[simp] theorem State.modCore_ctrs (c : CoreId) (f : Core → Core) : (s.modCore c f).ctrs = s.ctrs := rfl
@[simp] theorem State.modCore_ctrsOld (c : CoreId) (f : Core → Core) : (s.modCore c f).ctrsOld = s.ctrsOld := rfl
@[simp] theorem State.modCore_ctrSeq (c : CoreId) (f : Core → Core) : (s.modCore c f).ctrSeq = s.ctrSeq := rfl
@[simp] theorem State.modCore_ctrSeqOld (c : CoreId) (f : Core → Core) : (s.modCore c f).ctrSeqOld = s.ctrSeqOld := rfl
@[simp] theorem State.modCore_run (c : CoreId) (f : Core → Core) : (s.modCore c f).run = s.run := rfl
@[simp] theorem State.modCore_trace (c : CoreId) (f : Core → Core) : (s.modCore c f).trace = s.trace := rfl
@[simp] theorem State.modCore_obs (c : CoreId) (f : Core → Core) : (s.modCore c f).obs = s.obs := rfl
@[simp] theorem State.modCore_sec (c : CoreId) (f : Core → Core) : (s.modCore c f).sec = s.sec := rfl
@[simp] theorem State.modCore_side (c : CoreId) (f : Core → Core) : (s.modCore c f).side = s.side := rfl
@[simp] theorem State.modCore_out (c : CoreId) (f : Core → Core) : (s.modCore c f).out = s.out := rfl

@[simp] theorem State.setTh_pending (r : ThRef) (t : Thread) : (s.setTh r t).pending = s.pending := rfl
@[simp] theorem State.setTh_tally (r : ThRef) (t : Thread) : (s.setTh r t).tally = s.tally := rfl
@[simp] theorem State.setTh_tallyPrev (r : ThRef) (t : Thread) : (s.setTh r t).tallyPrev = s.tallyPrev := rfl
@[simp] theorem State.setTh_align (r : ThRef) (t : Thread) : (s.setTh r t).align = s.align := rfl
@[simp] theorem State.setTh_life (r : ThRef) (t : Thread) : (s.setTh r t).life = s.life := rfl
@[simp] theorem State.setTh_power (r : ThRef) (t : Thread) : (s.setTh r t).power = s.power := rfl
@[simp] theorem State.setTh_sites (r : ThRef) (t : Thread) : (s.setTh r t).sites = s.sites := rfl
@[simp] theorem State.setTh_bufs (r : ThRef) (t : Thread) : (s.setTh r t).bufs = s.bufs := rfl
@[simp] theorem State.setTh_hbm (r : ThRef) (t : Thread) : (s.setTh r t).hbm = s.hbm := rfl
@[simp] theorem State.setTh_regions (r : ThRef) (t : Thread) : (s.setTh r t).regions = s.regions := rfl
@[simp] theorem State.setTh_subs (r : ThRef) (t : Thread) : (s.setTh r t).subs = s.subs := rfl
@[simp] theorem State.setTh_comps (r : ThRef) (t : Thread) : (s.setTh r t).comps = s.comps := rfl
@[simp] theorem State.setTh_msix (r : ThRef) (t : Thread) : (s.setTh r t).msix = s.msix := rfl
@[simp] theorem State.setTh_hifPoll (r : ThRef) (t : Thread) : (s.setTh r t).hifPoll = s.hifPoll := rfl
@[simp] theorem State.setTh_cacheOn (r : ThRef) (t : Thread) : (s.setTh r t).cacheOn = s.cacheOn := rfl
@[simp] theorem State.setTh_hdmOn (r : ThRef) (t : Thread) : (s.setTh r t).hdmOn = s.hdmOn := rfl
@[simp] theorem State.setTh_hdmBase (r : ThRef) (t : Thread) : (s.setTh r t).hdmBase = s.hdmBase := rfl
@[simp] theorem State.setTh_hdmSize (r : ThRef) (t : Thread) : (s.setTh r t).hdmSize = s.hdmSize := rfl
@[simp] theorem State.setTh_hdmDecoder (r : ThRef) (t : Thread) : (s.setTh r t).hdmDecoder = s.hdmDecoder := rfl
@[simp] theorem State.setTh_lastRing (r : ThRef) (t : Thread) : (s.setTh r t).lastRing = s.lastRing := rfl
@[simp] theorem State.setTh_items (r : ThRef) (t : Thread) : (s.setTh r t).items = s.items := rfl
@[simp] theorem State.setTh_nextItem (r : ThRef) (t : Thread) : (s.setTh r t).nextItem = s.nextItem := rfl
@[simp] theorem State.setTh_seq (r : ThRef) (t : Thread) : (s.setTh r t).seq = s.seq := rfl
@[simp] theorem State.setTh_launch (r : ThRef) (t : Thread) : (s.setTh r t).launch = s.launch := rfl
@[simp] theorem State.setTh_bound (r : ThRef) (t : Thread) : (s.setTh r t).bound = s.bound := rfl
@[simp] theorem State.setTh_fabric (r : ThRef) (t : Thread) : (s.setTh r t).fabric = s.fabric := rfl
@[simp] theorem State.setTh_red (r : ThRef) (t : Thread) : (s.setTh r t).red = s.red := rfl
@[simp] theorem State.setTh_ctrs (r : ThRef) (t : Thread) : (s.setTh r t).ctrs = s.ctrs := rfl
@[simp] theorem State.setTh_ctrsOld (r : ThRef) (t : Thread) : (s.setTh r t).ctrsOld = s.ctrsOld := rfl
@[simp] theorem State.setTh_ctrSeq (r : ThRef) (t : Thread) : (s.setTh r t).ctrSeq = s.ctrSeq := rfl
@[simp] theorem State.setTh_ctrSeqOld (r : ThRef) (t : Thread) : (s.setTh r t).ctrSeqOld = s.ctrSeqOld := rfl
@[simp] theorem State.setTh_run (r : ThRef) (t : Thread) : (s.setTh r t).run = s.run := rfl
@[simp] theorem State.setTh_trace (r : ThRef) (t : Thread) : (s.setTh r t).trace = s.trace := rfl
@[simp] theorem State.setTh_obs (r : ThRef) (t : Thread) : (s.setTh r t).obs = s.obs := rfl
@[simp] theorem State.setTh_sec (r : ThRef) (t : Thread) : (s.setTh r t).sec = s.sec := rfl
@[simp] theorem State.setTh_side (r : ThRef) (t : Thread) : (s.setTh r t).side = s.side := rfl
@[simp] theorem State.setTh_out (r : ThRef) (t : Thread) : (s.setTh r t).out = s.out := rfl

@[simp] theorem State.modTh_pending (r : ThRef) (f : Thread → Thread) : (s.modTh r f).pending = s.pending := rfl
@[simp] theorem State.modTh_tally (r : ThRef) (f : Thread → Thread) : (s.modTh r f).tally = s.tally := rfl
@[simp] theorem State.modTh_tallyPrev (r : ThRef) (f : Thread → Thread) : (s.modTh r f).tallyPrev = s.tallyPrev := rfl
@[simp] theorem State.modTh_align (r : ThRef) (f : Thread → Thread) : (s.modTh r f).align = s.align := rfl
@[simp] theorem State.modTh_life (r : ThRef) (f : Thread → Thread) : (s.modTh r f).life = s.life := rfl
@[simp] theorem State.modTh_power (r : ThRef) (f : Thread → Thread) : (s.modTh r f).power = s.power := rfl
@[simp] theorem State.modTh_sites (r : ThRef) (f : Thread → Thread) : (s.modTh r f).sites = s.sites := rfl
@[simp] theorem State.modTh_bufs (r : ThRef) (f : Thread → Thread) : (s.modTh r f).bufs = s.bufs := rfl
@[simp] theorem State.modTh_hbm (r : ThRef) (f : Thread → Thread) : (s.modTh r f).hbm = s.hbm := rfl
@[simp] theorem State.modTh_regions (r : ThRef) (f : Thread → Thread) : (s.modTh r f).regions = s.regions := rfl
@[simp] theorem State.modTh_subs (r : ThRef) (f : Thread → Thread) : (s.modTh r f).subs = s.subs := rfl
@[simp] theorem State.modTh_comps (r : ThRef) (f : Thread → Thread) : (s.modTh r f).comps = s.comps := rfl
@[simp] theorem State.modTh_msix (r : ThRef) (f : Thread → Thread) : (s.modTh r f).msix = s.msix := rfl
@[simp] theorem State.modTh_hifPoll (r : ThRef) (f : Thread → Thread) : (s.modTh r f).hifPoll = s.hifPoll := rfl
@[simp] theorem State.modTh_cacheOn (r : ThRef) (f : Thread → Thread) : (s.modTh r f).cacheOn = s.cacheOn := rfl
@[simp] theorem State.modTh_hdmOn (r : ThRef) (f : Thread → Thread) : (s.modTh r f).hdmOn = s.hdmOn := rfl
@[simp] theorem State.modTh_hdmBase (r : ThRef) (f : Thread → Thread) : (s.modTh r f).hdmBase = s.hdmBase := rfl
@[simp] theorem State.modTh_hdmSize (r : ThRef) (f : Thread → Thread) : (s.modTh r f).hdmSize = s.hdmSize := rfl
@[simp] theorem State.modTh_hdmDecoder (r : ThRef) (f : Thread → Thread) : (s.modTh r f).hdmDecoder = s.hdmDecoder := rfl
@[simp] theorem State.modTh_lastRing (r : ThRef) (f : Thread → Thread) : (s.modTh r f).lastRing = s.lastRing := rfl
@[simp] theorem State.modTh_items (r : ThRef) (f : Thread → Thread) : (s.modTh r f).items = s.items := rfl
@[simp] theorem State.modTh_nextItem (r : ThRef) (f : Thread → Thread) : (s.modTh r f).nextItem = s.nextItem := rfl
@[simp] theorem State.modTh_seq (r : ThRef) (f : Thread → Thread) : (s.modTh r f).seq = s.seq := rfl
@[simp] theorem State.modTh_launch (r : ThRef) (f : Thread → Thread) : (s.modTh r f).launch = s.launch := rfl
@[simp] theorem State.modTh_bound (r : ThRef) (f : Thread → Thread) : (s.modTh r f).bound = s.bound := rfl
@[simp] theorem State.modTh_fabric (r : ThRef) (f : Thread → Thread) : (s.modTh r f).fabric = s.fabric := rfl
@[simp] theorem State.modTh_red (r : ThRef) (f : Thread → Thread) : (s.modTh r f).red = s.red := rfl
@[simp] theorem State.modTh_ctrs (r : ThRef) (f : Thread → Thread) : (s.modTh r f).ctrs = s.ctrs := rfl
@[simp] theorem State.modTh_ctrsOld (r : ThRef) (f : Thread → Thread) : (s.modTh r f).ctrsOld = s.ctrsOld := rfl
@[simp] theorem State.modTh_ctrSeq (r : ThRef) (f : Thread → Thread) : (s.modTh r f).ctrSeq = s.ctrSeq := rfl
@[simp] theorem State.modTh_ctrSeqOld (r : ThRef) (f : Thread → Thread) : (s.modTh r f).ctrSeqOld = s.ctrSeqOld := rfl
@[simp] theorem State.modTh_run (r : ThRef) (f : Thread → Thread) : (s.modTh r f).run = s.run := rfl
@[simp] theorem State.modTh_trace (r : ThRef) (f : Thread → Thread) : (s.modTh r f).trace = s.trace := rfl
@[simp] theorem State.modTh_obs (r : ThRef) (f : Thread → Thread) : (s.modTh r f).obs = s.obs := rfl
@[simp] theorem State.modTh_sec (r : ThRef) (f : Thread → Thread) : (s.modTh r f).sec = s.sec := rfl
@[simp] theorem State.modTh_side (r : ThRef) (f : Thread → Thread) : (s.modTh r f).side = s.side := rfl
@[simp] theorem State.modTh_out (r : ThRef) (f : Thread → Thread) : (s.modTh r f).out = s.out := rfl

@[simp] theorem State.modRegs_pending (r : ThRef) (f : Regs → Regs) : (s.modRegs r f).pending = s.pending := rfl
@[simp] theorem State.modRegs_tally (r : ThRef) (f : Regs → Regs) : (s.modRegs r f).tally = s.tally := rfl
@[simp] theorem State.modRegs_tallyPrev (r : ThRef) (f : Regs → Regs) : (s.modRegs r f).tallyPrev = s.tallyPrev := rfl
@[simp] theorem State.modRegs_align (r : ThRef) (f : Regs → Regs) : (s.modRegs r f).align = s.align := rfl
@[simp] theorem State.modRegs_life (r : ThRef) (f : Regs → Regs) : (s.modRegs r f).life = s.life := rfl
@[simp] theorem State.modRegs_power (r : ThRef) (f : Regs → Regs) : (s.modRegs r f).power = s.power := rfl
@[simp] theorem State.modRegs_sites (r : ThRef) (f : Regs → Regs) : (s.modRegs r f).sites = s.sites := rfl
@[simp] theorem State.modRegs_bufs (r : ThRef) (f : Regs → Regs) : (s.modRegs r f).bufs = s.bufs := rfl
@[simp] theorem State.modRegs_hbm (r : ThRef) (f : Regs → Regs) : (s.modRegs r f).hbm = s.hbm := rfl
@[simp] theorem State.modRegs_regions (r : ThRef) (f : Regs → Regs) : (s.modRegs r f).regions = s.regions := rfl
@[simp] theorem State.modRegs_subs (r : ThRef) (f : Regs → Regs) : (s.modRegs r f).subs = s.subs := rfl
@[simp] theorem State.modRegs_comps (r : ThRef) (f : Regs → Regs) : (s.modRegs r f).comps = s.comps := rfl
@[simp] theorem State.modRegs_msix (r : ThRef) (f : Regs → Regs) : (s.modRegs r f).msix = s.msix := rfl
@[simp] theorem State.modRegs_hifPoll (r : ThRef) (f : Regs → Regs) : (s.modRegs r f).hifPoll = s.hifPoll := rfl
@[simp] theorem State.modRegs_cacheOn (r : ThRef) (f : Regs → Regs) : (s.modRegs r f).cacheOn = s.cacheOn := rfl
@[simp] theorem State.modRegs_hdmOn (r : ThRef) (f : Regs → Regs) : (s.modRegs r f).hdmOn = s.hdmOn := rfl
@[simp] theorem State.modRegs_hdmBase (r : ThRef) (f : Regs → Regs) : (s.modRegs r f).hdmBase = s.hdmBase := rfl
@[simp] theorem State.modRegs_hdmSize (r : ThRef) (f : Regs → Regs) : (s.modRegs r f).hdmSize = s.hdmSize := rfl
@[simp] theorem State.modRegs_hdmDecoder (r : ThRef) (f : Regs → Regs) : (s.modRegs r f).hdmDecoder = s.hdmDecoder := rfl
@[simp] theorem State.modRegs_lastRing (r : ThRef) (f : Regs → Regs) : (s.modRegs r f).lastRing = s.lastRing := rfl
@[simp] theorem State.modRegs_items (r : ThRef) (f : Regs → Regs) : (s.modRegs r f).items = s.items := rfl
@[simp] theorem State.modRegs_nextItem (r : ThRef) (f : Regs → Regs) : (s.modRegs r f).nextItem = s.nextItem := rfl
@[simp] theorem State.modRegs_seq (r : ThRef) (f : Regs → Regs) : (s.modRegs r f).seq = s.seq := rfl
@[simp] theorem State.modRegs_launch (r : ThRef) (f : Regs → Regs) : (s.modRegs r f).launch = s.launch := rfl
@[simp] theorem State.modRegs_bound (r : ThRef) (f : Regs → Regs) : (s.modRegs r f).bound = s.bound := rfl
@[simp] theorem State.modRegs_fabric (r : ThRef) (f : Regs → Regs) : (s.modRegs r f).fabric = s.fabric := rfl
@[simp] theorem State.modRegs_red (r : ThRef) (f : Regs → Regs) : (s.modRegs r f).red = s.red := rfl
@[simp] theorem State.modRegs_ctrs (r : ThRef) (f : Regs → Regs) : (s.modRegs r f).ctrs = s.ctrs := rfl
@[simp] theorem State.modRegs_ctrsOld (r : ThRef) (f : Regs → Regs) : (s.modRegs r f).ctrsOld = s.ctrsOld := rfl
@[simp] theorem State.modRegs_ctrSeq (r : ThRef) (f : Regs → Regs) : (s.modRegs r f).ctrSeq = s.ctrSeq := rfl
@[simp] theorem State.modRegs_ctrSeqOld (r : ThRef) (f : Regs → Regs) : (s.modRegs r f).ctrSeqOld = s.ctrSeqOld := rfl
@[simp] theorem State.modRegs_run (r : ThRef) (f : Regs → Regs) : (s.modRegs r f).run = s.run := rfl
@[simp] theorem State.modRegs_trace (r : ThRef) (f : Regs → Regs) : (s.modRegs r f).trace = s.trace := rfl
@[simp] theorem State.modRegs_obs (r : ThRef) (f : Regs → Regs) : (s.modRegs r f).obs = s.obs := rfl
@[simp] theorem State.modRegs_sec (r : ThRef) (f : Regs → Regs) : (s.modRegs r f).sec = s.sec := rfl
@[simp] theorem State.modRegs_side (r : ThRef) (f : Regs → Regs) : (s.modRegs r f).side = s.side := rfl
@[simp] theorem State.modRegs_out (r : ThRef) (f : Regs → Regs) : (s.modRegs r f).out = s.out := rfl

@[simp] theorem State.modLaunch_pending (f : Launch → Launch) : (s.modLaunch f).pending = s.pending := rfl
@[simp] theorem State.modLaunch_tally (f : Launch → Launch) : (s.modLaunch f).tally = s.tally := rfl
@[simp] theorem State.modLaunch_tallyPrev (f : Launch → Launch) : (s.modLaunch f).tallyPrev = s.tallyPrev := rfl
@[simp] theorem State.modLaunch_align (f : Launch → Launch) : (s.modLaunch f).align = s.align := rfl
@[simp] theorem State.modLaunch_life (f : Launch → Launch) : (s.modLaunch f).life = s.life := rfl
@[simp] theorem State.modLaunch_power (f : Launch → Launch) : (s.modLaunch f).power = s.power := rfl
@[simp] theorem State.modLaunch_cores (f : Launch → Launch) : (s.modLaunch f).cores = s.cores := rfl
@[simp] theorem State.modLaunch_sites (f : Launch → Launch) : (s.modLaunch f).sites = s.sites := rfl
@[simp] theorem State.modLaunch_bufs (f : Launch → Launch) : (s.modLaunch f).bufs = s.bufs := rfl
@[simp] theorem State.modLaunch_hbm (f : Launch → Launch) : (s.modLaunch f).hbm = s.hbm := rfl
@[simp] theorem State.modLaunch_regions (f : Launch → Launch) : (s.modLaunch f).regions = s.regions := rfl
@[simp] theorem State.modLaunch_subs (f : Launch → Launch) : (s.modLaunch f).subs = s.subs := rfl
@[simp] theorem State.modLaunch_comps (f : Launch → Launch) : (s.modLaunch f).comps = s.comps := rfl
@[simp] theorem State.modLaunch_msix (f : Launch → Launch) : (s.modLaunch f).msix = s.msix := rfl
@[simp] theorem State.modLaunch_hifPoll (f : Launch → Launch) : (s.modLaunch f).hifPoll = s.hifPoll := rfl
@[simp] theorem State.modLaunch_cacheOn (f : Launch → Launch) : (s.modLaunch f).cacheOn = s.cacheOn := rfl
@[simp] theorem State.modLaunch_hdmOn (f : Launch → Launch) : (s.modLaunch f).hdmOn = s.hdmOn := rfl
@[simp] theorem State.modLaunch_hdmBase (f : Launch → Launch) : (s.modLaunch f).hdmBase = s.hdmBase := rfl
@[simp] theorem State.modLaunch_hdmSize (f : Launch → Launch) : (s.modLaunch f).hdmSize = s.hdmSize := rfl
@[simp] theorem State.modLaunch_hdmDecoder (f : Launch → Launch) : (s.modLaunch f).hdmDecoder = s.hdmDecoder := rfl
@[simp] theorem State.modLaunch_lastRing (f : Launch → Launch) : (s.modLaunch f).lastRing = s.lastRing := rfl
@[simp] theorem State.modLaunch_items (f : Launch → Launch) : (s.modLaunch f).items = s.items := rfl
@[simp] theorem State.modLaunch_nextItem (f : Launch → Launch) : (s.modLaunch f).nextItem = s.nextItem := rfl
@[simp] theorem State.modLaunch_seq (f : Launch → Launch) : (s.modLaunch f).seq = s.seq := rfl
@[simp] theorem State.modLaunch_bound (f : Launch → Launch) : (s.modLaunch f).bound = s.bound := rfl
@[simp] theorem State.modLaunch_fabric (f : Launch → Launch) : (s.modLaunch f).fabric = s.fabric := rfl
@[simp] theorem State.modLaunch_red (f : Launch → Launch) : (s.modLaunch f).red = s.red := rfl
@[simp] theorem State.modLaunch_ctrs (f : Launch → Launch) : (s.modLaunch f).ctrs = s.ctrs := rfl
@[simp] theorem State.modLaunch_ctrsOld (f : Launch → Launch) : (s.modLaunch f).ctrsOld = s.ctrsOld := rfl
@[simp] theorem State.modLaunch_ctrSeq (f : Launch → Launch) : (s.modLaunch f).ctrSeq = s.ctrSeq := rfl
@[simp] theorem State.modLaunch_ctrSeqOld (f : Launch → Launch) : (s.modLaunch f).ctrSeqOld = s.ctrSeqOld := rfl
@[simp] theorem State.modLaunch_run (f : Launch → Launch) : (s.modLaunch f).run = s.run := rfl
@[simp] theorem State.modLaunch_trace (f : Launch → Launch) : (s.modLaunch f).trace = s.trace := rfl
@[simp] theorem State.modLaunch_obs (f : Launch → Launch) : (s.modLaunch f).obs = s.obs := rfl
@[simp] theorem State.modLaunch_sec (f : Launch → Launch) : (s.modLaunch f).sec = s.sec := rfl
@[simp] theorem State.modLaunch_side (f : Launch → Launch) : (s.modLaunch f).side = s.side := rfl
@[simp] theorem State.modLaunch_out (f : Launch → Launch) : (s.modLaunch f).out = s.out := rfl

@[simp] theorem State.emit_pending (o : Output) : (s.emit o).pending = s.pending := rfl
@[simp] theorem State.emit_tally (o : Output) : (s.emit o).tally = s.tally := rfl
@[simp] theorem State.emit_tallyPrev (o : Output) : (s.emit o).tallyPrev = s.tallyPrev := rfl
@[simp] theorem State.emit_align (o : Output) : (s.emit o).align = s.align := rfl
@[simp] theorem State.emit_life (o : Output) : (s.emit o).life = s.life := rfl
@[simp] theorem State.emit_power (o : Output) : (s.emit o).power = s.power := rfl
@[simp] theorem State.emit_cores (o : Output) : (s.emit o).cores = s.cores := rfl
@[simp] theorem State.emit_sites (o : Output) : (s.emit o).sites = s.sites := rfl
@[simp] theorem State.emit_bufs (o : Output) : (s.emit o).bufs = s.bufs := rfl
@[simp] theorem State.emit_hbm (o : Output) : (s.emit o).hbm = s.hbm := rfl
@[simp] theorem State.emit_regions (o : Output) : (s.emit o).regions = s.regions := rfl
@[simp] theorem State.emit_subs (o : Output) : (s.emit o).subs = s.subs := rfl
@[simp] theorem State.emit_comps (o : Output) : (s.emit o).comps = s.comps := rfl
@[simp] theorem State.emit_msix (o : Output) : (s.emit o).msix = s.msix := rfl
@[simp] theorem State.emit_hifPoll (o : Output) : (s.emit o).hifPoll = s.hifPoll := rfl
@[simp] theorem State.emit_cacheOn (o : Output) : (s.emit o).cacheOn = s.cacheOn := rfl
@[simp] theorem State.emit_hdmOn (o : Output) : (s.emit o).hdmOn = s.hdmOn := rfl
@[simp] theorem State.emit_hdmBase (o : Output) : (s.emit o).hdmBase = s.hdmBase := rfl
@[simp] theorem State.emit_hdmSize (o : Output) : (s.emit o).hdmSize = s.hdmSize := rfl
@[simp] theorem State.emit_hdmDecoder (o : Output) : (s.emit o).hdmDecoder = s.hdmDecoder := rfl
@[simp] theorem State.emit_lastRing (o : Output) : (s.emit o).lastRing = s.lastRing := rfl
@[simp] theorem State.emit_items (o : Output) : (s.emit o).items = s.items := rfl
@[simp] theorem State.emit_nextItem (o : Output) : (s.emit o).nextItem = s.nextItem := rfl
@[simp] theorem State.emit_seq (o : Output) : (s.emit o).seq = s.seq := rfl
@[simp] theorem State.emit_launch (o : Output) : (s.emit o).launch = s.launch := rfl
@[simp] theorem State.emit_bound (o : Output) : (s.emit o).bound = s.bound := rfl
@[simp] theorem State.emit_fabric (o : Output) : (s.emit o).fabric = s.fabric := rfl
@[simp] theorem State.emit_red (o : Output) : (s.emit o).red = s.red := rfl
@[simp] theorem State.emit_ctrs (o : Output) : (s.emit o).ctrs = s.ctrs := rfl
@[simp] theorem State.emit_ctrsOld (o : Output) : (s.emit o).ctrsOld = s.ctrsOld := rfl
@[simp] theorem State.emit_ctrSeq (o : Output) : (s.emit o).ctrSeq = s.ctrSeq := rfl
@[simp] theorem State.emit_ctrSeqOld (o : Output) : (s.emit o).ctrSeqOld = s.ctrSeqOld := rfl
@[simp] theorem State.emit_run (o : Output) : (s.emit o).run = s.run := rfl
@[simp] theorem State.emit_trace (o : Output) : (s.emit o).trace = s.trace := rfl
@[simp] theorem State.emit_obs (o : Output) : (s.emit o).obs = s.obs := rfl
@[simp] theorem State.emit_sec (o : Output) : (s.emit o).sec = s.sec := rfl
@[simp] theorem State.emit_side (o : Output) : (s.emit o).side = s.side := rfl

@[simp] theorem State.countRun_pending (f : RunCtrs → RunCtrs) : (s.countRun f).pending = s.pending := rfl
@[simp] theorem State.countRun_tally (f : RunCtrs → RunCtrs) : (s.countRun f).tally = s.tally := rfl
@[simp] theorem State.countRun_tallyPrev (f : RunCtrs → RunCtrs) : (s.countRun f).tallyPrev = s.tallyPrev := rfl
@[simp] theorem State.countRun_align (f : RunCtrs → RunCtrs) : (s.countRun f).align = s.align := rfl
@[simp] theorem State.countRun_life (f : RunCtrs → RunCtrs) : (s.countRun f).life = s.life := rfl
@[simp] theorem State.countRun_power (f : RunCtrs → RunCtrs) : (s.countRun f).power = s.power := rfl
@[simp] theorem State.countRun_cores (f : RunCtrs → RunCtrs) : (s.countRun f).cores = s.cores := rfl
@[simp] theorem State.countRun_sites (f : RunCtrs → RunCtrs) : (s.countRun f).sites = s.sites := rfl
@[simp] theorem State.countRun_bufs (f : RunCtrs → RunCtrs) : (s.countRun f).bufs = s.bufs := rfl
@[simp] theorem State.countRun_hbm (f : RunCtrs → RunCtrs) : (s.countRun f).hbm = s.hbm := rfl
@[simp] theorem State.countRun_regions (f : RunCtrs → RunCtrs) : (s.countRun f).regions = s.regions := rfl
@[simp] theorem State.countRun_subs (f : RunCtrs → RunCtrs) : (s.countRun f).subs = s.subs := rfl
@[simp] theorem State.countRun_comps (f : RunCtrs → RunCtrs) : (s.countRun f).comps = s.comps := rfl
@[simp] theorem State.countRun_msix (f : RunCtrs → RunCtrs) : (s.countRun f).msix = s.msix := rfl
@[simp] theorem State.countRun_hifPoll (f : RunCtrs → RunCtrs) : (s.countRun f).hifPoll = s.hifPoll := rfl
@[simp] theorem State.countRun_cacheOn (f : RunCtrs → RunCtrs) : (s.countRun f).cacheOn = s.cacheOn := rfl
@[simp] theorem State.countRun_hdmOn (f : RunCtrs → RunCtrs) : (s.countRun f).hdmOn = s.hdmOn := rfl
@[simp] theorem State.countRun_hdmBase (f : RunCtrs → RunCtrs) : (s.countRun f).hdmBase = s.hdmBase := rfl
@[simp] theorem State.countRun_hdmSize (f : RunCtrs → RunCtrs) : (s.countRun f).hdmSize = s.hdmSize := rfl
@[simp] theorem State.countRun_hdmDecoder (f : RunCtrs → RunCtrs) : (s.countRun f).hdmDecoder = s.hdmDecoder := rfl
@[simp] theorem State.countRun_lastRing (f : RunCtrs → RunCtrs) : (s.countRun f).lastRing = s.lastRing := rfl
@[simp] theorem State.countRun_items (f : RunCtrs → RunCtrs) : (s.countRun f).items = s.items := rfl
@[simp] theorem State.countRun_nextItem (f : RunCtrs → RunCtrs) : (s.countRun f).nextItem = s.nextItem := rfl
@[simp] theorem State.countRun_seq (f : RunCtrs → RunCtrs) : (s.countRun f).seq = s.seq := rfl
@[simp] theorem State.countRun_launch (f : RunCtrs → RunCtrs) : (s.countRun f).launch = s.launch := rfl
@[simp] theorem State.countRun_bound (f : RunCtrs → RunCtrs) : (s.countRun f).bound = s.bound := rfl
@[simp] theorem State.countRun_fabric (f : RunCtrs → RunCtrs) : (s.countRun f).fabric = s.fabric := rfl
@[simp] theorem State.countRun_red (f : RunCtrs → RunCtrs) : (s.countRun f).red = s.red := rfl
@[simp] theorem State.countRun_ctrs (f : RunCtrs → RunCtrs) : (s.countRun f).ctrs = s.ctrs := rfl
@[simp] theorem State.countRun_ctrsOld (f : RunCtrs → RunCtrs) : (s.countRun f).ctrsOld = s.ctrsOld := rfl
@[simp] theorem State.countRun_ctrSeq (f : RunCtrs → RunCtrs) : (s.countRun f).ctrSeq = s.ctrSeq := rfl
@[simp] theorem State.countRun_ctrSeqOld (f : RunCtrs → RunCtrs) : (s.countRun f).ctrSeqOld = s.ctrSeqOld := rfl
@[simp] theorem State.countRun_trace (f : RunCtrs → RunCtrs) : (s.countRun f).trace = s.trace := rfl
@[simp] theorem State.countRun_obs (f : RunCtrs → RunCtrs) : (s.countRun f).obs = s.obs := rfl
@[simp] theorem State.countRun_sec (f : RunCtrs → RunCtrs) : (s.countRun f).sec = s.sec := rfl
@[simp] theorem State.countRun_side (f : RunCtrs → RunCtrs) : (s.countRun f).side = s.side := rfl
@[simp] theorem State.countRun_out (f : RunCtrs → RunCtrs) : (s.countRun f).out = s.out := rfl

@[simp] theorem State.modLaunch_launch (f : Launch → Launch) : (s.modLaunch f).launch = s.launch.map f := rfl
@[simp] theorem State.emit_out (o : Output) : (s.emit o).out = s.out ++ [o] := rfl
@[simp] theorem State.countRun_run (f : RunCtrs → RunCtrs) : (s.countRun f).run = f s.run := rfl

@[simp] theorem State.count_pending (f : ChipCtrs → ChipCtrs) : (s.count f).pending = s.pending := by unfold State.count; split <;> rfl
@[simp] theorem State.count_tally (f : ChipCtrs → ChipCtrs) : (s.count f).tally = s.tally := by unfold State.count; split <;> rfl
@[simp] theorem State.count_tallyPrev (f : ChipCtrs → ChipCtrs) : (s.count f).tallyPrev = s.tallyPrev := by unfold State.count; split <;> rfl
@[simp] theorem State.count_align (f : ChipCtrs → ChipCtrs) : (s.count f).align = s.align := by unfold State.count; split <;> rfl
@[simp] theorem State.count_life (f : ChipCtrs → ChipCtrs) : (s.count f).life = s.life := by unfold State.count; split <;> rfl
@[simp] theorem State.count_power (f : ChipCtrs → ChipCtrs) : (s.count f).power = s.power := by unfold State.count; split <;> rfl
@[simp] theorem State.count_cores (f : ChipCtrs → ChipCtrs) : (s.count f).cores = s.cores := by unfold State.count; split <;> rfl
@[simp] theorem State.count_sites (f : ChipCtrs → ChipCtrs) : (s.count f).sites = s.sites := by unfold State.count; split <;> rfl
@[simp] theorem State.count_bufs (f : ChipCtrs → ChipCtrs) : (s.count f).bufs = s.bufs := by unfold State.count; split <;> rfl
@[simp] theorem State.count_hbm (f : ChipCtrs → ChipCtrs) : (s.count f).hbm = s.hbm := by unfold State.count; split <;> rfl
@[simp] theorem State.count_regions (f : ChipCtrs → ChipCtrs) : (s.count f).regions = s.regions := by unfold State.count; split <;> rfl
@[simp] theorem State.count_subs (f : ChipCtrs → ChipCtrs) : (s.count f).subs = s.subs := by unfold State.count; split <;> rfl
@[simp] theorem State.count_comps (f : ChipCtrs → ChipCtrs) : (s.count f).comps = s.comps := by unfold State.count; split <;> rfl
@[simp] theorem State.count_msix (f : ChipCtrs → ChipCtrs) : (s.count f).msix = s.msix := by unfold State.count; split <;> rfl
@[simp] theorem State.count_hifPoll (f : ChipCtrs → ChipCtrs) : (s.count f).hifPoll = s.hifPoll := by unfold State.count; split <;> rfl
@[simp] theorem State.count_cacheOn (f : ChipCtrs → ChipCtrs) : (s.count f).cacheOn = s.cacheOn := by unfold State.count; split <;> rfl
@[simp] theorem State.count_hdmOn (f : ChipCtrs → ChipCtrs) : (s.count f).hdmOn = s.hdmOn := by unfold State.count; split <;> rfl
@[simp] theorem State.count_hdmBase (f : ChipCtrs → ChipCtrs) : (s.count f).hdmBase = s.hdmBase := by unfold State.count; split <;> rfl
@[simp] theorem State.count_hdmSize (f : ChipCtrs → ChipCtrs) : (s.count f).hdmSize = s.hdmSize := by unfold State.count; split <;> rfl
@[simp] theorem State.count_hdmDecoder (f : ChipCtrs → ChipCtrs) : (s.count f).hdmDecoder = s.hdmDecoder := by unfold State.count; split <;> rfl
@[simp] theorem State.count_lastRing (f : ChipCtrs → ChipCtrs) : (s.count f).lastRing = s.lastRing := by unfold State.count; split <;> rfl
@[simp] theorem State.count_items (f : ChipCtrs → ChipCtrs) : (s.count f).items = s.items := by unfold State.count; split <;> rfl
@[simp] theorem State.count_nextItem (f : ChipCtrs → ChipCtrs) : (s.count f).nextItem = s.nextItem := by unfold State.count; split <;> rfl
@[simp] theorem State.count_seq (f : ChipCtrs → ChipCtrs) : (s.count f).seq = s.seq := by unfold State.count; split <;> rfl
@[simp] theorem State.count_launch (f : ChipCtrs → ChipCtrs) : (s.count f).launch = s.launch := by unfold State.count; split <;> rfl
@[simp] theorem State.count_bound (f : ChipCtrs → ChipCtrs) : (s.count f).bound = s.bound := by unfold State.count; split <;> rfl
@[simp] theorem State.count_fabric (f : ChipCtrs → ChipCtrs) : (s.count f).fabric = s.fabric := by unfold State.count; split <;> rfl
@[simp] theorem State.count_red (f : ChipCtrs → ChipCtrs) : (s.count f).red = s.red := by unfold State.count; split <;> rfl
@[simp] theorem State.count_ctrsOld (f : ChipCtrs → ChipCtrs) : (s.count f).ctrsOld = s.ctrsOld := by unfold State.count; split <;> rfl
@[simp] theorem State.count_ctrSeq (f : ChipCtrs → ChipCtrs) : (s.count f).ctrSeq = s.ctrSeq := by unfold State.count; split <;> rfl
@[simp] theorem State.count_ctrSeqOld (f : ChipCtrs → ChipCtrs) : (s.count f).ctrSeqOld = s.ctrSeqOld := by unfold State.count; split <;> rfl
@[simp] theorem State.count_run (f : ChipCtrs → ChipCtrs) : (s.count f).run = s.run := by unfold State.count; split <;> rfl
@[simp] theorem State.count_trace (f : ChipCtrs → ChipCtrs) : (s.count f).trace = s.trace := by unfold State.count; split <;> rfl
@[simp] theorem State.count_obs (f : ChipCtrs → ChipCtrs) : (s.count f).obs = s.obs := by unfold State.count; split <;> rfl
@[simp] theorem State.count_sec (f : ChipCtrs → ChipCtrs) : (s.count f).sec = s.sec := by unfold State.count; split <;> rfl
@[simp] theorem State.count_side (f : ChipCtrs → ChipCtrs) : (s.count f).side = s.side := by unfold State.count; split <;> rfl
@[simp] theorem State.count_out (f : ChipCtrs → ChipCtrs) : (s.count f).out = s.out := by unfold State.count; split <;> rfl
@[simp] theorem State.countCore_pending (c : CoreId) (f : CoreCtrs → CoreCtrs) : (s.countCore c f).pending = s.pending := by unfold State.countCore; split <;> rfl
@[simp] theorem State.countCore_tally (c : CoreId) (f : CoreCtrs → CoreCtrs) : (s.countCore c f).tally = s.tally := by unfold State.countCore; split <;> rfl
@[simp] theorem State.countCore_tallyPrev (c : CoreId) (f : CoreCtrs → CoreCtrs) : (s.countCore c f).tallyPrev = s.tallyPrev := by unfold State.countCore; split <;> rfl
@[simp] theorem State.countCore_align (c : CoreId) (f : CoreCtrs → CoreCtrs) : (s.countCore c f).align = s.align := by unfold State.countCore; split <;> rfl
@[simp] theorem State.countCore_life (c : CoreId) (f : CoreCtrs → CoreCtrs) : (s.countCore c f).life = s.life := by unfold State.countCore; split <;> rfl
@[simp] theorem State.countCore_power (c : CoreId) (f : CoreCtrs → CoreCtrs) : (s.countCore c f).power = s.power := by unfold State.countCore; split <;> rfl
@[simp] theorem State.countCore_sites (c : CoreId) (f : CoreCtrs → CoreCtrs) : (s.countCore c f).sites = s.sites := by unfold State.countCore; split <;> rfl
@[simp] theorem State.countCore_bufs (c : CoreId) (f : CoreCtrs → CoreCtrs) : (s.countCore c f).bufs = s.bufs := by unfold State.countCore; split <;> rfl
@[simp] theorem State.countCore_hbm (c : CoreId) (f : CoreCtrs → CoreCtrs) : (s.countCore c f).hbm = s.hbm := by unfold State.countCore; split <;> rfl
@[simp] theorem State.countCore_regions (c : CoreId) (f : CoreCtrs → CoreCtrs) : (s.countCore c f).regions = s.regions := by unfold State.countCore; split <;> rfl
@[simp] theorem State.countCore_subs (c : CoreId) (f : CoreCtrs → CoreCtrs) : (s.countCore c f).subs = s.subs := by unfold State.countCore; split <;> rfl
@[simp] theorem State.countCore_comps (c : CoreId) (f : CoreCtrs → CoreCtrs) : (s.countCore c f).comps = s.comps := by unfold State.countCore; split <;> rfl
@[simp] theorem State.countCore_msix (c : CoreId) (f : CoreCtrs → CoreCtrs) : (s.countCore c f).msix = s.msix := by unfold State.countCore; split <;> rfl
@[simp] theorem State.countCore_hifPoll (c : CoreId) (f : CoreCtrs → CoreCtrs) : (s.countCore c f).hifPoll = s.hifPoll := by unfold State.countCore; split <;> rfl
@[simp] theorem State.countCore_cacheOn (c : CoreId) (f : CoreCtrs → CoreCtrs) : (s.countCore c f).cacheOn = s.cacheOn := by unfold State.countCore; split <;> rfl
@[simp] theorem State.countCore_hdmOn (c : CoreId) (f : CoreCtrs → CoreCtrs) : (s.countCore c f).hdmOn = s.hdmOn := by unfold State.countCore; split <;> rfl
@[simp] theorem State.countCore_hdmBase (c : CoreId) (f : CoreCtrs → CoreCtrs) : (s.countCore c f).hdmBase = s.hdmBase := by unfold State.countCore; split <;> rfl
@[simp] theorem State.countCore_hdmSize (c : CoreId) (f : CoreCtrs → CoreCtrs) : (s.countCore c f).hdmSize = s.hdmSize := by unfold State.countCore; split <;> rfl
@[simp] theorem State.countCore_hdmDecoder (c : CoreId) (f : CoreCtrs → CoreCtrs) : (s.countCore c f).hdmDecoder = s.hdmDecoder := by unfold State.countCore; split <;> rfl
@[simp] theorem State.countCore_lastRing (c : CoreId) (f : CoreCtrs → CoreCtrs) : (s.countCore c f).lastRing = s.lastRing := by unfold State.countCore; split <;> rfl
@[simp] theorem State.countCore_items (c : CoreId) (f : CoreCtrs → CoreCtrs) : (s.countCore c f).items = s.items := by unfold State.countCore; split <;> rfl
@[simp] theorem State.countCore_nextItem (c : CoreId) (f : CoreCtrs → CoreCtrs) : (s.countCore c f).nextItem = s.nextItem := by unfold State.countCore; split <;> rfl
@[simp] theorem State.countCore_seq (c : CoreId) (f : CoreCtrs → CoreCtrs) : (s.countCore c f).seq = s.seq := by unfold State.countCore; split <;> rfl
@[simp] theorem State.countCore_launch (c : CoreId) (f : CoreCtrs → CoreCtrs) : (s.countCore c f).launch = s.launch := by unfold State.countCore; split <;> rfl
@[simp] theorem State.countCore_bound (c : CoreId) (f : CoreCtrs → CoreCtrs) : (s.countCore c f).bound = s.bound := by unfold State.countCore; split <;> rfl
@[simp] theorem State.countCore_fabric (c : CoreId) (f : CoreCtrs → CoreCtrs) : (s.countCore c f).fabric = s.fabric := by unfold State.countCore; split <;> rfl
@[simp] theorem State.countCore_red (c : CoreId) (f : CoreCtrs → CoreCtrs) : (s.countCore c f).red = s.red := by unfold State.countCore; split <;> rfl
@[simp] theorem State.countCore_ctrs (c : CoreId) (f : CoreCtrs → CoreCtrs) : (s.countCore c f).ctrs = s.ctrs := by unfold State.countCore; split <;> rfl
@[simp] theorem State.countCore_ctrsOld (c : CoreId) (f : CoreCtrs → CoreCtrs) : (s.countCore c f).ctrsOld = s.ctrsOld := by unfold State.countCore; split <;> rfl
@[simp] theorem State.countCore_ctrSeq (c : CoreId) (f : CoreCtrs → CoreCtrs) : (s.countCore c f).ctrSeq = s.ctrSeq := by unfold State.countCore; split <;> rfl
@[simp] theorem State.countCore_ctrSeqOld (c : CoreId) (f : CoreCtrs → CoreCtrs) : (s.countCore c f).ctrSeqOld = s.ctrSeqOld := by unfold State.countCore; split <;> rfl
@[simp] theorem State.countCore_run (c : CoreId) (f : CoreCtrs → CoreCtrs) : (s.countCore c f).run = s.run := by unfold State.countCore; split <;> rfl
@[simp] theorem State.countCore_trace (c : CoreId) (f : CoreCtrs → CoreCtrs) : (s.countCore c f).trace = s.trace := by unfold State.countCore; split <;> rfl
@[simp] theorem State.countCore_obs (c : CoreId) (f : CoreCtrs → CoreCtrs) : (s.countCore c f).obs = s.obs := by unfold State.countCore; split <;> rfl
@[simp] theorem State.countCore_sec (c : CoreId) (f : CoreCtrs → CoreCtrs) : (s.countCore c f).sec = s.sec := by unfold State.countCore; split <;> rfl
@[simp] theorem State.countCore_side (c : CoreId) (f : CoreCtrs → CoreCtrs) : (s.countCore c f).side = s.side := by unfold State.countCore; split <;> rfl
@[simp] theorem State.countCore_out (c : CoreId) (f : CoreCtrs → CoreCtrs) : (s.countCore c f).out = s.out := by unfold State.countCore; split <;> rfl
@[simp] theorem State.flagExc_pending (b : BitVec 8) : (s.flagExc b).pending = s.pending := by unfold State.flagExc; split <;> rfl
@[simp] theorem State.flagExc_tally (b : BitVec 8) : (s.flagExc b).tally = s.tally := by unfold State.flagExc; split <;> rfl
@[simp] theorem State.flagExc_tallyPrev (b : BitVec 8) : (s.flagExc b).tallyPrev = s.tallyPrev := by unfold State.flagExc; split <;> rfl
@[simp] theorem State.flagExc_align (b : BitVec 8) : (s.flagExc b).align = s.align := by unfold State.flagExc; split <;> rfl
@[simp] theorem State.flagExc_life (b : BitVec 8) : (s.flagExc b).life = s.life := by unfold State.flagExc; split <;> rfl
@[simp] theorem State.flagExc_power (b : BitVec 8) : (s.flagExc b).power = s.power := by unfold State.flagExc; split <;> rfl
@[simp] theorem State.flagExc_cores (b : BitVec 8) : (s.flagExc b).cores = s.cores := by unfold State.flagExc; split <;> rfl
@[simp] theorem State.flagExc_sites (b : BitVec 8) : (s.flagExc b).sites = s.sites := by unfold State.flagExc; split <;> rfl
@[simp] theorem State.flagExc_bufs (b : BitVec 8) : (s.flagExc b).bufs = s.bufs := by unfold State.flagExc; split <;> rfl
@[simp] theorem State.flagExc_hbm (b : BitVec 8) : (s.flagExc b).hbm = s.hbm := by unfold State.flagExc; split <;> rfl
@[simp] theorem State.flagExc_regions (b : BitVec 8) : (s.flagExc b).regions = s.regions := by unfold State.flagExc; split <;> rfl
@[simp] theorem State.flagExc_subs (b : BitVec 8) : (s.flagExc b).subs = s.subs := by unfold State.flagExc; split <;> rfl
@[simp] theorem State.flagExc_comps (b : BitVec 8) : (s.flagExc b).comps = s.comps := by unfold State.flagExc; split <;> rfl
@[simp] theorem State.flagExc_msix (b : BitVec 8) : (s.flagExc b).msix = s.msix := by unfold State.flagExc; split <;> rfl
@[simp] theorem State.flagExc_hifPoll (b : BitVec 8) : (s.flagExc b).hifPoll = s.hifPoll := by unfold State.flagExc; split <;> rfl
@[simp] theorem State.flagExc_cacheOn (b : BitVec 8) : (s.flagExc b).cacheOn = s.cacheOn := by unfold State.flagExc; split <;> rfl
@[simp] theorem State.flagExc_hdmOn (b : BitVec 8) : (s.flagExc b).hdmOn = s.hdmOn := by unfold State.flagExc; split <;> rfl
@[simp] theorem State.flagExc_hdmBase (b : BitVec 8) : (s.flagExc b).hdmBase = s.hdmBase := by unfold State.flagExc; split <;> rfl
@[simp] theorem State.flagExc_hdmSize (b : BitVec 8) : (s.flagExc b).hdmSize = s.hdmSize := by unfold State.flagExc; split <;> rfl
@[simp] theorem State.flagExc_hdmDecoder (b : BitVec 8) : (s.flagExc b).hdmDecoder = s.hdmDecoder := by unfold State.flagExc; split <;> rfl
@[simp] theorem State.flagExc_lastRing (b : BitVec 8) : (s.flagExc b).lastRing = s.lastRing := by unfold State.flagExc; split <;> rfl
@[simp] theorem State.flagExc_items (b : BitVec 8) : (s.flagExc b).items = s.items := by unfold State.flagExc; split <;> rfl
@[simp] theorem State.flagExc_nextItem (b : BitVec 8) : (s.flagExc b).nextItem = s.nextItem := by unfold State.flagExc; split <;> rfl
@[simp] theorem State.flagExc_seq (b : BitVec 8) : (s.flagExc b).seq = s.seq := by unfold State.flagExc; split <;> rfl
@[simp] theorem State.flagExc_bound (b : BitVec 8) : (s.flagExc b).bound = s.bound := by unfold State.flagExc; split <;> rfl
@[simp] theorem State.flagExc_fabric (b : BitVec 8) : (s.flagExc b).fabric = s.fabric := by unfold State.flagExc; split <;> rfl
@[simp] theorem State.flagExc_red (b : BitVec 8) : (s.flagExc b).red = s.red := by unfold State.flagExc; split <;> rfl
@[simp] theorem State.flagExc_ctrs (b : BitVec 8) : (s.flagExc b).ctrs = s.ctrs := by unfold State.flagExc; split <;> rfl
@[simp] theorem State.flagExc_ctrsOld (b : BitVec 8) : (s.flagExc b).ctrsOld = s.ctrsOld := by unfold State.flagExc; split <;> rfl
@[simp] theorem State.flagExc_ctrSeq (b : BitVec 8) : (s.flagExc b).ctrSeq = s.ctrSeq := by unfold State.flagExc; split <;> rfl
@[simp] theorem State.flagExc_ctrSeqOld (b : BitVec 8) : (s.flagExc b).ctrSeqOld = s.ctrSeqOld := by unfold State.flagExc; split <;> rfl
@[simp] theorem State.flagExc_run (b : BitVec 8) : (s.flagExc b).run = s.run := by unfold State.flagExc; split <;> rfl
@[simp] theorem State.flagExc_trace (b : BitVec 8) : (s.flagExc b).trace = s.trace := by unfold State.flagExc; split <;> rfl
@[simp] theorem State.flagExc_obs (b : BitVec 8) : (s.flagExc b).obs = s.obs := by unfold State.flagExc; split <;> rfl
@[simp] theorem State.flagExc_sec (b : BitVec 8) : (s.flagExc b).sec = s.sec := by unfold State.flagExc; split <;> rfl
@[simp] theorem State.flagExc_side (b : BitVec 8) : (s.flagExc b).side = s.side := by unfold State.flagExc; split <;> rfl
@[simp] theorem State.flagExc_out (b : BitVec 8) : (s.flagExc b).out = s.out := by unfold State.flagExc; split <;> rfl

end Sys2Proof.Machine
end

