-- ==== Sys2Proof/Laws/Threads.lean ====
section
/-! SUPPORT. What the named updates of cores and threads read back as, and what an executed instruction leaves beside its own
effect. -/
namespace Sys2Proof.Machine

@[simp] theorem vset_at {α : Type} {n : Nat} (v : Vector α n) (i : Fin n) (x : α) : (vset v i x)[i.1] = x := by
  simp [vset]
theorem vset_same {α : Type} {n : Nat} (v : Vector α n) (i : Fin n) (x : α) : (vset v i x)[i] = x := vset_at v i x
theorem vset_ne {α : Type} {n : Nat} (v : Vector α n) {i j : Fin n} (x : α) (h : j ≠ i) : (vset v i x)[j] = v[j] := by
  have : i.1 ≠ j.1 := fun e => h (Fin.ext e.symm)
  simp [vset, this]

@[simp] theorem State.core_setCore (s : State) (c : CoreId) (k : Core) : (s.setCore c k).core c = k := by
  simp [State.core, State.setCore]
theorem State.core_setCore_ne (s : State) {c d : CoreId} (k : Core) (h : d ≠ c) : (s.setCore c k).core d = s.core d := by
  simp [State.core, State.setCore, vset_ne _ _ h]
@[simp] theorem State.core_modCore (s : State) (c : CoreId) (f : Core → Core) : (s.modCore c f).core c = f (s.core c) := by
  simp [State.modCore]
theorem State.core_modCore_ne (s : State) {c d : CoreId} (f : Core → Core) (h : d ≠ c) :
    (s.modCore c f).core d = s.core d := State.core_setCore_ne s _ h

@[simp] theorem State.core_setTh (s : State) (r : ThRef) (t : Thread) :
    (s.setTh r t).core r.core = { s.core r.core with threads := vset (s.core r.core).threads r.t t } := by
  simp [State.setTh]
theorem State.core_setTh_ne (s : State) (r : ThRef) {c : CoreId} (t : Thread) (h : c ≠ r.core) :
    (s.setTh r t).core c = s.core c := State.core_modCore_ne s _ h
@[simp] theorem State.th_setTh (s : State) (r : ThRef) (t : Thread) : (s.setTh r t).th r = t := by
  simp [State.th]
theorem State.th_setTh_ne (s : State) {r q : ThRef} (t : Thread) (h : q ≠ r) : (s.setTh r t).th q = s.th q := by
  unfold State.th
  by_cases hc : q.core = r.core
  · have ht : q.t ≠ r.t := fun e => h (by cases q; cases r; simp_all)
    rw [hc, State.core_setTh]
    exact vset_ne _ _ ht
  · rw [State.core_setTh_ne s r t hc]
@[simp] theorem State.th_modTh (s : State) (r : ThRef) (f : Thread → Thread) : (s.modTh r f).th r = f (s.th r) := by
  simp [State.modTh]
theorem State.th_modTh_ne (s : State) {r q : ThRef} (f : Thread → Thread) (h : q ≠ r) : (s.modTh r f).th q = s.th q :=
  State.th_setTh_ne s _ h
@[simp] theorem State.core_modTh (s : State) (r : ThRef) (f : Thread → Thread) :
    (s.modTh r f).core r.core = { s.core r.core with threads := vset (s.core r.core).threads r.t (f (s.th r)) } := by
  simp [State.modTh]
theorem State.core_modTh_ne (s : State) (r : ThRef) {c : CoreId} (f : Thread → Thread) (h : c ≠ r.core) :
    (s.modTh r f).core c = s.core c := State.core_setTh_ne s r _ h
@[simp] theorem State.th_modRegs (s : State) (r : ThRef) (f : Regs → Regs) :
    (s.modRegs r f).th r = { s.th r with regs := f (s.th r).regs } := by simp [State.modRegs]
theorem State.th_modRegs_ne (s : State) {r q : ThRef} (f : Regs → Regs) (h : q ≠ r) : (s.modRegs r f).th q = s.th q :=
  State.th_modTh_ne s _ h

/-- What a state reads of a thread depends on its cores only. -/
theorem State.th_congr {s t : State} (h : t.cores = s.cores) (r : ThRef) : t.th r = s.th r := by
  simp [State.th, State.core, h]
theorem State.core_congr {s t : State} (h : t.cores = s.cores) (c : CoreId) : t.core c = s.core c := by
  simp [State.core, h]

end Sys2Proof.Machine
end

