-- ==== Sys2Proof/Laws/Device.lean ====
section
/-! SUPPORT. The operations on benches and HBM keep every memory of the device canonical. -/
namespace Sys2Proof.Machine

open Sys2Proof.Safety

/-- The invariant reads three fields of the state. -/
theorem memoriesWf_congr {s t : State} (h : memoriesWf s) (hm : t.hbm.mem = s.hbm.mem) (ho : t.sec.otp = s.sec.otp)
    (hs : t.sites = s.sites) : memoriesWf t := by
  unfold memoriesWf; rw [hm, ho, hs]; exact h

/-- Changing one site whose bench stays canonical. -/
theorem memoriesWf_site {s : State} (h : memoriesWf s) (i : SiteId) (f : Site → Site) (hf : Memory.wf (f s.sites[i]).bench) :
    memoriesWf { s with sites := vmod s.sites i f } := by
  refine ⟨h.1, h.2.1, fun j => ?_⟩
  by_cases hj : j = i
  · subst hj; rw [show ({ s with sites := vmod s.sites j f } : State).sites[j] = f s.sites[j] from vset_same ..]; exact hf
  · rw [show ({ s with sites := vmod s.sites i f } : State).sites[j] = s.sites[j] from vset_ne _ _ hj]; exact h.2.2 j

/-- A write to a bench keeps the memories canonical. -/
theorem benchWrite_memoriesWf {s : State} (h : memoriesWf s) (c : CoreId) (a : Nat) (bs : List Byte) : memoriesWf (benchWrite s c a bs) :=
  memoriesWf_site h _ _ (Memory.write_wf (h.2.2 _) a bs)

/-- Placing cells over a range of HBM and its mirrors keeps the memories canonical. -/
theorem hbmPlace_memoriesWf {s : State} (h : memoriesWf s) (a n : Nat) {cells : Memory} (hc : cells.wf) (hi : cells.within a n) :
    memoriesWf (hbmPlace s a n cells) := by
  refine ⟨?_, h.2.1, h.2.2⟩
  show Memory.wf (List.foldl _ (s.hbm.mem.place a n cells) (mirrorParts s a n))
  generalize mirrorParts s a n = ms
  have h0 := Memory.place_wf h.1 hc hi
  revert h0
  generalize s.hbm.mem.place a n cells = m
  intro h0
  induction ms generalizing m with
  | nil => exact h0
  | cons p ps ih =>
    obtain ⟨lo, dst, len⟩ := p
    exact ih _ (Memory.place_wf h0 (Memory.moved_wf (Memory.window_wf hc lo len) (Memory.window_within hc lo len) dst)
      (Memory.moved_within (Memory.window_within hc lo len) dst))

/-- A write to HBM keeps the memories canonical. -/
theorem hbmWrite_memoriesWf {s : State} (h : memoriesWf s) (a : Nat) (bs : List Byte) : memoriesWf (hbmWrite s a bs) :=
  hbmPlace_memoriesWf h a _ (Memory.cells_wf a bs) (Memory.cells_within a bs)

/-- The memories right after reset are canonical. -/
theorem reset_memoriesWf : memoriesWf State.reset := by
  refine ⟨Memory.wf_nil, Memory.wf_nil, fun i => ?_⟩
  rw [show State.reset.sites[i] = site0 from Vector.getElem_replicate ..]; exact Memory.wf_nil

/-- Everything that settling a domain's STR measure changes (R395): the measure, and since when the domain owes. -/
theorem settleStr_eq (s : State) (c : Fin 16) (roots : Nat) : settleStr s c roots = { s with
    ctrs := if s.counting then { s.ctrs with strCycles := sat64 s.ctrs.strCycles (strOwed s c roots) } else s.ctrs
    power := { s.power with domains := vmod s.power.domains c fun d => { d with slowAt := max d.slowAt (24 * s.power.upTicks + roots) } } } := by
  unfold settleStr State.count; cases s.counting <;> rfl

/-- Records dropped for their parity leave memories and cores as they are (Table 7.8). -/
theorem traceParity_memories (n : Nat) : ∀ s : State, (traceParity n s).hbm = s.hbm ∧ (traceParity n s).sites = s.sites ∧
    (traceParity n s).sec = s.sec ∧ (traceParity n s).cores = s.cores := by
  induction n with
  | zero => exact fun s => ⟨rfl, rfl, rfl, rfl⟩
  | succ n ih =>
    intro s
    unfold traceParity
    split
    · exact ⟨rfl, rfl, rfl, rfl⟩
    · rename_i rest _
      obtain ⟨h1, h2, h3, h4⟩ := ih (traceDrop { s with trace := { s.trace with queue := rest } })
      have hd : ∀ t : State, (traceDrop t).hbm = t.hbm ∧ (traceDrop t).sites = t.sites ∧ (traceDrop t).sec = t.sec ∧ (traceDrop t).cores = t.cores := by
        intro t; unfold traceDrop State.count; cases t.counting <;> exact ⟨rfl, rfl, rfl, rfl⟩
      obtain ⟨d1, d2, d3, d4⟩ := hd { s with trace := { s.trace with queue := rest } }
      exact ⟨h1.trans d1, h2.trans d2, h3.trans d3, h4.trans d4⟩

end Sys2Proof.Machine
end

