-- ==== Sys2Proof/Laws/Issue.lean ====
section
/-! SUPPORT. What an executed instruction does beside its own effect. -/
namespace Sys2Proof.Machine

open Sys2Proof.Safety

theorem onlyThread_refl (s : State) (th : ThRef) : onlyThread s s th := ⟨rfl, fun _ _ => rfl, fun _ _ => rfl, rfl⟩

theorem onlyThread_trans {s t u : State} {th : ThRef} (h1 : onlyThread s t th) (h2 : onlyThread t u th) :
    onlyThread s u th := by
  refine ⟨?_, fun c hc => (h2.2.1 c hc).trans (h1.2.1 c hc), fun r hr => (h2.2.2.1 r hr).trans (h1.2.2.1 r hr), ?_⟩
  · rw [h2.1, h1.1]
  · rw [h2.2.2.2, h1.2.2.2]

theorem onlyThread_modTh (s : State) (th : ThRef) (f : Thread → Thread) : onlyThread s (s.modTh th f) th :=
  ⟨rfl, fun _ hc => State.core_modTh_ne s th f hc, fun _ hr => State.th_modTh_ne s f hr, by simp⟩

theorem onlyThread_modRegs (s : State) (th : ThRef) (f : Regs → Regs) : onlyThread s (s.modRegs th f) th :=
  onlyThread_modTh s th _

theorem onlyThread_countCore (s : State) (th : ThRef) (f : CoreCtrs → CoreCtrs) :
    onlyThread s (s.countCore th.core f) th := by
  unfold State.countCore
  split
  · refine ⟨rfl, fun c hc => State.core_modCore_ne s _ hc, fun r hr => ?_, by simp⟩
    unfold State.th
    by_cases hc : r.core = th.core
    · rw [hc, State.core_modCore]
    · rw [State.core_modCore_ne s _ hc]
  · exact onlyThread_refl s th

/-- A state that differs only in its trace and counters. -/
theorem onlyThread_of_cores {s t : State} (th : ThRef) (hc : t.cores = s.cores)
    (h : t = { s with ctrs := t.ctrs, run := t.run, trace := t.trace }) : onlyThread s t th := by
  refine ⟨?_, fun c _ => State.core_congr hc c, fun r _ => State.th_congr hc r, ?_⟩
  · rw [hc]; exact h
  · rw [State.core_congr hc]

@[simp] theorem traceDrop_cores (s : State) : (traceDrop s).cores = s.cores := by simp [traceDrop]
theorem traceDrop_rest (s : State) :
    traceDrop s = { s with ctrs := (traceDrop s).ctrs, run := (traceDrop s).run, trace := (traceDrop s).trace } := by
  unfold traceDrop State.count; split <;> rfl
@[simp] theorem tracePush_cores (s : State) (r : TraceRec) : (tracePush s r).cores = s.cores := by
  unfold tracePush; split <;> split <;> simp
theorem tracePush_rest (s : State) (r : TraceRec) :
    tracePush s r = { s with ctrs := (tracePush s r).ctrs, run := (tracePush s r).run, trace := (tracePush s r).trace } := by
  unfold tracePush; split <;> split <;> first | rfl | exact traceDrop_rest s

theorem onlyThread_traceThread (s : State) (th : ThRef) (ty index : Nat) (w : Word) :
    onlyThread s (traceThread s th ty index w) th := by
  unfold traceThread
  split
  · exact onlyThread_trans (onlyThread_of_cores th (tracePush_cores _ _) (tracePush_rest _ _)) (onlyThread_modTh _ _ _)
  · exact onlyThread_refl s th

theorem traceThread_th (s : State) (th : ThRef) (ty index : Nat) (w : Word) :
    (traceThread s th ty index w).th th =
      { s.th th with stretched := ((traceThread s th ty index w).th th).stretched } := by
  unfold traceThread
  split
  · simp [State.th_congr (tracePush_cores s _)]
  · rfl

theorem traceThread_live (s : State) (th : ThRef) (ty index : Nat) (w : Word) (c : CoreId) :
    ((traceThread s th ty index w).core c).live = (s.core c).live := by
  unfold traceThread
  split
  · by_cases hc : c = th.core
    · subst hc; simp [State.core_congr (tracePush_cores s _)]
    · rw [State.core_modTh_ne _ _ _ hc, State.core_congr (tracePush_cores s _)]
  · rfl

theorem countCore_th (s : State) (c : CoreId) (f : CoreCtrs → CoreCtrs) (r : ThRef) :
    (s.countCore c f).th r = s.th r := by
  unfold State.countCore
  split
  · unfold State.th
    by_cases hc : r.core = c
    · rw [hc, State.core_modCore]
    · rw [State.core_modCore_ne s _ hc]
  · rfl

theorem countCore_live {s : State} (h : s.counting = true) (c : CoreId) (f : CoreCtrs → CoreCtrs) :
    ((s.countCore c f).core c).live = f (s.core c).live := by
  simp [State.countCore, h]

/-- The step past an executed instruction. -/
theorem goesOn_nextPos (s : State) (c : Ctx) (p : Nat) (hc : s.counting = true) :
    goesOn s (nextPos (noteExec s c) c.th p) c.th (s.th c.th) p := by
  refine ⟨?_, ?_, ?_⟩
  · exact onlyThread_trans (onlyThread_trans (onlyThread_countCore s c.th _) (onlyThread_traceThread _ _ _ _ _))
      (onlyThread_modTh _ _ _)
  · unfold nextPos noteExec
    rw [State.th_modTh, traceThread_th, countCore_th]
    rfl
  · have : ∀ (x : State) (f : Thread → Thread), ((x.modTh c.th f).core c.th.core).live = (x.core c.th.core).live := by
      intro x f; simp
    unfold nextPos noteExec
    rw [this, traceThread_live, countCore_live hc]

/-- Of two states that differ only in the thread, its step past is the same. -/
theorem goesOn_of_onlyThread {s s1 t : State} {th : ThRef} {T : Thread} {p : Nat} (h : onlyThread s s1 th)
    (hl : (s1.core th.core).live = (s.core th.core).live) (h1 : goesOn s1 t th T p) : goesOn s t th T p :=
  ⟨onlyThread_trans h h1.1, h1.2.1, by rw [h1.2.2, hl]⟩

theorem counting_of_canIssue {s : State} {th : ThRef} (h : canIssue s th = true) : s.counting = true := by
  unfold canIssue at h
  unfold State.counting
  cases hl : s.launch with
  | none => simp [hl] at h
  | some l => simp only [hl, Bool.and_eq_true, decide_eq_true_eq] at h; simp [h.1.1.1.1.1.1]

/-- An instruction of opcode `op` executes: its row answers what its run answers. -/
theorem issue_opRow {s : State} {th : ThRef} {w : Word} {op : Nat} {us : Nat → List ExecUnit} {run : State → Ctx → Exec}
    (h : executes s th w op (us w.toNat)) :
    issue (opRow op us run) th s =
      finishExec s ⟨th, (s.th th).pos, w.toNat⟩ (run s ⟨th, (s.th th).pos, w.toNat⟩) := by
  obtain ⟨⟨h1, h2, h3⟩, h4, h5, h6, h7⟩ := h
  have hp : ((s.th th).regs.pred (fPRED w.toNat) == fPN w.toNat) = false := beq_false_of_ne h5
  have hj : ∀ x, judgeHeld false x = x := by intro x; cases x <;> rfl
  unfold issue
  rw [if_pos h1]
  unfold issueNow
  simp only [h2]
  simp only [opRow, h3, h4, h7, hp, hj, h6]
  simp

/-- An instruction that executes and takes effect leaves `s1`, its own effect, and the thread one instruction further. -/
theorem goesOn_done {s s1 : State} {th : ThRef} {w : Word} {op : Nat} {us : Nat → List ExecUnit} {run : State → Ctx → Exec}
    (h : executes s th w op (us w.toNat)) (hr : run s ⟨th, (s.th th).pos, w.toNat⟩ = .done s1) (hc : s1.counting = true) :
    goesOn s1 (issue (opRow op us run) th s) th (s1.th th) ((s.th th).pos + 1) := by
  rw [issue_opRow h, hr]
  exact goesOn_nextPos s1 ⟨th, (s.th th).pos, w.toNat⟩ ((s.th th).pos + 1) hc

/-- The same for an instruction whose own effect is on its thread's fields alone. -/
theorem goesOn_done_th {s : State} {th : ThRef} {w : Word} {op : Nat} {us : Nat → List ExecUnit} {run : State → Ctx → Exec}
    {f : Thread → Thread} (h : executes s th w op (us w.toNat))
    (hr : run s ⟨th, (s.th th).pos, w.toNat⟩ = .done (s.modTh th f)) :
    goesOn s (issue (opRow op us run) th s) th (f (s.th th)) ((s.th th).pos + 1) := by
  have h1 := goesOn_done h hr (counting_of_canIssue (s := s) h.1.1)
  rw [State.th_modTh] at h1
  exact goesOn_of_onlyThread (onlyThread_modTh s th f) (by simp) h1

/-- An instruction that executes and breaks a rule raises its fault. -/
theorem issue_fault {s : State} {th : ThRef} {w : Word} {op : Nat} {us : Nat → List ExecUnit} {run : State → Ctx → Exec}
    {f : IFault} (h : executes s th w op (us w.toNat)) (hr : run s ⟨th, (s.th th).pos, w.toNat⟩ = .fault f) :
    issue (opRow op us run) th s = raiseFault s th f (s.th th).pos w := by
  rw [issue_opRow h, hr]; simp [finishExec]

/-- An instruction that executes and must wait leaves what its run leaves. -/
theorem issue_stay {s s1 : State} {th : ThRef} {w : Word} {op : Nat} {us : Nat → List ExecUnit} {run : State → Ctx → Exec}
    (h : executes s th w op (us w.toNat)) (hr : run s ⟨th, (s.th th).pos, w.toNat⟩ = .stay s1) :
    issue (opRow op us run) th s = s1 := by
  rw [issue_opRow h, hr]; rfl

end Sys2Proof.Machine
end

