-- ==== Sys2Proof/WellFormed.lean ====
section
/-! DEFINITION. Well-formed commands: operands that the outside of the block can supply. -/
namespace Sys2Proof

/-- Every field of a packet fits its place (Tables 11.3 to 11.6), and the payload is at most sixteen flits. -/
def Packet.fits (p : Packet) : Bool :=
  decide (p.ty < 16 ∧ p.vc < 4 ∧ p.hops < 32 ∧ p.rsv < 8 ∧ p.dst < 2 ^ 16 ∧ p.src < 2 ^ 16 ∧ p.dstCore < 256 ∧ p.srcCore < 256 ∧
    p.index < 2 ^ 32 ∧ p.sent < 2 ^ 32 ∧ p.payload.length ≤ 1024 ∧ p.crc < 2 ^ 32 ∧ p.lseq < 2 ^ 16 ∧ p.lack < 2 ^ 16)

/-- A sector address inside HBM (R165). -/
def sectorAddr (a : Nat) : Bool := decide (a % 64 = 0 ∧ a < Config.hbmEnd)

/-- A phase that the rail has (Table 14.1). -/
def Rail.hasPhase (r : Rail) (p : Fin 12) : Bool :=
  match r with
  | .column _ => decide (p.1 < 7)
  | .other k => decide (p.1 < Machine.otherFitted[k])

/-- A RISE notice announces one to four arrays (R392). -/
def Notice.wf (n : Notice) : Bool :=
  match n with
  | .rise a => decide (1 ≤ a ∧ a ≤ 4)
  | .fall => true

/-- An SPDM nonce has 32 bytes; an index fits a byte. -/
def SpdmReq.wf (r : SpdmReq) : Bool :=
  match r with
  | .challenge _ nonce => decide (nonce.length = 32)
  | .measurements _ i => decide (i < 256)
  | .certificate off len => decide (off < 65536 ∧ len < 65536)
  | .negotiate _ | .digests | .keyExchange _ | .finish _ _ | .heartbeat _ | .keyUpdate _ | .endSession _ | .unsupported => true

/-- A well-formed command. -/
def Instr.wf (i : Instr) : Bool :=
  match i with
  | .nop _ => true
  | .launch _ => true
  | .backlogItem _ => true
  | .copy _ => true
  | .fill _ => true
  | .wipe _ => true
  | .wipeStatus _ => true
  | .fwLoad _ image => image.all fun bs => decide (bs.length ≤ 67108864)
  | .fwVerifyDone _ _ => true
  | .routeLoad _ table => table.all fun es => decide (es.length = 32768) && es.all fun e => decide (e < 2 ^ 16)
  | .epochSwitch _ => true
  | .epochSwitchEffect => true
  | .fence _ => true
  | .reinstate _ => true
  | .setLevel _ => true
  | .groupOpen _ => true
  | .groupClose _ => true
  | .snapshot _ watts centivolts cycles _ => decide (watts < 2 ^ 16 ∧ centivolts < 2 ^ 16 ∧ cycles < 2 ^ 32)
  | .query _ _ => true
  | .tallyAlign _ => true
  | .tallyAlignTimeout => true
  | .traceCtlEnable _ => true
  | .traceCtlDisable _ => true
  | .traceDrainDone => true
  | .regionDeclare _ => true
  | .regionRemove _ => true
  | .quiesce _ => true
  | .quiesceLeave _ => true
  | .launchStart => true
  | .launchFirstIssue => true
  | .launchComplete _ => true
  | .doorbellStore _ => true
  | .doorbellLineFill _ _ => true
  | .descriptorFetchDone _ descs => descs.all fun ds => decide (1 ≤ ds.length ∧ ds.length ≤ 64)
  | .ringPoll _ _ _ => true
  | .headLineStore _ _ => true
  | .msixHoldoffExpire _ => true
  | .sqEnableSet _ _ _ => true
  | .sqEnableClear _ _ => true
  | .cqEnableSet _ _ _ _ => true
  | .cqEnableClear _ _ => true
  | .hdmMapEnable _ _ => true
  | .hdmRead off _ => decide (off % 64 = 0 ∧ off < 2 ^ 36)
  | .hdmWrite off data _ => decide (off < 2 ^ 36 ∧ 1 ≤ data.length ∧ off % 64 + data.length ≤ 64)
  | .fabIdWrite _ _ => true
  | .locksWrite _ _ => true
  | .scrubCtlWrite _ _ => true
  | .telCtlWrite _ _ => true
  | .ctrDataRead _ _ => true
  | .tallyNowRead _ _ => true
  | .faultInfoClear _ _ => true
  | .mbSubmit _ _ _ => true
  | .mbDoneClear _ _ _ => true
  | .mbResponse _ => true
  | .registerWrite off size _ _ => decide (off < 2 ^ 24 ∧ (size = 1 ∨ size = 2 ∨ size = 4 ∨ size = 8))
  | .smbWrite _ bytes _ => decide (bytes.length ≤ 255)
  | .smbAddress _ bytes _ => decide (bytes.length ≤ 255)
  | .smbRead _ => true
  | .i3cAddressAssign _ _ => true
  | .uartRxInput _ => true
  | .getNonce _ random => decide (random.length = 32)
  | .nonceExpire _ => true
  | .getIdentity _ => true
  | .certLoad _ _ => true
  | .otpProgram _ _ _ => true
  | .lifecycleMove _ _ _ => true
  | .debugChallenge _ random => decide (random.length = 32)
  | .debugUnlock _ _ => true
  | .zeroise _ => true
  | .selfTest _ _ => true
  | .enclaveSelfTests _ publicKey => decide (publicKey.length = 1952)
  | .enclaveErrorState => true
  | .enclaveEnvFault => true
  | .spdmRequest req => req.wf
  | .ideKmKeyProg _ _ _ _ => true
  | .ideKmKSetGo _ _ _ => true
  | .ideIntegrityFail _ => true
  | .nopInstr _ => true
  | .endThread _ => true
  | .commit _ => true
  | .anchor _ => true
  | .anchorSpill => true
  | .wait _ => true
  | .br _ => true
  | .loop _ => true
  | .lcset _ => true
  | .lcrd _ => true
  | .add _ => true
  | .sub _ => true
  | .mul _ => true
  | .and _ => true
  | .or _ => true
  | .xor _ => true
  | .shl _ => true
  | .shr _ => true
  | .sar _ => true
  | .min _ => true
  | .max _ => true
  | .minu _ => true
  | .maxu _ => true
  | .movhi _ => true
  | .cmp _ => true
  | .plog _ => true
  | .ld _ => true
  | .st _ => true
  | .tallyrd _ => true
  | .entropy _ _ => true
  | .ctrrd _ => true
  | .flagrd _ => true
  | .flagclr _ => true
  | .wld _ => true
  | .mma _ => true
  | .trd _ => true
  | .tjn _ => true
  | .tsr _ => true
  | .vopAdd _ => true
  | .vopSub _ => true
  | .vopMul _ => true
  | .vopFma _ => true
  | .vopMin _ => true
  | .vopMax _ => true
  | .vopAbs _ => true
  | .vopNeg _ => true
  | .vopCmpeq _ => true
  | .vopCmpne _ => true
  | .vopCmplt _ => true
  | .vopCmple _ => true
  | .vopSelect _ => true
  | .vopIadd _ => true
  | .vopIsub _ => true
  | .vopImin _ => true
  | .vopImax _ => true
  | .vopConvert _ => true
  | .vopTwosum _ => true
  | .vopTwoprod _ => true
  | .vopPadd _ => true
  | .vopPaddf _ => true
  | .vopPscale _ => true
  | .vopRcp _ => true
  | .vopSqrt _ => true
  | .vopRsqrt _ => true
  | .vopExp2 _ => true
  | .vopExp _ => true
  | .vopLog2 _ => true
  | .vopLog _ => true
  | .vopTanh _ => true
  | .vopSigmoid _ => true
  | .vopGelu _ => true
  | .vopSilu _ => true
  | .vopSin _ => true
  | .vopCos _ => true
  | .vopVsum _ => true
  | .vopVmax _ => true
  | .vopVmin _ => true
  | .vopVargmax _ => true
  | .topk _ => true
  | .smax _ => true
  | .tscale _ => true
  | .slotinit _ => true
  | .slotfinal _ => true
  | .tacc _ => true
  | .dmaCopy _ => true
  | .dmaConvert _ => true
  | .dmaTranspose _ => true
  | .dmaGather _ => true
  | .dmaAtomicAdd _ => true
  | .dmaFill _ => true
  | .dmaTransferDone _ _ _ => true
  | .bufdef _ => true
  | .gatherComplete _ _ => true
  | .fadd _ => true
  | .send _ => true
  | .post _ => true
  | .await _ => true
  | .awaitRelease _ _ => true
  | .awaitany _ => true
  | .awaitanyRelease _ _ => true
  | .grdy _ => true
  | .windowWait _ => true
  | .windowEnter _ _ => true
  | .loadNotice _ kind => kind.wf
  | .cueLineFetch _ _ _ => true
  | .passRecompute _ _ => true
  | .anchorReplay _ => true
  | .replayModeEnd => true
  | .reductionJoinRepeat _ _ => true
  | .hbmSectorError addr a b _ _ => sectorAddr addr && [a, b].all fun x => decide (x.data.length = 64 ∧ x.code < 2 ^ 32)
  | .peerRestoreReply addr result data => sectorAddr addr && decide (result = 0 → data.length = 64)
  | .peerRestoreTimeout addr => sectorAddr addr
  | .laneRepair chan lane _ => decide (chan < 128 ∧ lane < 64)
  | .pcRetire _ => true
  | .refresh _ _ _ => true
  | .refreshSlotAccess _ _ => true
  | .benchScrubRead _ _ _ => true
  | .phaseFail rail phase => rail.hasPhase phase
  | .linkTraining _ => true
  | .linkTrained _ mode _ partner => partner.all (fun c => decide (c < 2 ^ 15)) && decide (mode.isSome = partner.isSome)
  | .linkLaneLoss _ _ => true
  | .linkPacketReceive _ pkt => pkt.fits
  | .linkCreditReturn _ => true
  | .linkReplayTimeout _ => true
  | .packetForward _ pkt => pkt.fits
  | .sendReceive _ arr => arr.pkt.fits
  | .postReceive _ arr => arr.pkt.fits
  | .ackReceive _ pkt => pkt.fits
  | .readReqReceive _ pkt => pkt.fits
  | .readRespReceive _ pkt => pkt.fits
  | .redDataReceive _ pkt => pkt.fits
  | .redCtlMissed _ pkt => pkt.fits
  | .redCtlStale _ pkt => pkt.fits
  | .redCtlResend _ ask => ask.pkt.fits
  | .tallyExchange _ => true
  | .tallyPacketReceive _ pkt _ => pkt.fits
  | .tallyRefEdge => true
  | .e2eResend _ => true
  | .acceptRecordExpire _ => true
  | .epochDrained => true
  | .segmentInstanceBegin _ _ _ => true
  | .reductionStageDeadline _ _ _ => true
  | .reductionWindowSpace _ => true
  | .coldReset => true
  | .perstAssert => true
  | .perstDeassert _ => true
  | .cxlHotReset => true
  | .functionLevelReset => true
  | .pwrGoodAssert failedPhases => failedPhases.all fun x => x.1.hasPhase x.2
  | .railSequenceDone => true
  | .railTimeout _ => true
  | .pwrGoodDeassert _ => true
  | .inputShutdown => true
  | .coreRefLoss => true
  | .memoryStage _ lanes _ => lanes.all fun x => decide (x.1 < 128 ∧ x.2 < 64)
  | .computeStage _ _ guard => decide (guard ≤ 4)
  | .reinstateBistDone _ => true
  | .levelChangeComplete => true
  | .droopStretch _ _ => true
  | .stretchEnd _ _ => true
  | .clockStopCheck _ _ => true
  | .sensorRead readings => readings.all fun r => r.2.all fun t => decide (-128 < t ∧ t ≤ 127)
  | .thermalEvaluate => true
  | .s1Entry _ => true
  | .s2Entry _ => true
  | .s3Entry => true
  | .s3EntryComplete => true
  | .coreWake _ => true
  | .s3Wake => true
  | .s3ExitComplete => true
  | .telemetryRecord watts centivolts cycles => decide (watts < 2 ^ 16 ∧ centivolts < 2 ^ 16 ∧ cycles < 2 ^ 32)
  | .arrayOperationDone _ _ _ => true
  | .vectorOperationDone _ _ _ => true
  | .atomicAcknowledge _ => true
  | .memoryDescriptorComplete _ host => host.all fun bs => decide (bs.length % 64 = 0)
  | .receivedPacketDiscard _ pkt => pkt.fits
  | .currentLimitStretch _ _ => true
  | .clockStopEnd _ _ => true
  | .ageingGuardBandRaise => true
  | .entropyBufferRefill _ => true
  | .coreWakeComplete _ => true
  | .cxlLinkPowerState _ => true

end Sys2Proof
end

