-- ==== Sys2Proof/Tests/Slice0.lean ====
section
/-! SUPPORT. Small tests: the spec's worked examples, ill-formed commands that WellFormed refuses, and for every statement with
hypotheses a state and operands that meet them (the names `test_meets_…`). -/
namespace Sys2Proof.Tests

open Sys2Proof.Machine Sys2Proof.Safety

/-- The state that a command answers. -/
def after (i : Instr) (s : State) : State := match exec i s with | .next t => t | _ => s

/-- The first thread of the first core, and the second. -/
def th0 : ThRef := ⟨0, 0⟩
def th1 : ThRef := ⟨0, 1⟩

/-- A launch that owns 256 MiB from 0x10000000 on, with its anchors at 0x20000000. -/
def desc : LaunchDesc :=
  { image := 0x10000000, start := 0, arg := 0, rangeBase := 0x10000000, rangeBytes := 0x10000000, anchorBase := 0x20000000,
    anchorBytes := 0x40000000, multi := false, backlog := false, vvCap := 1, sections := [], windows := [], windowCount := 0 }
def dhead : DHead := { sq := 0, tag := 7, opc := 1, slot := 0, irq := false, word := 1 }
def launch1 : Launch :=
  { d := desc, h := dhead, item := 0, seq := 1, st := .active, exc := 0, vvx := false, level := 0, late := false, lateTicks := 0,
    depth := false, waited := false, short := false, firstTick := some 0, halt := none, otherFaults := 0, faultTick := 0, sameCycle := [], vvLog := [], anchors := [],
    anchorNo := 0, attempts := 0, replay := false, replayFrom := 0, journal := [], restoreReq := [], replayedFor := [],
    replayedGather := [], peerWait := [], regather := 0 }

/-- Reset with that launch active. -/
def busy : State := { State.reset with launch := some launch1 }

/-- Scalar registers from a list. -/
def regs (l : List (Fin 32 × Nat)) : Regs := l.foldl (fun g (i, v) => g.set i (BitVec.ofNat 64 v)) regs0

/-- An instruction word: OPC and fields at their lowest bits. -/
def word (opc : Nat) (fs : List (Nat × Nat)) : Word := BitVec.ofNat 64 (fs.foldl (fun n (lo, v) => n + v * 2 ^ lo) (opc * 2 ^ 56))

/-- A running thread at the first of four instructions, all `w`. -/
def thr (w : Word) : Thread := { thread0 with st := .running, stream := some ⟨0x10001000, 4⟩, cue := [⟨0, [w, w, w, w]⟩] }

/-- `busy` with that thread as T0 of core 0, changed by `f`. -/
def run (w : Word) (f : Thread → Thread := id) : State := busy.setTh th0 (f (thr w))

/-- The same with registers. -/
def runG (w : Word) (g : List (Fin 32 × Nat)) : State := run w fun t => { t with regs := regs g }

/-- A bench of core 0 that holds bytes. -/
def bench0 (s : State) (a : Nat) (bs : List Byte) : State := benchWrite s 0 a bs

/-- What `issues` and `executes` ask, as checks that compute. -/
def canRun (s : State) (th : ThRef) (w : Word) : Bool :=
  canIssue s th && (match fetchWord s th with | some (.ok v) => decide (v = w) | _ => false) && decide (decodeFault w.toNat = none)
def runs (s : State) (th : ThRef) (w : Word) (op : Nat) (us : List ExecUnit) : Bool :=
  canRun s th w && decide (fOPC w.toNat = op) && decide ((s.th th).regs.pred (fPRED w.toNat) ≠ fPN w.toNat) && sbRoom s th us &&
    !heldHit s ⟨th, (s.th th).pos, w.toNat⟩

theorem issues_of_canRun {s : State} {th : ThRef} {w : Word} (h : canRun s th w = true) : issues s th w := by
  simp only [canRun, Bool.and_eq_true, decide_eq_true_eq] at h
  obtain ⟨⟨h1, h2⟩, h3⟩ := h
  refine ⟨h1, ?_, h3⟩
  split at h2 <;> simp_all

theorem executes_of_runs {s : State} {th : ThRef} {w : Word} {op : Nat} {us : List ExecUnit} (h : runs s th w op us = true) :
    executes s th w op us := by
  simp only [runs, Bool.and_eq_true, decide_eq_true_eq, Bool.not_eq_true'] at h
  obtain ⟨⟨⟨⟨h1, h2⟩, h3⟩, h4⟩, h5⟩ := h
  exact ⟨issues_of_canRun h1, h2, h3, h4, h5⟩

set_option maxRecDepth 8000
set_option Elab.async false

/-! Instructions. The words are written from Tables 8.1 to 8.10. -/

theorem test_meets_AluResults : ∀ row ∈ aluTable, runs (run (word row.2.1 [])) th0 (word row.2.1 []) row.2.1 [] = true := by decide +kernel

/-- R195: an immediate is sign-extended; a register sum wraps. -/
theorem test_add : ((after (.add th0) (runG (word 0x10 [(46, 3), (41, 1), (35, 1), (0, 0xFFFFFFFF)]) [(1, 5)])).th th0).regs.get 3 = 4 ∧
    ((after (.add th0) (runG (word 0x10 [(46, 3), (41, 1), (36, 2)]) [(1, 2 ^ 64 - 1), (2, 3)])).th th0).regs.get 3 = 2 := by decide +kernel

/-- R195: a shift takes the low six bits of its amount; s0 discards writes. -/
theorem test_shift_and_s0 : ((after (.shl th0) (runG (word 0x16 [(46, 3), (41, 1), (35, 1), (0, 65)]) [(1, 5)])).th th0).regs.get 3 = 10 ∧
    ((after (.sar th0) (runG (word 0x18 [(46, 3), (41, 1), (35, 1), (0, 1)]) [(1, 2 ^ 63)])).th th0).regs.get 3 = 0xC000000000000000 ∧
    ((after (.add th0) (runG (word 0x10 [(41, 1), (35, 1), (0, 1)]) [(1, 5)])).th th0).regs.get 0 = 0 := by decide +kernel

theorem test_meets_ScalarResults : ∀ o ∈ [0x00, 0x1D, 0x20, 0x22, 0x07, 0x08], runs (run (word o [])) th0 (word o []) o [] = true := by decide +kernel

/-- Table 8.4: CMP SUB 2 is signed, SUB 4 unsigned. -/
theorem test_cmp : ((after (.cmp th0) (runG (word 0x20 [(46, 1), (41, 1), (36, 2), (32, 2)]) [(1, 2 ^ 63), (2, 1)])).th th0).regs.pred 1 = true ∧
    ((after (.cmp th0) (runG (word 0x20 [(46, 1), (41, 1), (36, 2), (32, 4)]) [(1, 2 ^ 63), (2, 1)])).th th0).regs.pred 1 = false := by decide +kernel

/-- R191: PN on p0 has every kind of instruction skip; R192: a reserved opcode, a reserved bit and a missing mark still fault. -/
theorem test_meets_PredicatesAndDecodeFaults :
    (∀ o ∈ [0x00, 0x10, 0x05, 0x28, 0x41], canRun (run (word o [(54, 1)])) th0 (word o [(54, 1)]) = true ∧
      ((run (word o [(54, 1)])).th th0).regs.pred (fPRED (word o [(54, 1)]).toNat) = fPN (word o [(54, 1)]).toNat) ∧
    canIssue (run (word 0x7F [])) th0 = true ∧
    decodeFault (word 0x7F []).toNat = some .illegalOpcode ∧ decodeFault (word 0x10 [(32, 1)]).toNat = some .reservedField ∧
    decodeFault (word 0x30 []).toNat = some .markMissing := by decide +kernel

theorem test_meets_BranchRangeAndStreamEnd :
    runs (run (word 0x05 [(0, 0xFFFFFFFF)])) th0 (word 0x05 [(0, 0xFFFFFFFF)]) 0x05 [] = true ∧
    runs (run (word 0x05 [(0, 4)])) th0 (word 0x05 [(0, 4)]) 0x05 [] = true ∧
    runs (run (word 0x06 [(0, 4)]) fun t => { t with regs := { regs0 with lc := #v[2, 0, 0, 0] } }) th0 (word 0x06 [(0, 4)]) 0x06 [] = true ∧
    canIssue (run 0 fun t => { t with pos := 4 }) th0 = true := by decide +kernel

/-- R196: a target of INSTR_COUNT faults at the branch, a position of INSTR_COUNT is STREAM_END; the faults latch (R487). -/
theorem test_branch_range : ((after (.br th0) (run (word 0x05 [(0, 4)]))).core 0).fault = ⟨true, 0x0C, 0, 0xFFFF, 0, word 0x05 [(0, 4)]⟩ ∧
    ((after (.br th0) (run (word 0x05 [(0, 3)]))).th th0).pos = 3 ∧
    ((after (.add th0) (run 0 fun t => { t with pos := 4 })).core 0).fault.code = 0x18 := by decide +kernel

theorem test_meets_FaultHaltsTheLaunch : busy.launch = some launch1 ∧ launch1.halt = none ∧
    ({ busy with launch := some { launch1 with halt := some .internal } } : State).launch.map (·.halt) ≠ some none := by decide +kernel

/-- LC of 2: LOOP branches and leaves 1; of 1: it falls through and leaves 0; of 0: it falls through. -/
theorem test_meets_Branches : ∀ n : Fin 3, let s := run (word 0x06 [(0, 2)]) fun t => { t with regs := { regs0 with lc := #v[BitVec.ofNat 32 n.1, 0, 0, 0] } }
    runs s th0 (word 0x06 [(0, 2)]) 0x06 [] = true ∧ ((after (.loop th0) s).th th0).pos = (if n = 2 then 2 else 1) ∧
    ((after (.loop th0) s).th th0).regs.lc[0] = BitVec.ofNat 32 (n.1 - 1) := by decide +kernel

def wLD : Word := word 0x28 [(46, 3), (41, 1), (34, 1), (32, 1)]
def wST : Word := word 0x29 [(46, 3), (41, 1), (32, 1)]
/-- LD of two signed bytes; the first and the last address that two bytes allow. -/
theorem test_meets_LoadStore : memoriesWf (runG wLD [(1, 0)]) ∧ ∀ a ∈ [0, 0x17FFFE], runs (runG wLD [(1, a)]) th0 wLD 0x28 [.vector] = true ∧
    runs (runG wST [(1, a)]) th0 wST 0x29 [.vector] = true ∧
    ((after (.ld th0) (bench0 (runG wLD [(1, a)]) a [0xFE, 0xFF])).th th0).regs.get 3 = 0xFFFFFFFFFFFFFFFE := by decide +kernel

/-- A misaligned address; T0 of a split core at the first address of lane B; the first address above the bench. -/
theorem test_meets_LoadStoreFaults : ((after (.ld th0) (runG wLD [(1, 1)])).core 0).fault.code = 0x04 ∧
    ((after (.st th0) ((runG wST [(1, 0xC0000)]).modCore 0 fun k => { k with split := true })).core 0).fault.code = 0x07 ∧
    ((after (.ld th0) (runG wLD [(1, 0x180000)])).core 0).fault.code = 0x0B ∧
    runs ((runG wST [(1, 0xC0000)]).modCore 0 fun k => { k with split := true }) th0 wST 0x29 [.vector] = true ∧
    runs (runG wLD [(1, 1)]) th0 wLD 0x28 [.vector] = true ∧ runs (runG wLD [(1, 0x180000)]) th0 wLD 0x28 [.vector] = true := by decide +kernel

def wRD (o : Nat) (imm : Nat) : Word := word o [(55, 1), (46, 3), (0, imm)]
def logged (s : State) (v : Word) : State := { s with launch := s.launch.map fun l => { l with vvLog := [⟨v, 0, th0, false⟩] } }
/-- No entry and room; an entry to take again; no entry and a full log. -/
theorem test_meets_ValueVaryingReads : (∀ o ∈ [0x30, 0x31, 0x32],
    runs (run (wRD o (if o = 0x32 then 0x17 else 0))) th0 (wRD o (if o = 0x32 then 0x17 else 0)) o [] = true) ∧
    vvNext (run (wRD 0x30 0)) th0 = none ∧ vvFull (run (wRD 0x30 0)) = false ∧ vvNext (logged (run (wRD 0x30 0)) 9) th0 = some 9 ∧
    liveCounter (run (wRD 0x32 0)) 0 0x17 = some 0 ∧ liveCounter (run (wRD 0x32 0)) 0 0x18 = none ∧ State.reset.sec.error = false := by
  decide +kernel
theorem test_meets_ValueVaryingReads_full : let s := logged (run (wRD 0x30 0) fun t => { t with vvPos := 1 }) 9
    runs s th0 (wRD 0x30 0) 0x30 [] = true ∧ vvNext s th0 = none ∧ vvFull s = true := by decide +kernel

/-- R42: a logged Tally is read again from the log. -/
theorem test_tallyrd : ((after (.tallyrd th0) (logged { run (wRD 0x30 0) with tally := 78 } 77)).th th0).regs.get 3 = 77 := by decide +kernel

def pendingVec : Thread → Thread := fun t => { t with sb := [⟨[.vector], .vec, 0⟩] }
theorem test_meets_FlagClear : runs (run (word 0x34 [(0, 1)])) th0 (word 0x34 [(0, 1)]) 0x34 [] = true ∧
    runs (run (word 0x34 [(0, 1)]) pendingVec) th0 (word 0x34 [(0, 1)]) 0x34 [] = true := by decide +kernel

theorem test_meets_FlagReadStatusReadWait :
    (∀ f ∈ [id, pendingVec], runs (run (word 0x33 [(46, 1)]) f) th0 (word 0x33 [(46, 1)]) 0x33 [] = true ∧
      runs (run (word 0x04 [(0, 16)]) f) th0 (word 0x04 [(0, 16)]) 0x04 [] = true) ∧
    runs ((run (word 0x44 [(34, 2)])).modCore 0 fun k => { k with split := true }) th0 (word 0x44 [(34, 2)]) 0x44 [] = true ∧
    runs (run (word 0x44 [(34, 1)])) th0 (word 0x44 [(34, 1)]) 0x44 [] = true := by decide +kernel

/-! Vector and array operations. -/

/-- A vector word of a format at an address. -/
def vw (a f : Nat) : Nat := a + f * 2 ^ 21
def wVOP (fn : Nat) : Word := word 0x50 [(46, 1), (41, 2), (36, if vopArity fn ≤ 1 then 0 else 3), (31, if vopArity fn ≤ 2 then 0 else 4), (26, 5), (20, fn)]
def vopRegs : List (Fin 32 × Nat) := [(1, vw 0x100 0), (2, vw 0x200 0), (3, vw 0x300 0), (4, vw 0x400 0), (5, 1)]
theorem test_meets_VectorOperations : memoriesWf (runG (wVOP 0) vopRegs) ∧ ∀ row ∈ vopTable,
    runs (runG (wVOP row.2.1) vopRegs) th0 (wVOP row.2.1) 0x50 [.vector] = true ∧ fFUNC (wVOP row.2.1).toNat = row.2.1 := by decide +kernel

/-- A sum of two floats; no elements are VEC_RANGE. -/
theorem test_vop : vopFault (runG (wVOP 0) vopRegs) ⟨th0, 0, (wVOP 0).toNat⟩ (.fp fun sat a b _ => fp32Add sat a b)
      (vopOp (runG (wVOP 0) vopRegs) ⟨th0, 0, (wVOP 0).toNat⟩) = none ∧
    benchRead (after (.vopAdd th0) (bench0 (bench0 (runG (wVOP 0) vopRegs) 0x200 [0, 0, 0x80, 0x3F]) 0x300 [0, 0, 0, 0x40])) 0 0x100 4 =
      [0, 0, 0x40, 0x40] ∧
    ((after (.vopAdd th0) (runG (wVOP 0) [(5, 0)])).core 0).fault.code = 0x0D := by decide +kernel

/-- WLD of FP16 rows 64 bytes apart; INT32 cannot be stationary. -/
def wWLD (f : Nat) : Word := word 0x40 [(46, 1), (40, f)]
theorem test_meets_WeightLoad : ∀ f ∈ [3, 0xC], runs (runG (wWLD f) [(1, 64 * 2 ^ 21)]) th0 (wWLD f) 0x40 [.array 0] = true ∧
    wldFault (runG (wWLD f) [(1, 64 * 2 ^ 21)]) ⟨th0, 0, (wWLD f).toNat⟩ = if f = 3 then none else some .formatIllegal := by decide +kernel

/-- The spec's own words of WLD and MMA (Tables 8.5 and 8.6): WLD array 0, FP8 E4M3 from s6's place. -/
def loaded (s : State) : State := s.modCore 0 fun k =>
  { k with planes := vset k.planes 0 { planes0 with p0 := some ⟨.fp16, List.replicate 32 (List.replicate 32 0x3C00), [], false⟩, latest := some 0 } }
def wMMA (m : Nat) : Word := word 0x41 [(46, 1), (35, 31), (27, m), (20, 31), (4, 3)]
theorem test_meets_ArrayOperation : ∀ m ∈ [0, 255],
    runs (loaded (runG (wMMA m) [(1, 64 * 2 ^ 21)])) th0 (wMMA m) 0x41 (mmaUnits (wMMA m).toNat) = true ∧
    mmaFault (loaded (runG (wMMA m) [(1, 64 * 2 ^ 21)])) ⟨th0, 0, (wMMA m).toNat⟩ (mmaOp (loaded (runG (wMMA m) [(1, 64 * 2 ^ 21)])) ⟨th0, 0, (wMMA m).toNat⟩) = none ∧
    mmaFault (runG (wMMA m) [(1, 64 * 2 ^ 21)]) ⟨th0, 0, (wMMA m).toNat⟩ (mmaOp (runG (wMMA m) [(1, 64 * 2 ^ 21)]) ⟨th0, 0, (wMMA m).toNat⟩) = some .planeEmpty := by decide +kernel

def wTRD (f : Nat) : Word := word 0x42 [(46, 1), (25, f)]
def wTJN : Word := word 0x43 [(31, 1)]
theorem test_meets_ReadoutAndJoin :
    (∀ f ∈ [0, 6], runs (runG (wTRD f) [(1, 64 * 2 ^ 21)]) th0 (wTRD f) 0x42 (trdUnits (wTRD f).toNat) = true ∧
      trdFault (runG (wTRD f) [(1, 64 * 2 ^ 21)]) ⟨th0, 0, (wTRD f).toNat⟩ ((Fmt.ofCode f).getD .fp32) = if f = 0 then none else some .formatIllegal) ∧
    runs (run wTJN) th0 wTJN 0x43 (trdUnits wTJN.toNat) = true ∧ tjnFault (run wTJN) ⟨th0, 0, wTJN.toNat⟩ = some .passTileOrder ∧
    tjnFault (run wTJN fun t => { t with written := 2 }) ⟨th0, 0, wTJN.toNat⟩ = none := by decide +kernel

def wSI : Word := word 0x54 [(41, 16)]
def wSF : Word := word 0x55 [(46, 1), (41, 16), (36, 2)]
def wSX : Word := word 0x52 [(46, 1), (41, 2), (31, 0), (26, 1), (12, 31)]
def wTK : Word := word 0x51 [(46, 1), (41, 2), (36, 3), (31, 4)]
def wTS : Word := word 0x53 [(35, 1), (41, 1)]
def wTA : Word := word 0x56 [(46, 1)]
def tiled : Thread → Thread := fun t => { t with written := 1, regs := regs [(1, vw 0x1000 0), (2, vw 0x200 0), (3, 0x300), (4, 2)] }
theorem test_meets_SlotsAndTiles : let sp (s : State) := s.modCore 0 fun k => { k with split := true }
    memoriesWf (run wSI) ∧ runs (run wSI) th0 wSI 0x54 [.vector] = true ∧ runs (sp (run wSI)) th0 wSI 0x54 [.vector] = true ∧
    runs (run wSF) th0 wSF 0x55 [.vector] = true ∧ slotFinalFault (run wSF) ⟨th0, 0, wSF.toNat⟩ 16 ⟨0, 0⟩ ⟨0x80, 0⟩ = none ∧
    slotFinalFault (run wSF) ⟨th0, 0, wSF.toNat⟩ 16 ⟨0, 0⟩ ⟨0x80, 1⟩ = some .formatIllegal ∧
    runs (runG wSX [(1, 128 * 2 ^ 21), (2, vw 0x4000 0)]) th0 wSX 0x52 [.vector] = true ∧
    smaxFault (runG wSX [(1, 128 * 2 ^ 21), (2, vw 0x4000 0)]) ⟨th0, 0, wSX.toNat⟩ (smaxOp (runG wSX [(1, 128 * 2 ^ 21), (2, vw 0x4000 0)]) ⟨th0, 0, wSX.toNat⟩) = none ∧
    smaxFault (runG wSX [(2, vw 0x4001 0)]) ⟨th0, 0, wSX.toNat⟩ (smaxOp (runG wSX [(2, vw 0x4001 0)]) ⟨th0, 0, wSX.toNat⟩) = some .vecRange := by decide +kernel
theorem test_meets_SlotsAndTiles_rest : runs (run wTK tiled) th0 wTK 0x51 [.vector] = true ∧
    topkFault (run wTK tiled) ⟨th0, 0, wTK.toNat⟩ (vecWord (BitVec.ofNat 64 (vw 0x1000 0))) (vecWord (BitVec.ofNat 64 (vw 0x200 0))) (vecWord 0x300) 2 1 = none ∧
    topkFault (run wTK tiled) ⟨th0, 0, wTK.toNat⟩ (vecWord (BitVec.ofNat 64 (vw 0x1000 0))) (vecWord (BitVec.ofNat 64 (vw 0x200 0))) (vecWord 0x300) 2 3 = some .topkRange ∧
    runs (run wTS tiled) th0 wTS 0x53 [.vector] = true ∧ tscaleFault (run wTS tiled) ⟨th0, 0, wTS.toNat⟩ ⟨0, 0⟩ = none ∧
    tscaleFault (run wTS) ⟨th0, 0, wTS.toNat⟩ ⟨0, 0⟩ = some .passTileOrder ∧
    runs (run wTA tiled) th0 wTA 0x56 [.vector] = true ∧ taccFault (run wTA tiled) ⟨th0, 0, wTA.toNat⟩ (vecWord (BitVec.ofNat 64 (vw 0x1000 0))) = none ∧
    taccFault (run wTA tiled) ⟨th0, 0, wTA.toNat⟩ (vecWord (BitVec.ofNat 64 (vw 0x1000 2))) = some .formatIllegal := by decide +kernel

/-! DMA. -/

/-- The 64 bytes of a descriptor (Table 7.4). -/
def dbytes (d : DmaDesc) : List Byte :=
  toBytes 1 d.op ++ toBytes 1 d.fmt ++ toBytes 1 d.ctl ++ toBytes 1 d.buf ++ toBytes 1 d.seedReg ++ toBytes 3 d.stream ++
    toBytes 8 d.src ++ toBytes 8 d.dst ++ toBytes 4 d.rowElems ++ toBytes 4 d.rows ++ toBytes 8 d.srcStride ++ toBytes 8 d.dstStride ++
    toBytes 8 d.indexBase ++ toBytes 8 d.scaleOff
/-- A DMA of the first instruction whose descriptor at 0x40 is `d`: one row of 8 elements of the code `f`. -/
def dd (op f ctl src dst : Nat) : DmaDesc := ⟨op, f, ctl, 0, 0, 0, src, dst, 8, 1, 0, 0, 0, 0⟩
def wDMA : Word := word 0x60 [(55, 1), (41, 1)]
def dma (d : DmaDesc) : State := bench0 (runG wDMA [(1, 0x40)]) 0x40 (dbytes d)
def cDMA : Ctx := ⟨th0, 0, wDMA.toNat⟩
/-- Entry 0 of the buffer table, in a state. -/
def buf0 (st : BufSt) (s : State) : State :=
  { s with bufs := s.bufs.set 0 { bufEntry0 with st := st, base := 0x10010000, size := 0x10000, uses := 2, parts := 1, defn := (2, 1), ev := 5 } }
/-- The descriptor read, the fault and the wait of a DMA, all as expected. -/
def dmaIs (s : State) (d : DmaDesc) (f : Option IFault) (w : Bool) : Bool :=
  runs s th0 wDMA 0x60 [.dma] && decide (descFault s cDMA = none) && decide (readDesc s cDMA = d) && decide (dmaFault s cDMA d = f) &&
    !benchHeld s 0 [(descAddr s cDMA, 64)] [] && dmaWaits s cDMA d == w
/-- Halves of core 0's bench, and sectors of HBM, that fail. -/
def badHalf (l : List Nat) (s : State) : State :=
  { s with sites := vmod s.sites (siteOf s 0) fun x => { x with bad := l } }
def badHbm (l : List Nat) (s : State) : State := { s with hbm := { s.hbm with bad := l } }

/-- Each operation accepted; fields that break a rule; an operation 6; a FILLING source; a source sector under restore. -/
theorem test_meets_DmaTransfers :
    (∀ x ∈ [(0, 0), (1, 0x30), (2, 0)], dmaIs (dma { dd x.1 x.2 0 0x1000 0x2000 with dstStride := 4 })
      { dd x.1 x.2 0 0x1000 0x2000 with dstStride := 4 } none false = true) ∧
    dmaIs (dma (dd 1 0 0 0x1000 0x2000)) (dd 1 0 0 0x1000 0x2000) (some .formatIllegal) false = true ∧
    dmaIs (buf0 .filling (dma (dd 3 0 0x30 0x10000000 0x10010000))) (dd 3 0 0x30 0x10000000 0x10010000) none false = true ∧
    dmaIs (dma (dd 4 0 0x20 0x1000 0x10000000)) (dd 4 0 0x20 0x1000 0x10000000) none false = true ∧
    dmaIs (dma (dd 5 0 0 0x11 0x2000)) (dd 5 0 0 0x11 0x2000) none false = true ∧
    dmaIs (dma (dd 6 0 0 0x1000 0x2000)) (dd 6 0 0 0x1000 0x2000) (some .dmaDesc) false = true ∧
    dmaIs (dma (dd 0 0 0 0x1001 0x2000)) (dd 0 0 0 0x1001 0x2000) (some .dmaDesc) false = true ∧
    dmaIs (dma (dd 0 0 0 0x1000 0x1004)) (dd 0 0 0 0x1000 0x1004) (some .dmaRange) false = true ∧
    dmaIs (buf0 .filling (dma (dd 0 0 0x50 0x10010000 0x2000))) (dd 0 0 0x50 0x10010000 0x2000) none true = true ∧
    dmaIs (badHalf [0x1000] (dma (dd 0 0 0 0x1000 0x2000))) (dd 0 0 0 0x1000 0x2000) none true = true ∧
    dmaIs (badHbm [0x10000000] (dma (dd 0 0 0x20 0x1000 0x10000004))) (dd 0 0 0x20 0x1000 0x10000004) none true = true ∧
    benchHeld (badHalf [0x40] (dma (dd 0 0 0 0x1000 0x2000))) 0 [(descAddr (dma (dd 0 0 0 0x1000 0x2000)) cDMA, 64)] [] = true ∧
    descFault (runG wDMA [(1, 0x20)]) cDMA = some .dmaDesc ∧ descFault (runG wDMA [(1, 0x180000)]) cDMA = some .dmaRange := by decide +kernel

/-- R521: the pattern of a FILL begins at byte 0 of each row; R174: COPY of 32 bytes. -/
theorem test_meets_DmaFrameAndFill : memoriesWf (run 0) ∧ (dd 5 0 0 0 0x2000).dstHbm = false ∧ (dd 5 0 0x20 0 0x10000000).dstHbm = true ∧
    benchRead (dmaFill (run 0) 0 { dd 5 0 0 0x0807060504030201 0x2003 with rowElems := 10 }) 0 0x2002 12 = [0, 1, 2, 3, 4, 5, 6, 7, 8, 1, 2, 0] ∧
    benchRead (after (.dmaCopy th0) (bench0 (dma (dd 0 0 0 0x1000 0x2000)) 0x101F [9])) 0 0x201F 1 = [9] := by decide +kernel

def sb1 (k : OpKind) (us : List ExecUnit) (s : State := run 0) : State := s.modTh th0 fun t => { t with sb := [⟨us, k, 0⟩] }
theorem test_meets_ScoreboardLeaves :
    (∀ k ∈ [OpKind.transfer true 3, .vec, .load, .matrix, .readout, .gather 0 0 true, .gather 0 0 false],
      ((sb1 k [.vector]).th th0).sb[0]? = some ⟨[.vector], k, 0⟩ ∧ gatherOpen (sb1 k [.vector]) th0 0 0 0 = false) ∧
    (bufOf (buf0 .filling (run 0)) 0).parts = 1 ∧ (bufOf (buf0 .filling (run 0)) 0).again = false ∧
    ((buf0 .filling (run 0)).core (bufOf (buf0 .filling (run 0)) 0).core).ev[(bufOf (buf0 .filling (run 0)) 0).ev] ≠ 0xFFFFFFFF ∧
    ((after (.dmaTransferDone th0 0 4) (sb1 (.transfer true 3) [.dma])).core 0).live.bankStall = 4 ∧
    ((after (.gatherComplete th0 0) (sb1 (.gather 0 0 false) [.dma] (buf0 .filling (run 0)))).core 0).ev[5] = 1 := by decide +kernel

def wBUF : Word := word 0x61 [(46, 1), (41, 2), (35, 5), (16, 2)]
def bufdefAt (base size : Nat) : State := runG wBUF [(1, base), (2, size)]
def wFADD : Word := word 0x62 [(55, 1), (46, 3), (41, 1), (36, 2)]
theorem test_meets_BufdefAndFadd :
    (∀ b ∈ [0x10010000, 0x10000001, 0x20000000], runs (bufdefAt b 0x10000) th0 wBUF 0x61 [] = true) ∧
    runs (buf0 .ready (bufdefAt 0x10010000 0x10000)) th0 wBUF 0x61 [] = true ∧
    (after (.bufdef th0) (bufdefAt 0x10010000 0x10000)).bufs[0] =
      { st := .filling, base := 0x10010000, size := 0x10000, uses := 2, parts := 1, core := 0, ev := 5, owner := some (th0, 0, 0),
        defn := (2, 1), fills := [], again := false } ∧
    vvNext (runG wFADD []) th0 = none ∧ vvFull (runG wFADD []) = false ∧ vvFull (logged (runG wFADD []) 1) = true ∧
    (∀ a ∈ [0x10000000, 0x1FFFFFF8, 0x1FFFFFFC, 0x20000000], runs (runG wFADD [(1, a)]) th0 wFADD 0x62 [.dma] = true) ∧
    ((runG wFADD [(1, 0x10000000)]).modTh th0 fun t => { t with hold := List.replicate 64 (.release 0 0) }).launch = some launch1 := by
  decide +kernel
theorem test_fadd : (after (.fadd th0) (runG wFADD [(1, 0x1FFFFFF8), (2, 6)])).launch.map (·.vvx) = some true ∧
    ((after (.fadd th0) (runG wFADD [(1, 0x1FFFFFF8), (2, 6)])).th th0).hold = [.fadd 0 0x1FFFFFF8 6 3] ∧
    ((after (.fadd th0) (runG wFADD [(1, 0x20000000)])).core 0).fault.code = 0x10 := by decide +kernel

/-! Passes, events and commits. -/

/-- A span of `len` bytes at `a`, and a destination address on core 0 of this chip (Table 8.2). -/
def spanW (a len : Nat) : Nat := a + len * 2 ^ 21
def fullHold : Thread → Thread := fun t => { t with hold := List.replicate 64 (.release 0 0) }
def splitUp (s : State) : State := s.modCore 0 fun k => { k with split := true }
def wSEND : Word := word 0x63 [(46, 1), (41, 2), (35, 5)]
def wPOST : Word := word 0x64 [(41, 2), (35, 5)]
def wGRDY (e dl : Nat) : Word := word 0x67 [(55, dl), (46, 1), (41, 2 * dl), (35, e), (34, dl)]
def sendRegs (a len d : Nat) : Thread → Thread := fun t => { t with regs := regs [(1, spanW a len), (2, d)] }
theorem test_meets_HeldPosts :
    (∀ x ∈ [(0, 64, 0), (0, 63, 0), (0, 1048576 + 64, 0), (0x180000 - 64, 64, 0x180000 - 64), (0x180000 - 64, 128, 0), (0, 128, 0x180000 - 64)],
      runs (run wSEND (sendRegs x.1 x.2.1 x.2.2)) th0 wSEND 0x63 [] = true) ∧
    runs (splitUp (run wSEND (sendRegs (0xC0000 - 64) 128 0))) th0 wSEND 0x63 [] = true ∧
    runs (run wSEND fun t => fullHold (sendRegs 0 64 0 t)) th0 wSEND 0x63 [] = true ∧
    runs (run wPOST) th0 wPOST 0x64 [] = true ∧ runs (run wPOST fullHold) th0 wPOST 0x64 [] = true ∧
    (∀ dl ∈ [0, 1], runs (run (wGRDY 5 dl)) th0 (wGRDY 5 dl) 0x67 [] = true) ∧
    runs (splitUp (run (wGRDY 32 0))) th0 (wGRDY 32 0) 0x67 [] = true ∧ runs (run (wGRDY 5 0) fullHold) th0 (wGRDY 5 0) 0x67 [] = true ∧
    ((after (.send th0) (run wSEND (sendRegs 0 64 (0x100 + 3 * 2 ^ 21)))).th th0).hold = [.send 0 ⟨0, 64⟩ ⟨0x100, 3, 0, 0⟩ 5 0] ∧
    ((after (.send th0) (run wSEND (sendRegs (0x180000 - 64) 128 0))).core 0).fault.code = 0x0B := by decide +kernel

def wAW (n : Nat) : Word := word 0x65 [(40, 5), (0, n)]
def wAA : Word := word 0x66 [(55, 1), (46, 3), (41, 1)]
/-- Event 5 of core 0 at a count. -/
def ev5 (n : Nat) (s : State) : State := s.modCore 0 fun k => { k with ev := k.ev.set 5 (BitVec.ofNat 32 n) }
theorem test_meets_EventWaits : launch1.replay = false ∧
    (∀ n ∈ [0, 3, 4], runs (ev5 3 (run (wAW n))) th0 (wAW n) 0x65 [] = true) ∧
    ((ev5 3 (run 0)).core 0).ev[5] = 3 ∧ busy.launch = some launch1 ∧ launch1.st = .active ∧
    ((run 0 fun t => { t with st := .awaiting 5 3 }).th th0).st = .awaiting 5 3 ∧
    ((run 0 fun t => { t with st := .awaitingAny 3 32 }).th th0).st = .awaitingAny 3 32 ∧
    vvNext (run 0 fun t => { t with st := .awaitingAny 3 32 }) th0 = none ∧
    runs (ev5 1 (runG wAA [(1, 32)])) th0 wAA 0x66 [] = true ∧ runs (splitUp (runG wAA [(1, 2 ^ 32)])) th0 wAA 0x66 [] = true ∧
    runs (logged (runG wAA [(1, 32)] |>.modTh th0 fun t => { t with vvPos := 1 }) 9) th0 wAA 0x66 [] = true := by decide +kernel
/-- R207: the count is taken; without it the thread waits; the lowest masked event is taken. -/
theorem test_await : ((after (.await th0) (ev5 3 (run (wAW 2)))).core 0).ev[5] = 1 ∧
    ((after (.await th0) (ev5 1 (run (wAW 2)))).th th0).st = .awaiting 5 2 ∧
    ((after (.awaitany th0) (ev5 1 (runG wAA [(1, 0xFF)]))).th th0).regs.get 3 = 5 := by decide +kernel

def wCOM : Word := word 0x02 []
def wEND : Word := word 0x01 []
def wANC (n : Nat) : Word := word 0x03 [(41, 1), (0, n)]
def inWindow : Thread → Thread := fun t => { t with window := some 2, mainCkpt := some ckpt0, mainStream := t.stream }
theorem test_meets_CommitEndAnchor :
    (∀ f ∈ [id, pendingVec], runs (run wCOM f) th0 wCOM 0x02 [] = true ∧ runs (run wEND f) th0 wEND 0x01 [] = true ∧
      runs (run (wANC 1) f) th0 (wANC 1) 0x03 [] = true) ∧
    runs (run wEND inWindow) th0 wEND 0x01 [] = true ∧ runs (run (wANC 2)) th0 (wANC 2) 0x03 [] = true ∧
    runs (run (wANC 1) inWindow) th0 (wANC 1) 0x03 [] = true ∧
    runs (splitUp (runG (wANC 1) [(1, 2 ^ 12)])) th0 (wANC 1) 0x03 [] = true ∧
    ((run 0).th th0).sb = [] ∧ ((run 0).th th0).hold = [] ∧ ((run 0).th th0).acks = [] ∧
    ((after (.anchor th0) (runG (wANC 1) [(1, 2 ^ 12)])).th th0).st = .atAnchor 1 (2 ^ 12) ∧
    ((after (.anchor th0) (run (wANC 2))).core 0).fault.code = 0x17 := by decide +kernel

def fadd1 : Thread → Thread := fun t => { t with hold := [.fadd 0 0x10000040 5 3], faddRegs := [3] }
def post1 : Thread → Thread := fun t => { t with hold := [.post 0 ⟨0, 0, 0, State.reset.chipId⟩ 5] }
theorem test_meets_ReleasesAndSpills_commit : memoriesWf (run wCOM fadd1) ∧ memoriesWf (run wCOM post1) ∧
    (∀ f ∈ [fadd1, post1], runs (run wCOM f) th0 wCOM 0x02 [] = true) ∧
    coreTakesPart (run wCOM post1) 0 = true ∧ localIndex (run wCOM post1) 0 < 1 ∧ (run wCOM post1).chipId = State.reset.chipId ∧
    (((after (.commit th0) (run wCOM post1)).core 0).ev[5]) = 1 ∧
    ofBytes ((after (.commit th0) (run wCOM fadd1)).hbm.mem.read 0x10000040 8) = 5 := by decide +kernel
def atAnchor1 : State := run 0 fun t => { t with st := .atAnchor 1 0 }
def apart1 : State := atAnchor1.setTh th1 (thr 0)
theorem test_meets_ReleasesAndSpills_spill : heldAnchor atAnchor1 = some 1 ∧ allHeld atAnchor1 1 = true ∧
    heldAnchor (run 0) = none ∧ heldAnchor apart1 = some 1 ∧ allHeld apart1 1 = false := by decide +kernel

def win1 : WindowEntry := ⟨th0, 2, 0, 100⟩
def atWindow (s : State) : State := { s with launch := s.launch.map fun l => { l with d := { l.d with windows := [win1] } } }
def boundIt (th : ThRef) (s : State) : State := { s with bound := [⟨2, some [⟨th, ⟨0x10002000, 8⟩⟩], 9, dhead⟩] }
def waiting2 : Thread → Thread := fun t => { t with st := .inWindowWait 2 }
def waitsFrom (n : Nat) (st : ThState) : State :=
  let s := atWindow (run 0 fun t => { t with st := st, waitAt := some n })
  { s with align := { s.align with ticks := 7 } }
def windowWaits (s : State) : Nat := (s.core 0).live.windowWait
theorem test_windowWait_counts : windowWaits (after (.windowWait th0) (waitsFrom 4 (.inWindowWait 2))) = 12 ∧
    windowWaits (after (.windowWait th0) (waitsFrom 4 .running)) = 0 ∧
    ((after (.windowWait th0) (waitsFrom 4 .running)).th th0).waitAt = some 7 ∧
    windowWaits (haltCores (waitsFrom 4 (.inWindowWait 2))) = 12 := by decide +kernel
theorem test_meets_WindowsAndCue :
    windowAt (atWindow (run 0)) th0 = some win1 ∧ mayRun (atWindow (run 0)) th0 = true ∧ boundTo (atWindow (run 0)) 2 = none ∧
    (∀ r ∈ [th0, th1], boundTo (boundIt r (run 0)) 2 = some ⟨2, some [⟨r, ⟨0x10002000, 8⟩⟩], 9, dhead⟩) ∧
    windowAt (boundIt th0 (atWindow (run 0 waiting2))) th0 = some win1 ∧
    ((after (.windowEnter th0 5) (boundIt th0 (atWindow (run 0 waiting2)))).th th0).window = some 2 ∧
    ((after (.windowEnter th0 5) (boundIt th1 (atWindow (run 0)))).th th0).passed = true := by decide +kernel
/-- Two lines of a stream, the second not yet here. -/
def cue2 : State := run 0 fun t => { t with stream := some ⟨0x10001000, 513⟩ }
theorem test_meets_WindowsAndCue_line : nextLine (cue2.th th0) 513 = some 1 ∧ 1 ≤ (cue2.th th0).pos / 512 + 11 ∧ cue2.hbm.bad = [] ∧
    (dropOldest (cue2.th th0) 16).length < 16 ∧ ((after (.cueLineFetch th0 1 0) cue2).th th0).cue.map (·.line) = [0, 1] := by
  decide +kernel

/-! Detections, replays, memory errors and service. -/

def modL (f : Launch → Launch) (s : State) : State := { s with launch := s.launch.map f }
theorem test_meets_PassRecomputed : launch1.st = .active ∧ inPass ((run 0).th th0) = true ∧ ((run 0).th th0).detections < 2 ∧
    ((run 0).core 0).detections < 31 ∧ inPass ((run 0 fun t => { t with detections := 2 }).th th0) = true ∧
    2 ≤ ((run 0 fun t => { t with detections := 2 }).th th0).detections ∧
    (modL (fun l => { l with replay := true }) (run 0)).launch = some { launch1 with replay := true } ∧
    ((after (.passRecompute th0 ⟨9, .logic⟩) (run 0 fun t => { t with pos := 3, detections := 1 })).th th0).pos = 0 ∧
    (after (.passRecompute th0 ⟨9, .cueLine 0⟩) (run 0)).ctrs.recCycles = 9 ∧
    (after (.passRecompute th0 ⟨9, .transient (.half 64)⟩) (run 0)).run.transient = 1 := by decide +kernel

def acore1 : AnchorCore := ⟨[], [], none, #v[ckpt0, ckpt0], #v[.running, .absent], #v[none, none], #v[1, 1], Vector.replicate 64 0, 3⟩
def anchor1 : AnchorRec := ⟨1, anchorHeader 1, [(0, acore1)], Vector.replicate 256 bufEntry0, []⟩
def anchored (n : Nat) (s : State) : State := modL (fun l => { l with anchors := [anchor1], anchorNo := 1, attempts := n }) s
def lostHalf (s : State) : State := { s with hbm := { s.hbm with bad := [0x20000000 + Config.anchorHalf] } }
theorem test_meets_AnchorReplays :
    (∀ n ∈ [3, 4], (anchored n (run 0)).launch.bind lastAnchor = some anchor1) ∧
    anchorLost (anchored 3 (run 0)) { launch1 with anchors := [anchor1], anchorNo := 1, attempts := 3 } anchor1 = false ∧
    anchorLost (lostHalf (anchored 3 (run 0))) { launch1 with anchors := [anchor1], anchorNo := 1, attempts := 3 } anchor1 = true ∧
    (anchor1.cores.filter fun y => decide (y.1 = 0)).length = 1 ∧
    (after (.anchorReplay (.detected none)) (anchored 4 (run 0))).launch.map (·.halt) = some (some .internal) := by decide +kernel
theorem test_meets_AnchorReplays_end :
    ((run 0).participants.all fun r => ((run 0).th r).caughtUp) = true ∧
    ((run 0 fun t => { t with stopPos := some (none, 4, 4) }).participants.all fun r =>
      ((run 0 fun t => { t with stopPos := some (none, 4, 4) }).th r).caughtUp) = false ∧
    (∀ e ∈ launch1.journal, e.applied = true) ∧ CorePlace.key (.half 64) ∉ ((run 0).core 0).storedAt ∧
    CorePlace.key (.half 64) ∈ ((run 0 |>.modCore 0 fun k => { k with storedAt := [CorePlace.key (.half 64)] }).core 0).storedAt ∧
    ((run 0).core 0).detections + 2 < 32 ∧ 32 ≤ ((run 0 |>.modCore 0 fun k => { k with detections := 31 }).core 0).detections + 1 := by
  decide +kernel

/-- Reads of a sector: one that passes its code, one that fails. -/
def goodRead (a : Nat) : SectorRead := ⟨List.replicate 64 0, sectorCode a (List.replicate 64 0)⟩
def badRead : SectorRead := ⟨List.replicate 64 0, 1⟩
def mirrored (bad : List Nat) : State :=
  { State.reset with regions := State.reset.regions.set 0 (some ⟨0x40000000, 0x10000, .mirror 0x50000000⟩), hbm := { State.reset.hbm with bad := bad } }
/-- The region's first copy and its mirror; the last sector of it; a sector outside it. -/
theorem test_meets_SectorErrors : otherCopy (mirrored []) 0x40000000 = some (0x50000000, true) ∧
    otherCopy (mirrored []) 0x5000FFC0 = some (0x4000FFC0, false) ∧ otherCopy (mirrored []) 0x40010000 = none ∧
    regionAt (mirrored []) 0x40010000 = none ∧ 0x50000000 ∈ (mirrored [0x50000000]).hbm.bad ∧ (0x40010000 : Nat) < Config.hbmEnd ∧
    busy.launchActive = true ∧ otherCopy busy 0 = none ∧ regionAt busy 0 = none ∧ State.reset.launchActive = false ∧
    (goodRead 0x40000000).passes 0x40000000 = true ∧ badRead.passes 0x40000000 = false ∧ (mirrored []).fabric.held = [] ∧
    (after (.hbmSectorError 0x40000001 badRead badRead .scrub 0) (mirrored [0x40000000])).hbm.bad = [] ∧
    (after (.hbmSectorError 0x40000001 badRead (goodRead 0x40000000) .scrub 0) (mirrored [])).run.transient = 1 ∧
    (after (.hbmSectorError 0x40000001 badRead badRead .hdm 0) (mirrored [0x50000000])).hbm.bad.length = 2 ∧
    (after (.hbmSectorError 0x80 badRead badRead .scrub 0) (mirrored [])).run.stored = 1 := by decide +kernel
def asked (bad : List Nat) : State := modL (fun l => { l with peerWait := [(0x80, 5)] })
  { busy with fabric := { busy.fabric with reads := [⟨0, 1, 0x80, 64, .sector 0x80, true, 0⟩] }, hbm := { busy.hbm with bad := bad } }
theorem test_meets_SectorErrors_peer : memoriesWf (asked [0x80]) ∧ (∃ q ∈ (asked [0x80]).fabric.reads, q.use = ReadFor.sector 0x80) ∧
    0x80 ∈ (asked [0x80]).hbm.bad ∧ mirrorParts (asked [0x80]) 0x80 64 = [] ∧ 0x80 ∉ (asked []).hbm.bad ∧
    waitedSince (asked [0x80]) 0x80 = some 5 ∧ (∀ q ∈ busy.fabric.reads, q.use ≠ ReadFor.sector 0x80) ∧
    (asked [0x80]).fabric.held = [] ∧
    waitedSince (modL (fun l => { l with peerWait := [] }) (asked [])) 0x80 = none ∧
    (∃ q ∈ (asked []).fabric.reads, q.use = ReadFor.sector 0x80 ∧ q.since + 1048576 ≤ ({ asked [] with tally := 1048576 } : State).tally.toNat) ∧
    (after (.peerRestoreReply 0x81 0 (List.replicate 64 3)) (asked [0x80])).hbm.bad = [] ∧
    (after (.peerRestoreTimeout 0x80) { asked [0x80] with tally := 1048581 }).launch.map (·.halt) = some (some .checksum) ∧
    (after (.peerRestoreTimeout 0x80) { asked [0x80] with tally := 1048580 }).launch.map (·.halt) = some none := by decide +kernel

/-- All rails up, HBM trained. -/
def up : State := { State.reset with hbm := { State.reset.hbm with trained := true },
                                     power := { State.reset.power with hbmRails := true, colRails := true, chip := .awake } }
def badLane : State := { up with hbm := { up.hbm with lanes := [⟨4, 7, 0, 0⟩, ⟨4, 7, 0, 64⟩, ⟨4, 7, 0, 128⟩] } }
def badPc : State := { up with hbm := { up.hbm with badHist := (List.range 16).map fun n => (9, n, 0) } }
def openSlot (due : Nat) : State := { up with hbm := { up.hbm with slotFree := up.hbm.slotFree.set 3 true, calDue := BitVec.ofNat 256 due,
                                                                    credit := up.hbm.credit.set 3 (2 ^ 50) } }
theorem test_meets_MemoryService : 3 ≤ laneFails badLane 4 7 ∧ badLane.hbm.repaired.contains (4, 7) = false ∧
    retireDue badPc 9 = true ∧ 9 ∉ badPc.hbm.retired ∧ badPc.launchActive = false ∧ up.hbm.trained = true ∧ up.power.hbmRails = true ∧
    isAwake up = true ∧ laneLost badPc (chanOf 9) = false ∧ (∃ p ∈ pcsOf 48, (openSlot 8).hbm.slotFree[p] = true) ∧
    retireDue up 9 = false ∧ devWrite (openSlot 0) = none ∧ badHalves up 0 0 128 = [] ∧ (openSlot 8).hbm.slotFree[3] = true ∧ (openSlot 8).hbm.calDue.getLsbD 3 = true ∧
    (openSlot 0).hbm.calDue.getLsbD 3 = false ∧ scrubDue (openSlot 0) 3 = true ∧ siteFenced up 0 0 = false ∧
    (∀ c, coreAt up 0 = some c → (up.core c).sleep ≠ .s2) ∧ (after (.pcRetire 9) badPc).hbm.retired = [9] := by decide +kernel
/-- The lane of channel 4 in a state where its redundant lanes are used up; a held-back write to the device area; a failing half. -/
def lostLane : State := { badLane with hbm := { badLane.hbm with repaired := List.replicate Config.redundantLanes (4, 9) } }
theorem test_meets_MemoryService_lanes : lanesLeft badLane 4 = true ∧ laneLost lostLane (chanOf 64) = true := by
  constructor
  · simp [lanesLeft, badLane, up, State.reset, hbmSt0, Config.redundantLanes]
  · simp [laneLost, lanesLeft, laneFails, lostLane, badLane, up, State.reset, hbmSt0, chanOf]
def heldBack : State := { busy with regions := State.reset.regions.set 0 (some ⟨0x40000000, 0x10000, .host⟩) }
theorem test_meets_MemoryService_rest : ((devWrite heldBack).map fun d => (d[0]).regions[0]) = some (some ⟨0x40000000, 0x10000, .host⟩) ∧
    badHalves (badHalf [64] up) 0 0 128 = [64] ∧ coreAt (badHalf [64] up) 0 = some 0 ∧ retireDue lostLane 64 = true := by
  refine ⟨by decide +kernel, by decide +kernel, by decide +kernel, ?_⟩
  simp [retireDue, test_meets_MemoryService_lanes.2]

/-! The host interface. -/

/-- A descriptor: OPC, PARAM and words 1 on. -/
def dsc (opc param : Nat) (ws : List Nat := []) : Desc :=
  ⟨(ws.zipIdx).foldl (fun v (x, i) => v.set! (i + 1) (BitVec.ofNat 64 x)) (Vector.replicate 8 0 |>.set 0 (BitVec.ofNat 64 (opc + param * 2 ^ 32)))⟩
/-- The device awake in a state, with ring 0 enabled and descriptor `d` at its front. -/
def hostAt (st : DevState) (d : Desc) (ty : Fin 4 := 0) : State :=
  { up with life := { up.life with state := some st },
            subs := up.subs.set 0 { subRing0 with enable := true, active := true, tail := 1, ty := ty, fetched := [d] } }
/-- `offered`, as a check that computes. -/
def isOffered (s : State) (d : Desc) : Bool :=
  decide ((s.subs[(0 : RingId)]).fetched.head? = some d) && d.known (s.subs[(0 : RingId)]).ty && decide (pickRing s 0 = some 0)
theorem offered_of_isOffered {s : State} {d : Desc} (h : isOffered s d = true) : offered s 0 d := by
  simp only [isOffered, Bool.and_eq_true, decide_eq_true_eq] at h
  exact ⟨h.1.1, h.1.2, h.2⟩
/-- Offered in a state, its reserved flags 0, with the state's code. -/
def offer (st : DevState) (d : Desc) (ty : Fin 4 := 0) : Bool := isOffered (hostAt st d ty) d && d.flagsOk

theorem test_meets_DescriptorsByState :
    (∀ row ∈ [(2, 0, DevState.safe), (3, 0, .safe), (4, 0, .safe), (6, 0, .degraded), (7, 0, .compute), (8, 0, .memory), (9, 0, .safe),
        (0xA, 0, .safe), (0xC, 0, .safe), (0xF, 0, .degraded), (0x10, 0, .memory), (0x10, 1, .memory), (0x11, 0, .safe), (0x11, 64, .safe),
        (0x12, 0, .compute), (0x12, 1, .ready), (5, 0, .ready), (1, 0, .memory), (0xB, 0, .degraded), (0, 0, .halted)],
      offer row.2.2 (dsc row.1 row.2.1) = true) ∧ offer .degraded (dsc 1 0) 1 = true ∧
    (∀ r : RingId, r.1 % 4 ≠ 0 → ((hostAt .ready (dsc 0x13 0)).subs[r]).fetched = []) ∧
    pickRing (hostAt .ready (dsc 0x13 0)) 0 = some 0 ∧
    (after (.copy 0) (hostAt .safe (dsc 2 0))).items = [] ∧ ((after (.copy 0) (hostAt .safe (dsc 2 0))).subs[0]).headPos = 1 ∧
    (dsc 0x13 0).known 0 = false := by decide +kernel

def mirrorDsc : Desc := dsc 0x11 (64 + 3) [0x40000000, 0x10000, 0x50010000]
def peerDsc : Desc := dsc 0x11 (128 + 3) [0x40000000, 0x10000, 7]
def hostRegion : Desc := dsc 0x11 (192 + 3) [0x40000000, 0x10000, 0]
theorem test_meets_DescriptorsAtOnce : (∀ d ∈ [dsc 4 1, dsc 4 3, dsc 0x11 3, peerDsc, hostRegion], offer .memory d = true) ∧
    offer .ready (dsc 0x10 1 [0x40000000, 0x10000, 2 ^ 28]) = true ∧ offer .safe (dsc 0xE 0 [0x1000]) = true ∧
    offer .halted (dsc 0xD 0 [0x1000, 4096]) = true ∧ inGeneral 0x40000000 0x10000 = true ∧ peerDsc.param / 64 = 2 ∧ hostRegion.param / 64 = 3 ∧
    (∀ r, (hostAt .memory peerDsc).regions[(3 : Fin 64)] = some r → rangeBusy (hostAt .memory peerDsc) r.base r.size = false) ∧
    firstFail (regionChecks (hostAt .memory peerDsc) 3 ⟨0x40000000, 0x10000, .peer 7⟩) = none ∧
    firstFail (regionChecks (hostAt .memory hostRegion) 3 ⟨0x40000000, 0x10000, .host⟩) = none ∧
    (after (.regionDeclare 0) (hostAt .memory peerDsc)).regions[3] = some ⟨0x40000000, 0x10000, .peer 7⟩ ∧
    (hostAt .safe (dsc 0xE 0 [0x1000])).life.locks.getLsbD 5 = false := by decide +kernel

theorem test_meets_MemoryDescriptorsAccepted :
    (∀ d ∈ [dsc 2 0 [Config.generalBase, Config.generalEnd - 64, 64], dsc 2 1 [0, Config.generalBase, 64], dsc 2 2 [Config.generalBase, 0, 64],
        dsc 3 0 [Config.generalBase, 64, 9], dsc 4 0 [Config.generalBase, 0], dsc 4 2, mirrorDsc], offer .degraded d = true) ∧
    offer .halted (dsc 4 0 [0, 0]) = true ∧ launchOpen (hostAt .degraded (dsc 4 2)) = false ∧ Config.generalBase % 65536 = 0 ∧
    firstFail (regionChecks (hostAt .degraded mirrorDsc) 3 ⟨0x40000000, 0x10000, .mirror 0x50010000⟩) = none ∧
    (after (.fill 0) (hostAt .degraded (dsc 3 0 [Config.generalBase, 64, 9]))).items.map (·.kind) = [.fill Config.generalBase 64 9] := by
  decide +kernel

/-- The device with one open item. -/
def withItem (k : ItemKind) : State := { up with life := { up.life with state := some .ready }, items := [⟨4, dhead, false, k, false⟩], nextItem := 5 }
/-- A LAUNCH of the item's ring is open before it. -/
def heldItem (k : ItemKind) : State := { withItem k with items := [⟨3, dhead, false, .launch desc, false⟩, ⟨4, dhead, false, k, false⟩] }
def fill9 : ItemKind := .fill 0x40000000 64 0x0807060504030201
theorem test_meets_MemoryDescriptorsRun : memoriesWf (withItem fill9) ∧
    (∀ k ∈ [.copy true false 0 0x40000000 64, .copy false true 0x40000000 0 64, .copy false false 0x40000000 0x40000020 64, fill9,
      .wipe 0x40000000 64, .mirror 3 ⟨0x40000000, 0x10000, .mirror 0x50010000⟩],
      memoryMayRun (withItem k) ⟨4, dhead, false, k, false⟩ = true ∧
      (withItem k).items.find? (fun j => decide (j.id = 4)) = some ⟨4, dhead, false, k, false⟩) ∧
    isRestore (withItem fill9) ⟨4, dhead, false, fill9, false⟩ = false ∧ (∀ x ∈ (withItem fill9).hbm.bad, False) ∧
    memoryMayRun (heldItem fill9) ⟨4, dhead, false, fill9, false⟩ = false ∧
    mirrorParts { mirrored [] with items := [] } 0x4000FFFF 64 = [(0x4000FFFF, 0x5000FFFF, 1)] ∧
    (after (.memoryDescriptorComplete 4 none) (withItem fill9)).hbm.mem.read 0x4000003F 2 = [8, 0] := by decide +kernel

def fenceAt (st : DevState) (param mask : Nat) : State :=
  { hostAt st (dsc 8 param) with life := { (hostAt st (dsc 8 param)).life with masks := up.life.masks.set 3 (BitVec.ofNat 13 mask) } }
def routed (lock : Nat) (d : Desc) : State := { hostAt .compute d with life := { (hostAt .compute d).life with locks := BitVec.ofNat 6 lock } }
/-- A fenced site; a column exhausted with and without FORCE; a first fence. -/
theorem test_meets_FencesAndEpochs : (∀ x ∈ [(0x23, 4), (0x23, 1), (0x123, 1), (0x23, 0)],
      isOffered (fenceAt .ready x.1 x.2) (dsc 8 x.1) = true) ∧ siteFenced (fenceAt .ready 0x23 4) 3 2 = true ∧
    siteFenced (fenceAt .ready 0x23 1) 3 2 = false ∧ maskExhausted (1#13 ||| BitVec.ofNat 13 4) = true ∧
    maskExhausted (0#13 ||| BitVec.ofNat 13 4) = false ∧ launchOpen (fenceAt .ready 0x23 4) = false ∧
    isOffered { fenceAt .ready 0x23 4 with subs := (hostAt .ready (dsc 9 0x23)).subs } (dsc 9 0x23) = true ∧
    (∀ l ∈ [0, 8], isOffered (routed l (dsc 6 1 [0, 65536])) (dsc 6 1 [0, 65536]) = true ∧ isOffered (routed l (dsc 6 2)) (dsc 6 2) = true) ∧
    (routed 0 (dsc 6 2)).fabric.inUse ≠ some 0 ∧ drainCount (routed 0 (dsc 6 2)) 0 = 0 ∧ (routed 0 (dsc 6 2)).fabric.draining = none ∧
    tableOk (routed 0 (dsc 6 2)) [] = false ∧ ((after (.fence 0) (fenceAt .ready 0x123 1)).life.state = some .degraded) ∧
    (after (.fence 0) (fenceAt .ready 0x23 0)).life.slide[3] = 2 := by decide +kernel
def epochs (f : Fabric → Fabric) (tally : Nat) : State := { up with fabric := f up.fabric, tally := BitVec.ofNat 64 tally }
theorem test_meets_FencesAndEpochs_switch :
    isOffered { hostAt .ready (dsc 7 1 [500]) with fabric := { up.fabric with fresh := #v[false, true] } } (dsc 7 1 [500]) = true ∧
    up.fabric.switch = none ∧ (withItem (.reinstate 3)).items.find? (fun j => match j.kind with | .reinstate _ => !j.closing | _ => false) =
      some ⟨4, dhead, false, .reinstate 3, false⟩ ∧
    ((epochs (fun f => { f with switch := some (1, 500), inUse := some 0 }) 500).fabric.links[0]).txq = [] ∧
    (after .epochSwitchEffect (epochs (fun f => { f with switch := some (1, 500), inUse := some 0 }) 500)).fabric.draining = some (0, 500) ∧
    (after .epochSwitchEffect (epochs (fun f => { f with switch := some (1, 500), inUse := some 0 }) 499)).fabric.draining = none ∧
    drainCount (epochs (fun f => { f with draining := some (0, 500) }) 0) 0 = 0 ∧
    (after .epochDrained (epochs (fun f => { f with draining := some (0, 500) }) 525300)).fabric.draining = none ∧
    (after .epochDrained (epochs (fun f => { f with draining := some (0, 500) }) 525299)).fabric.draining = some (0, 500) := by decide +kernel
/-- R294: a table of 32,768 entries, this chip's alone 0x1F twice. -/
theorem test_meets_FencesAndEpochs_table (s : State) :
    tableOk s ((List.range 32768).map fun i => if i = s.chipId then 0x3FF else 0) = true := by
  simp only [tableOk, List.length_map, List.length_range, decide_true, Bool.true_and, List.all_eq_true]
  intro x hx
  obtain ⟨h1, h2⟩ := List.mem_zipIdx_iff_getElem?.mp hx |> List.getElem?_eq_some_iff.mp
  simp only [List.getElem_map, List.getElem_range] at h2
  rw [← h2]
  by_cases h : x.2 = s.chipId <;> simp [h, routeOk, routeCodeOk, field]

theorem test_meets_LevelsRolesAndQuiesce :
    (∀ d ∈ [dsc 0xA 4, dsc 0xA 8 [525, 105000, 52500000], dsc 0xA 0 [2 ^ 40 - 1, 2 ^ 64 - 1], dsc 0x10 0, dsc 0x12 0], offer .ready d = true) ∧
    (∀ p ∈ [0, 1, 2], offer .compute (dsc 0xF p [32767, 77]) = true) ∧ offer .quiesced (dsc 0x12 1) = true ∧
    timerOk 525 525 = true ∧ timerOk 105000 (2 ^ 64 - 1) = true ∧ timerOk 52500000 0 = true ∧ (hostAt .ready (dsc 0xA 4)).launchActive = false ∧
    up.life.locks.getLsbD 2 = false ∧ up.power.pendingTimers = none ∧ up.power.changing = none ∧ up.life.quiescePending = false ∧
    launchOpen (hostAt .ready (dsc 0x12 0)) = false ∧ launchOpen (heldItem fill9) = true ∧
    (after .levelChangeComplete { up with power := { up.power with changing := some 2 } }).power.level = 2 ∧
    (⟨4, dhead, false, .tallyAlign, false⟩ : Item) ∈ (withItem .tallyAlign).items ∧
    (after (.tallyAlign 0) (hostAt .compute (dsc 0xF 1 [3, 77]))).tally = 77 ∧
    (after (.tallyAlign 0) (hostAt .compute (dsc 0xF 0 [3, 77]))).align.role = some 0 ∧
    ({ withItem .tallyAlign with align := { align0 with ticks := 1312500000 } } : State).align.begun + 1312500000 ≤ 1312500000 ∧
    (after .tallyAlignTimeout { withItem .tallyAlign with align := { align0 with ticks := 1312500000 } }).life.failCode = 0x30 ∧
    (after .tallyAlignTimeout { withItem .tallyAlign with align := { align0 with ticks := 1312499999 } }).life.failCode = 0 ∧
    (after .traceDrainDone { up with trace := { up.trace with draining := true } }).trace.draining = false := by decide +kernel

/-- An image of one section at 0x10000000 (Tables 2.1 and 2.2), its LAUNCH with all of 64 KiB granted, and a backlog item. -/
def image : List Byte :=
  toBytes 4 0x4E525753 ++ toBytes 2 1 ++ toBytes 2 0 ++ toBytes 4 0x960 ++ toBytes 2 1 ++ toBytes 2 0 ++ toBytes 8 0x40 ++ toBytes 8 0x100 ++
    toBytes 8 0 ++ toBytes 4 0 ++ toBytes 4 0 ++ List.replicate 16 0 ++ [2, 3, 0] ++ List.replicate 5 0 ++ toBytes 8 0x80 ++ toBytes 8 4
def launchDsc : Desc := dsc 1 0 [0x10000000, 0, 9, 0x10000000, 0x10000, 0, 0]
def withImage : State := hbmWrite (hostAt .ready launchDsc) 0x10000000 image
def itemDsc : Desc := dsc 1 2 [0, 9]
def openBacklog : State :=
  { hostAt .ready itemDsc 1 with items := [⟨3, dhead, false, .launch { desc with backlog := true, windowCount := 4 }, false⟩] }
theorem test_meets_LaunchesRun : isOffered withImage launchDsc = true ∧ launchHeld withImage launchDsc = false ∧
    firstFail (launchChecks withImage launchDsc) = none ∧
    (launchOf withImage launchDsc).sections = [⟨⟨coreOf 2 3, 0⟩, ⟨0x10000080, 4⟩⟩] ∧
    isOffered openBacklog itemDsc = true ∧ itemHeld openBacklog itemDsc = false ∧ firstFail (itemChecks openBacklog itemDsc) = none ∧
    nextLaunch (withItem (.launch desc)) = some (⟨4, dhead, false, .launch desc, false⟩, desc) ∧ nextLaunch up = none ∧
    isAwake (withItem (.launch desc)) = true ∧ (after .launchStart (withItem (.launch desc))).launch.map (·.st) = some .starting ∧
    (after .launchStart (withItem (.launch desc))).seq = 1 := by decide +kernel
/-- A thread that is ready before S and at S; a launch whose only thread has ended. -/
def starting : State := { modL (fun l => { l with st := .starting, firstTick := none, d := { l.d with start := 100 } }) (run 0 fun t => { t with st := .loading })
  with power := up.power, tally := 100 }
def ended1 : State := run 0 fun t => { t with st := .ended }
theorem test_meets_LaunchesRun_end : threadReady starting th0 = true ∧ starting.power.changing = none ∧ isAwake starting = true ∧
    ((after .launchFirstIssue starting).th th0).st = .running ∧ ((after .launchFirstIssue { starting with tally := 99 }).th th0).st = .loading ∧
    launchFinished ended1 launch1 = true ∧ launchFinished (run 0) launch1 = false := by decide +kernel

/-! Rings, lines, interrupts, the HDM window. -/

def ringCfg (ty log2 polled : Nat) : Word := BitVec.ofNat 64 (1 + 16 * log2 + 2 ^ 11 * ty + 2 ^ 13 * polled)
/-- Ring 1's completion ring 0 active; in DevState `ready` every ring is served, in Safe ring 0 only. -/
def cqUp (tel : Bool) (st : DevState) : State :=
  { up with life := { up.life with state := some st }, comps := up.comps.set 0 { compRing0 with enable := true, active := true, telemetry := tel } }
theorem test_meets_RingSetUp : (∀ st ∈ [DevState.ready, .safe], barOpen (cqUp false st) false = true) ∧ (ringCfg 1 16 0).toNat % 2 = 1 ∧
    ringServed (cqUp false .safe) 1 = false ∧ ringServed (cqUp false .ready) 1 = true ∧ ((cqUp false .ready).subs[1]).active = false ∧
    ((cqUp false .ready).comps[1]).active = false ∧ ((cqUp true .ready).comps[0]).telemetry = true ∧
    barOpen State.reset false = false ∧ (hostAt .ready (dsc 0 0)).subs[0].enable = true ∧ ((cqUp false .ready).comps[0]).enable = true ∧
    (after (.sqEnableSet 1 (ringCfg 0 17 0) false) (cqUp false .ready)).subs[1] = subRing0 ∧
    ((after (.sqEnableSet 1 (ringCfg 0 16 0) false) (cqUp true .ready)).subs[1]).err = 4 ∧
    ((after (.sqEnableSet 1 (ringCfg 0 16 1) false) (cqUp false .ready)).subs[1]).active = true ∧
    ((after (.cqEnableSet 1 (ringCfg 0 6 1) none false) (cqUp false .ready)).comps[1]).active = true := by decide +kernel

def line1 (f : SubRing → SubRing) : State := { up with subs := up.subs.set 1 (f subRing0) }
theorem test_meets_LinesAndInterrupts :
    (after (.doorbellLineFill 1 (some 65)) (line1 fun q => { q with lineReading := true })).subs[1].err = 1 ∧
    (after (.doorbellLineFill 1 (some 64)) (line1 fun q => { q with lineReading := true })).subs[1].tail = 64 ∧
    (after (.doorbellStore 1) (line1 fun q => { q with lineHeld := true })).subs[1].lineReading = true ∧
    (after (.doorbellStore 1) (line1 fun q => { q with lineReading := true })).subs[1].lineAgain = true ∧
    isAwake (line1 id) = true ∧ (line1 fun q => { q with fetching := 1 }).subs[1].fetched = [] ∧ (dsc 0 0).known 0 = true ∧
    (after (.descriptorFetchDone 1 (some [dsc 0 0])) (line1 fun q => { q with fetching := 1 })).subs[1].fetched = [dsc 0 0] ∧
    (after (.ringPoll false 1 (some 0)) (line1 fun q => { q with active := true, polled := true })).out.length = 1 ∧
    (line1 id).subs[1].active = false ∧ isAwake { line1 id with power := { up.power with chip := .asleep } } = false := by decide +kernel
def cq1 (f : CompRing → CompRing) : State := { up with comps := up.comps.set 1 (f compRing0) }
def vec1 (owed : Bool) (till : Nat) : State :=
  { up with msix := up.msix.set 1 { up.msix[1] with owed := owed, holdTill := till, ctrl := 0 }, tally := 100 }
theorem test_meets_LinesAndInterrupts_rest :
    ((after (.ringPoll true 1 (some 9)) (cq1 fun q => { q with active := true, polled := true, full := true })).comps[1]).headSeen = 9 ∧
    ((after (.headLineStore 1 (.line (some 9))) (cq1 fun q => { q with active := true, lineHeld := true })).comps[1]).headSeen = 9 ∧
    ((after (.headLineStore 1 (.line none)) (cq1 fun q => { q with lineReading := true })).comps[1]).err = 2 ∧
    ((after (.headLineStore 1 .writeError) (cq1 fun q => { q with active := true })).comps[1]).err = 3 ∧
    (cq1 id).comps[1].active = false ∧ (after (.msixHoldoffExpire 1) (vec1 true 100)).out = up.out ++ [.msix 1] ∧
    (after (.msixHoldoffExpire 1) (vec1 true 101)).out = up.out ∧ (after (.msixHoldoffExpire 1) (vec1 false 0)).out = up.out := by decide +kernel

def hdmUp (bad : List Nat) : State :=
  { mirrored bad with power := up.power, life := { up.life with state := some .ready }, hdmOn := true, hdmDecoder := true, hdmBase := 4, hdmSize := 1 }
theorem test_meets_HdmWindow : memoriesWf (hdmUp []) ∧ barOpen (hdmUp []) true = true ∧ (hdmUp []).sec.policy.getLsbD 1 = false ∧
    windowAddr (hdmUp []) (2 ^ 28) 64 true = none ∧ windowAddr (hdmUp []) (2 ^ 28 - 64) 64 true = some (0x4FFFFFC0) ∧
    otherCopy (hdmUp [0x40010000]) 0x40010000 = none ∧ mirrorParts (hdmUp []) 0x40000004 4 = [(0x40000004, 0x50000004, 4)] ∧
    (after (.hdmWrite 4 [1, 2] true) (hdmUp [])).hbm.mem.read 0x50000003 4 = [0, 1, 2, 0] ∧
    (after (.hdmRead 0x10000 true) (hdmUp [0x40010000])).out.getLast? = some (.memData (List.replicate 64 0)) ∧
    (∀ x, (otherCopy (hdmUp [0x40010000]) 0x40010000).map (·.1) = some x → False) ∧
    (otherCopy (hdmUp [0x40000000]) 0x40000000).map (·.1) = some 0x50000000 ∧
    (after (.hdmRead 0 true) (hdmUp [0x40000000])).hbm.bad = [] ∧
    (after (.hdmMapEnable (BitVec.ofNat 64 (1 + 2 ^ 37)) true) (hdmUp [])).hdmBase = 4 ∧
    (after (.hdmMapEnable (BitVec.ofNat 64 (1 + 4 * 2 ^ 28 + 2 ^ 40)) true) (hdmUp [])).hdmOn = false := by decide +kernel

/-! Registers, the sideband, the mailbox. -/

def fabV (x dx : Nat) : Word := BitVec.ofNat 64 (2 ^ 32 + x * 2 ^ 8 + dx * 2 ^ 16)
theorem test_meets_RegisterWrites : barOpen State.reset true = false ∧ barOpen (hostAt .ready (dsc 0 0)) false = true ∧
    (fabIdOf (fabV 3 3).toNat).x < (fabIdOf (fabV 3 3).toNat).dx ∧ ¬ (fabIdOf (fabV 4 3).toNat).x < (fabIdOf (fabV 4 3).toNat).dx ∧
    (after (.fabIdWrite (fabV 3 3) false) (hostAt .ready (dsc 0 0))).fabric.fabId.x = 3 ∧
    (after (.fabIdWrite (fabV 4 3) false) (hostAt .ready (dsc 0 0))).fabric.fabId = (hostAt .ready (dsc 0 0)).fabric.fabId ∧
    fabIdOf (fabV 3 3).toNat ≠ (hostAt .ready (dsc 0 0)).fabric.fabId ∧ launchOpen (hostAt .ready (dsc 0 0)) = false ∧
    (after (.fabIdWrite (fabV 3 3) false) (after (.fabIdWrite (fabV 2 3) false) (hostAt .ready (dsc 0 0)))).fabric.fabId.x = 3 ∧
    (after (.scrubCtlWrite 169 false) (hostAt .ready (dsc 0 0))).hbm.scrubHours = 0x18 ∧
    (after (.scrubCtlWrite 168 false) (hostAt .ready (dsc 0 0))).hbm.scrubHours = 168 ∧
    (after (.telCtlWrite 52499 false) (hostAt .ready (dsc 0 0))).obs.telPeriod = up.obs.telPeriod ∧
    (after (.telCtlWrite 52500 false) (hostAt .ready (dsc 0 0))).obs.telPeriod = 52500 := by decide +kernel
/-- R483: a write of 0x0000_0001_0FFF_0359 reads 0x1ACE_0001_0FFF_6359 in slot 6. -/
theorem test_fab_id : regAt (after (.fabIdWrite 0x10FFF0359 false)
    { hostAt .ready (dsc 0 0) with life := { up.life with state := some .ready, slotId := 6 } }) 0 0x3000 = 0x1ACE00010FFF6359 := by
  decide +kernel

def sideAt (off : Nat) : State := { hostAt .ready (dsc 0 0) with side := up.side.set 1 { up.side[1] with readOff := off } }
theorem test_meets_LatchesAndSideband : sampleCounter up false 0xFF 0x01 ≠ none ∧ sampleCounter up false 0 0 = none ∧
    (sideAt 0).side[1].i3c = none ∧ (sideAt 0xFFF8).side[1].readOff < 65536 ∧
    ((after (.smbRead 1) (sideAt 0xFFF8)).side[1]).readOff = 0 ∧ (after (.smbAddress 1 [8, 0x60] true) (sideAt 0)).side[1].readOff = 0x6008 ∧
    (after (.smbAddress 1 [8, 0x60] false) (sideAt 0)).side[1].readOff = 0 ∧
    (after (.smbWrite 0 (toBytes 2 0x6000 ++ toBytes 8 0x12) true) (sideAt 0)).obs.ctrId = 0x12 ∧
    (after (.tallyNowRead .high false) { sideAt 0 with obs := { up.obs with tallyNow := 5 * 2 ^ 32 } }).out = [.readData 5] ∧
    lifecycle up = 0 ∧ (after (.uartRxInput 7) up).sec.uartRx = [7] := by decide +kernel

def mailed (f : Mailbox → Mailbox) (q : List (Fin 2)) : State :=
  { hostAt .ready (dsc 0 0) with sec := { up.sec with mail := up.sec.mail.set 0 (f up.sec.mail[0]), queue := q, enclaveUp := true } }
def mbCtl (n : Nat) : Word := BitVec.ofNat 64 (1 + n * 2 ^ 32)
theorem test_meets_MailboxRequests : barOpen (mailed id []) false = true ∧ (mailed id []).sec.mail[0].busy = false ∧
    (after (.mbSubmit 0 (mbCtl 8) false) (mailed id [])).sec.queue = [0] ∧
    ((after (.mbSubmit 0 (mbCtl 7) false) (mailed id [])).sec.mail[0]).status = 0x10 ∧
    ((after (.mbSubmit 0 (mbCtl 8193) false) (mailed id [])).sec.mail[0]).done = true ∧
    ((after (.mbSubmit 0 (mbCtl 9) false) (mailed (fun m => { m with busy := true }) [])).sec.mail[0]).reqLen = 0 ∧
    ((after (.mbResponse 0) (mailed (fun m => { m with busy := true, answer := some (0x21, [1, 2]) }) [0])).sec.mail[0]).respLen = 2 ∧
    reqCode [4, 0, 0, 0, 0, 0, 0, 0] ∉ reqCodes ∧ (mailed id []).sec.queue.head? ≠ some 0 ∧
    ((after (.mbResponse 0) (mailed (fun m => { m with busy := true, current := some [4, 0, 0, 0, 0, 0, 0, 0] }) [0])).sec.mail[0]).status = 0x10 := by
  decide +kernel

/-! The Enclave. -/

/-- A request without authorisation. -/
def plain (code : Nat) (ps : List Byte) : List Byte := toBytes 2 code ++ [0, 0] ++ toBytes 4 ps.length ++ ps
def asking (bs : List Byte) (f : Sec → Sec := id) : State :=
  let s := mailed (fun m => { m with busy := true, current := some bs }) [0]
  { s with sec := f s.sec }
def isServed (s : State) (code : Nat) (bs : List Byte) : Bool :=
  decide ((s.sec.mail[(0 : Fin 2)]).current = some bs) && s.sec.enclaveUp && decide (s.sec.queue.head? = some 0) &&
    decide ((s.sec.mail[(0 : Fin 2)]).answer = none) && decide (reqCode bs = code)
theorem served_of_isServed {s : State} {code : Nat} {bs : List Byte} (h : isServed s code bs = true) : served s 0 code bs := by
  simp only [isServed, Bool.and_eq_true, decide_eq_true_eq] at h
  exact ⟨h.1.1.1.1, h.1.1.1.2, h.1.1.2, h.1.2, h.2⟩
def certPart (off total : Nat) : List Byte := plain 3 (toBytes 4 off ++ toBytes 4 total ++ [1, 2])
theorem test_meets_PlainRequests :
    (∀ c ∈ [0x01, 0x02, 0x20, 0x30, 0x31], isServed (asking (plain c [])) c (plain c []) = true ∧ plainParams (plain c []) = some [] ∧
      isServed (asking (plain c [9])) c (plain c [9]) = true ∧ plainParams (plain c [9]) ≠ some []) ∧
    (asking (plain 1 []) fun x => { x with error := true }).sec.error = true ∧
    isServed (asking (plain 1 []) fun x => { x with error := true }) 1 (plain 1 []) = true ∧
    plainParams (certPart 0 2) = some (toBytes 4 0 ++ toBytes 4 2 ++ [1, 2]) ∧ isServed (asking (certPart 0 2)) 3 (certPart 0 2) = true ∧
    isServed (asking (certPart 2 4) fun x => { x with chainPart := [7, 8], chainLen := 4 }) 3 (certPart 2 4) = true ∧
    ((after (.certLoad 0 false) (asking (certPart 0 2))).sec.mail[0]).answer = some (0x60, []) ∧
    ((after (.certLoad 0 true) (asking (certPart 0 3))).sec.mail[0]).answer = some (0, []) ∧
    ((after (.certLoad 0 true) (asking (certPart 0 1))).sec.mail[0]).answer = some (0x10, []) ∧
    lifecycle { asking (plain 2 []) with sec := { (asking (plain 2 [])).sec with otp := [(0, 7)] } } = 1 := by decide +kernel

/-- An authorised request of the vendor, its nonce 32 bytes of 5 (Table 16.2). -/
def nonce5 : List Byte := List.replicate 32 5
def authed (code : Nat) (ps : List Byte) : List Byte :=
  toBytes 2 code ++ [0, 0] ++ toBytes 4 ps.length ++ nonce5 ++ [0] ++ List.replicate 7 0 ++ List.replicate 1952 1 ++ ps ++ List.replicate 3309 2
def authAsk (code : Nat) (ps : List Byte) : State :=
  let s := asking (authed code ps)
  { s with sec := { s.sec with mail := s.sec.mail.set 0 { s.sec.mail[0] with nonce := some nonce5 } },
           life := { s.life with image := some ⟨[], [], 128⟩ } }
def version (v : Nat) : List Byte := [1, BitVec.ofNat 8 v, 0, 0, 0, 0, 0, 0]
def trims : List Byte := [5, 0, 0, 0, 0, 0, 0, 0] ++ List.replicate 120 3
theorem test_meets_AuthorisedRequests : authParams (authed 0x10 (version 128)) = some (version 128) ∧
    isServed (authAsk 0x10 (version 128)) 0x10 (authed 0x10 (version 128)) = true ∧ otpParamsOk (version 128) = true ∧ otpParamsOk trims = true ∧
    firstFail (authChecks (authAsk 0x10 (version 128)) 0 (authed 0x10 (version 128)) true false (otpAuthority 1 0) true) = none ∧
    firstFail (authChecks (authAsk 0x10 (version 128)) 0 (authed 0x10 (version 128)) true false (otpAuthority 1 0) false) = some 0x60 ∧
    otpVersion (authAsk 0x10 (version 128)) = 0 ∧ slotField 5 = some (0x340, 128) ∧ freeSlot up.sec.otp 5 = some 0 ∧
    memoriesWf (authAsk 0x10 (version 128)) ∧ moveAuthority 0 4 = some 0 ∧ debugAuthority 0 = some 0 := by decide +kernel
/-- Four slots of TRIMS programmed: none is free. -/
theorem test_meets_AuthorisedRequests_slots : (authAsk 0x10 trims).sec.error = false ∧ authParams (authed 0x10 trims) = some trims ∧
    freeSlot ([3, 2, 1, 0].foldl (fun m k => m.write (0x340 + 128 * k + 127) [0xFF]) []) 5 = none ∧
    firstFail (authChecks (authAsk 0x11 (4 :: List.replicate 7 0)) 0 (authed 0x11 (4 :: List.replicate 7 0)) true false (moveAuthority 0 4) true) = none ∧
    firstFail (authChecks (authAsk 0x21 []) 0 (authed 0x21 []) true false (debugAuthority 0) true) = none ∧
    authParams (authed 0x21 []) = some [] ∧ launchOpen (authAsk 0x21 []) = false := by decide +kernel

def sessions (l : List (Nat × Bool)) (x : IdeStream) (locks : Nat) : State :=
  { mailed id [] with sec := { (mailed id []).sec with sessions := l, idKey := some [1], ide := up.sec.ide.set 2 x },
                      life := { up.life with state := some .ready, locks := BitVec.ofNat 6 locks } }
def keyed (a : Option (Fin 2)) : IdeStream := ⟨#v[⟨true, true⟩, ⟨false, false⟩], a, a.isSome, some 9⟩
theorem test_meets_EnclaveAndFirmware : up.sec.enclaveUp = false ∧ (mailed id []).sec.enclaveUp = true ∧ (mailed id []).sec.error = false ∧
    ((after (.ideKmKSetGo 9 2 0) (sessions [(9, true)] (keyed none) 0)).sec.ide[2]).active = some 0 ∧
    ((after (.ideKmKSetGo 9 2 0) (sessions [(9, true)] (keyed none) 1)).sec.ide[2]).active = none ∧
    ((after (.ideKmKSetGo 9 2 0) (sessions [(9, true)] (keyed (some 1)) 1)).sec.ide[2]).active = some 0 ∧
    (after (.spdmRequest (.keyExchange 4)) (sessions [(1, true), (2, true), (3, true)] (keyed none) 0)).sec.sessions.length = 4 ∧
    (after (.spdmRequest (.keyExchange 4)) (sessions [(0, true), (1, true), (2, true), (3, true)] (keyed none) 0)).sec.sessions.length = 4 ∧
    (after (.spdmRequest (.endSession 9)) (sessions [(9, true)] (keyed none) 0)).sec.ide[2] = ideStream0 ∧
    (after (.ideIntegrityFail 2) (sessions [] (keyed (some 1)) 0)).out = [.aer 2] ∧
    (after (.entropyBufferRefill 7) (mailed id [])).sec.drbg = [7] := by decide +kernel
def fwDsc (n : Nat) : Desc := dsc 5 0 [0x1000, n]
/-- R405, R439: a block that a key not yet in the OTP store signed, over no body, whose SHAKE256 stands at 0x20. -/
def fwImage : List Byte :=
  toBytes 4 0x57465645 ++ toBytes 2 1 ++ toBytes 2 0 ++ toBytes 4 3 ++ toBytes 4 0 ++ toBytes 4 0x960 ++ List.replicate 12 0 ++
    shake256 [] 64 ++ List.replicate 16288 0
def staging (n : Nat) : State := { (withItem .fwLoad) with life := { up.life with state := some .safe, staged := some n },
                                                           sec := { up.sec with enclaveUp := true, tested := true } }
theorem test_meets_EnclaveAndFirmware_load : offer .safe (fwDsc 4096) = true ∧ offer .safe (fwDsc 67108864) = true ∧
    (hostAt .safe (fwDsc 4096)).life.image = none ∧ lifecycle up ≠ 4 ∧ otpLacking up 0 = false ∧ otpLacking up 1 = true ∧
    verifyImage { staging 4096 with sec := { up.sec with error := true } } [] true true = 1 ∧
    (staging 4096).items.find? (fun j => decide (j.kind = .fwLoad ∧ j.closing = false)) = some ⟨4, dhead, false, .fwLoad, false⟩ := by decide +kernel
theorem test_meets_EnclaveAndFirmware_verify :
    verifyImage (stageImage (staging 16384) fwImage) (stagedBytes (stageImage (staging 16384) fwImage) 16384) true false = 0 := by decide +kernel

/-! The fabric. -/

/-- Link 0 in a state, `busy` awake with a thread on core 0, this chip in slot 6 of a torus of one node. -/
def onLink (st : LinkSt) (f : Link → Link := id) (b : State := run 0) : State :=
  { b with power := { up.power with pll := true }, life := { up.life with state := some .ready, slotId := 6 },
           fabric := { up.fabric with fabId := ⟨0, 0, 0, 1, 1, 1, true⟩,
                                      links := up.fabric.links.set 0 (f { link0 with st := st, credit := creditsFull }) } }
/-- A packet from chip 7 to chip 6 with its CRC (Tables 11.3 to 11.6). -/
def pkt (ty index : Nat) (ext : List (Nat × Nat)) (payload : List Byte := []) (dst : Nat := 6) (hops : Nat := 1) : Packet :=
  let p : Packet := { ownPacket up ty dst 0 0 0 (extOf ext) payload with src := 7, index := index, hops := hops }
  { p with crc := crc32c p.bytes }
def onTicks (n : Nat) (s : State) : State := { s with align := { s.align with ticks := n } }
theorem test_meets_LinksWork : linksMayTrain (onLink .down) = true ∧ linkDim 0 = none ∧ linkDim 8 = some (0, true) ∧ torusSize (onLink .down) 0 = 1 ∧
    expectedPartner (onLink .down) 0 = 7 ∧ twoLane .h2 = true ∧
    ((after (.linkTrained 0 (some .g4) 0 (some 7)) (onLink .training)).fabric.links[0]).st = .up ∧
    ((after (.linkTrained 0 (some .g4) 0 (some 5)) (onLink .training)).fabric.links[0]).st = .miswired ∧
    linkTakes (onLink .up) 0 (pkt 0 0 [(0, 3)]) = true ∧
    ((after (.linkPacketReceive 0 (pkt 0 0 [(0, 3)])) (onLink .up)).fabric.links[0]).credit.c = 259 ∧
    ((after (.linkReplayTimeout 0) (onTicks 1050 (onLink .up fun k => { k with resend := [pkt 1 1 []], replays := 16 }))).fabric.links[0]).st = .down ∧
    ((after (.linkReplayTimeout 0) (onTicks 1050 (onLink .up fun k => { k with resend := [pkt 1 1 []], replays := 15 }))).fabric.links[0]).replays = 16 ∧
    ((after (.linkReplayTimeout 0) (onTicks 1049 (onLink .up fun k => { k with resend := [pkt 1 1 []], replays := 15 }))).fabric.links[0]).replays = 15 ∧
    modeFits 0 .g4 = true ∧ modeFits 1 .g4 = false ∧ modeFits 1 .g2 = true ∧ modeFits 5 .g2 = false ∧
    (pkt 7 0 []).crc = crc32c (pkt 7 0 []).bytes ∧ (pkt 7 0 []).ok = false ∧
    ((after (.linkLaneLoss 0 2) (onLink .up fun k => { k with failed := 1 })).fabric.links[0]).st = .down := by decide +kernel
theorem test_meets_LinksWork_nak : linkTakes (onLink .up fun k => { k with resend := [pkt 1 1 [], { pkt 1 1 [] with lseq := 1 }] }) 0 (pkt 0 65537 []) = true ∧
    (∃ q ∈ ((after (.linkPacketReceive 0 { pkt 0 65537 [] with lack := 0, crc := (pkt 0 65537 []).crc })
      (onLink .up fun k => { k with resend := [pkt 1 1 [], { pkt 1 1 [] with lseq := 1 }] })).fabric.links[0]).resend, q.lseq = 65537 % 65536) := by
  decide +kernel

def send1 : Packet := pkt 8 1 [(0, 0x100), (21, 5)] (List.replicate 64 9)
def post5 : Packet := pkt 1 1 [(32, 5)]
theorem test_meets_SendsAndPostsArrive : memoriesWf (onLink .up) ∧ forThisChip (onLink .up) send1 = true ∧
    (∀ p ∈ [send1, post5], linkTakes (onLink .up) 0 p = true ∧ p.isLocal = false ∧ stalePacket (onLink .up) p = false ∧ p.target = 0) ∧
    isAwake (onLink .up) = true ∧ receivingTag (onLink .up) = some send1.launch ∧ accepted (onLink .up) send1 = false ∧
    journalFits (onLink .up) 64 = true ∧ coreTakesPart (onLink .up) 0 = true ∧ coreTakesPart (onLink .up id busy) 0 = false ∧
    inReplay (onLink .up) = false ∧ receivingTag (onLink .up id up) = none ∧ stalePacket { onLink .up with tally := 524289 } send1 = true ∧
    stalePacket { onLink .up with tally := 524288 } send1 = false := by decide +kernel
theorem test_meets_SendsAndPostsArrive_end :
    benchRead (after (.sendReceive 0 ⟨send1, false⟩) (onLink .up)) 0 0xFF 2 = [0, 9] ∧ ((after (.sendReceive 0 ⟨send1, false⟩) (onLink .up)).core 0).ev[5] = 1 ∧
    ((after (.postReceive 0 ⟨post5, false⟩) (onLink .up)).core 0).ev[5] = 1 ∧ accepted (after (.postReceive 0 ⟨post5, false⟩) (onLink .up)) post5 = true := by
  decide +kernel

def kept (p : Packet) (sentAt resends : Nat) : State :=
  let s := onLink .up
  { s with fabric := { s.fabric with tracked := [⟨p, 1, [], sentAt, resends, none⟩], accepted := [⟨7, 0, 0, 1, 0, 5⟩], reads := [⟨9, 7, 0x40000000, 64,
      .gather th0 0 0 0 0x10000000 4 8, true, 0⟩] }, tally := 10500 }
def resp (r : Nat) : Packet := pkt 9 9 [(0, r)] (List.replicate 64 3)
theorem test_meets_PacketsAnswered : forThisChip (onLink .up) (pkt 1 1 [] [] 5) = false ∧ linkTakes (onLink .up) 0 (pkt 1 1 [] [] 5) = true ∧
    (∀ p ∈ [pkt 2 1 [], pkt 3 1 [(6, 0)], resp 0, resp 2], linkTakes (kept post5 0 0) 0 p = true ∧ forThisChip (kept post5 0 0) p = true) ∧
    openRead (kept post5 0 0) (resp 0) = some ⟨9, 7, 0x40000000, 64, .gather th0 0 0 0 0x10000000 4 8, true, 0⟩ ∧ openRead (onLink .up) (resp 0) = none ∧
    (after (.readRespReceive 0 (resp 0)) (kept post5 0 0)).hbm.mem.read 0x10000007 2 = [3, 0] ∧
    inGeneral ((pkt 3 1 [(0, 0x40000000)]).ex 0 38) 64 = true ∧ inGeneral ((pkt 3 1 []).ex 0 38) 64 = false ∧
    (∀ x ∈ (onLink .up).hbm.bad, False) ∧ (kept post5 1 0).tally.toNat < 1 + 10500 := by decide +kernel
theorem test_meets_PacketsAnswered_end : (after (.ackReceive 0 (pkt 2 1 [])) (kept post5 0 0)).fabric.tracked = [] ∧
    (after (.e2eResend 0) (kept post5 0 15)).fabric.tracked.map (·.resends) = [16] ∧
    (after (.e2eResend 0) (kept post5 0 16)).launch.map (·.halt) = some (some .internal) ∧
    (after (.acceptRecordExpire 0) { kept post5 0 0 with tally := 1048580 }).fabric.accepted.length = 1 ∧
    (after (.acceptRecordExpire 0) { kept post5 0 0 with tally := 1048581 }).fabric.accepted = [] := by decide +kernel

def following (f : Align → Align) : State :=
  { onLink .up (fun k => { k with tallyT1 := some 5 }) with align := f { align0 with role := some 0, parent := some 0 } }
theorem test_meets_TallyFollows : linkTakes (following id) 0 (pkt 4 1 [(0, 7)]) = true ∧ linkTakes (following id) 0 (pkt 4 0 [(0, 7)]) = true ∧
    (onLink .up).fabric.links[0].tallyT1 = none ∧
    -- d = (t2 - t1 - (t4 - t3)) / 2 = (40 - 7 + 7 - 0) / 2
    (after (.tallyPacketReceive 0 (pkt 4 40 [(0, 7)]) 7) (following id)).tally = 20 ∧
    (after (.tallyPacketReceive 0 (pkt 4 2 [(0, 7)]) 7) (following fun a => { a with stepped := true, good := 15 })).align.aligned = true ∧
    (after (.tallyPacketReceive 0 (pkt 4 3 [(0, 7)]) 7) (following fun a => { a with stepped := true, good := 15 })).align.aligned = false ∧
    (after (.tallyPacketReceive 0 (pkt 4 5 [(0, 7)]) 7) (following fun a => { a with stepped := true, aligned := true, bad := 3 })).align.bad = 0 := by
  decide +kernel
theorem test_meets_TallyFollows_ref : (after .tallyRefEdge { onLink .up with align := { align0 with role := some 2 }, tally := 262144 }).tally = 524288 ∧
    (after .tallyRefEdge { onLink .up with align := { align0 with role := some 2 }, tally := 262143 }).tally = 0 ∧
    (after .tallyRefEdge { onLink .up with align := { align0 with role := some 1 }, tally := 262143 }).tally = 262143 := by decide +kernel

/-! Gradient reduction: group 2 of generation 3, one bucket of one segment of 64 elements whose root is core 0. -/

def seg0 : Seg := ⟨0, 64, [0], 0, [], none⟩
def group1 (fmt : Fmt) (ms : List Nat) : Group :=
  { gen := 3, policy := 0, fmt := fmt, members := ms, rootSlot := 6, margin := 0, stageTicks := 100, redBase := 0x100000, redLen := 0x20000,
    resBase := 0x40000000, resBytes := 0x10000, tableAt := 0x50000000, buckets := [⟨64, [seg0], 0, 256⟩], stale := 0, closing := false }
def ones : List AccVal := List.replicate 64 ⟨0x3F800000, 0⟩
def contrib (dl : Option Nat) : Contribution := ⟨0, 0, ⟨0x1000, 256⟩, 5, 0, dl, 0, ones⟩
def round1 (f : RInst → RInst := id) : RInst := f (newRound 3 0 0 1)
/-- Chip `slot` of the node, link 0 UP, the launch running on core 0, the group open, its first round as given. -/
def redAt (slot : Nat) (g : Group) (i : RInst) : State :=
  let s := onLink .up
  { s with life := { s.life with slotId := Fin.ofNat 8 slot },
           red := { s.red with groups := s.red.groups.set 2 (some g), insts := [(2, i)] } }
def hasAll (dl : Option Nat := none) : RInst := round1 fun i => { i with contribs := [contrib dl] }
def rx0 (g : Group) : RX := ⟨2, g, 0, ⟨64, [seg0], 0, 256⟩, 0, seg0⟩
/-- The plain round at the chip whose partial goes to another, and in a group of one chip. -/
theorem test_meets_GroupsAndRounds : memoriesWf (redAt 7 (group1 .fp32 [6, 7]) (hasAll)) ∧
    (∀ ms ∈ [[6, 7], [7]], rxOf (redAt 7 (group1 .fp32 ms) (hasAll)) 2 0 0 = some (rx0 (group1 .fp32 ms))) ∧
    (receivingTag (redAt 7 (group1 .fp32 [6, 7]) (hasAll))).isSome = true ∧
    (rx0 (group1 .fp32 [6, 7])).round (redAt 7 (group1 .fp32 [6, 7]) (hasAll)) 1 = hasAll ∧
    allContributed (rx0 (group1 .fp32 [6, 7])) hasAll = true ∧ hasAll.deadline = none ∧
    (rx0 (group1 .fp32 [6, 7])).top (redAt 7 (group1 .fp32 [6, 7]) hasAll) = .v 7 ∧ journalFits (redAt 7 (group1 .fp32 [7]) hasAll) 256 = true ∧
    trackRoom (redAt 7 (group1 .fp32 [6, 7]) hasAll) 1 = true ∧ (round1 fun i => { i with st := .done }).isOpen = false ∧
    allContributed (rx0 (group1 .fp32 [6, 7])) round1 = false := by decide +kernel
/-- A group of one chip: the sum of one value is written and the event posted. -/
theorem test_meets_GroupsAndRounds_sum :
    let t := after (.segmentInstanceBegin 2 0 0) (redAt 6 (group1 .fp32 [6]) hasAll)
    benchRead t 0 0x1000 4 = [0, 0, 0x80, 0x3F] ∧ (t.core 0).ev[5] = 1 ∧
    (after (.reductionStageDeadline 2 0 0) { redAt 7 (group1 .fp32 [6, 7]) (round1 fun i => { i with contribs := [{ contrib (some 9) with core := 1 }] })
      with tally := 9 }).red.insts.map (fun e => e.2.missed) = [true] ∧
    (after (.reductionStageDeadline 2 0 0) { redAt 7 (group1 .fp32 [6, 7]) (round1 fun i => { i with contribs := [{ contrib (some 9) with core := 1 }] })
      with tally := 8 }).red.insts.map (fun e => e.2.missed) = [false] := by decide +kernel

/-- GROUP_OPEN of group 2 for this chip alone (Tables 12.2 to 12.4) and GROUP_CLOSE. -/
def openDsc : Desc := dsc 0xB 2 [3 + 2 ^ 32, 0x10000000, 0x10010000, 0x10020000, 0x10000]
def table0 : List Byte :=
  toBytes 4 1 ++ [6, 0, 0, 0] ++ toBytes 4 100 ++ toBytes 4 0 ++ toBytes 8 (0x100000 + 0x20000 * 2 ^ 21) ++ List.replicate 40 0 ++
    toBytes 4 64 ++ toBytes 2 1 ++ toBytes 2 0 ++ toBytes 8 0x10012000 ++ toBytes 8 0 ++ toBytes 8 256 ++ List.replicate 32 0
def opening : State :=
  hbmWrite (hbmWrite (hbmWrite { hostAt .ready openDsc with life := { up.life with state := some .ready, slotId := 6 } } 0x10000000 [0x40]) 0x10010000 table0)
    0x10012000 (toBytes 4 0 ++ toBytes 4 64 ++ [1])
def closing (f : State → State) : State := f { hostAt .ready (dsc 0xC 2 [3]) with red := (redAt 6 (group1 .fp32 [6]) round1).red }
theorem test_meets_GroupsAndRounds_open : isOffered opening openDsc = true ∧ groupHeld opening openDsc = false ∧
    devAddr (openDsc.word 2) = true ∧ devAddr (openDsc.word 3) = true ∧ devAddr (openDsc.word 4) = true ∧
    openDsc.zeroFrom 6 = true ∧ field (openDsc.word 1) 28 4 = 0 ∧ field (openDsc.word 1) 21 3 = 0 ∧ opening.red.groups[2] = none := by decide +kernel
theorem test_meets_GroupsAndRounds_checks : firstFail (groupChecks opening openDsc) = none ∧ (groupOfDesc opening openDsc).1.members = [6] ∧ opening.chipId = 6 ∧
    (groupOfDesc opening openDsc).2.1 = 1 ∧ (groupOfDesc opening openDsc).1.buckets.map (·.segs) = [[⟨0, 64, [0], 0, [], none⟩]] := by decide +kernel
theorem test_meets_GroupsAndRounds_close : isOffered (closing id) (dsc 0xC 2 [3]) = true ∧
    (closing id).red.groups[2] = some (group1 .fp32 [6]) ∧ (∀ e ∈ (closing id).red.insts, e.2.st = .gathering) ∧
    (after (.groupClose 0) (closing fun s => { s with red := { s.red with insts := [] } })).red.groups[2] = none ∧
    ((after (.groupClose 0) (closing fun s => { s with red := { s.red with insts := [(2, round1 fun i => { i with st := .main })] } })).red.groups[2]).map (·.closing) =
      some true := by decide +kernel

/-! Packets. -/

/-- RED_DATA of group 2 for core 0's round 1 from the chip in slot `src` of this node. -/
def redPkt (src dst gen : Nat) (fs : List (Nat × Nat)) (bs : List Byte) : Packet :=
  let p := { pkt 0xA 1 ([(0, 2), (32, bs.length / 64 - 1), (48, gen), (80, 1)] ++ fs) bs with src := src, dst := dst }
  { p with crc := crc32c p.bytes }
def partial7 : Partial := ⟨1, 0, false, false, false, .fp ones⟩
def whole7 : Packet := redPkt 7 6 3 [(38, 1)] (partialBytes .fp32 partial7)
def bad7 : Packet := redPkt 7 6 3 [(38, 1)] (List.replicate 320 1)
def first7 : Packet := redPkt 7 6 3 [] (List.replicate 64 1)
def at6 : State := redAt 6 (group1 .fp32 [6, 7]) round1
theorem test_meets_ReductionPackets : memoriesWf at6 ∧
    (∀ p ∈ [whole7, bad7, first7, redPkt 7 6 4 [] (List.replicate 64 1)], forThisChip at6 p = true ∧ linkTakes at6 0 p = true ∧ stalePacket at6 p = false ∧
      portFails at6 p = false ∧ accepted at6 p = false ∧ receivingTag at6 = some p.launch) ∧ isAwake at6 = true ∧
    (rxOfRoot at6 2 0 0).isSome = true ∧ roundNo (rx0 (group1 .fp32 [6, 7])) 1 16 = 1 ∧ topKey [6, 7] 6 7 = .v 7 ∧
    (PKey.v 7).parent.map (PKey.point [6, 7] 6) = some 6 ∧ windowUsed at6 2 0 + 320 ≤ 0x20000 ∧
    readPartial .fp32 false false 64 (List.replicate 320 1) = none ∧ readPartial .fp32 false false 64 (partialBytes .fp32 partial7) = some partial7 := by
  decide +kernel
theorem test_meets_ReductionPackets_end :
    (after (.redDataReceive 0 whole7) at6).red.insts.map (fun e => e.2.kept.map (·.key)) = [[.v 7]] ∧
    (after (.redDataReceive 0 bad7) at6).run.assayerFails = 1 ∧
    (after (.redDataReceive 0 bad7) { at6 with red := { at6.red with fails := [(7, 0, 1, 65536), (7, 0, 1, 65536)] } }).launch.map (·.halt) = some (some .checksum) ∧
    (after (.redDataReceive 0 first7) at6).red.insts.map (fun e => e.2.arriving.map (·.pkts.length)) = [[1]] ∧
    (after (.redDataReceive 0 (redPkt 7 6 4 [] (List.replicate 64 1))) at6).fabric.tracked.map (·.pkt.ty) = [6] ∧
    (after (.reductionWindowSpace 0) { at6 with fabric := { at6.fabric with held := [(0, first7)] } }).fabric.held = [] := by decide +kernel

/-- A total at chip 7, an NB12 block that fails at the port, and RED_CTL. -/
def total6 : Packet := redPkt 6 7 3 [(37, 1), (38, 1)] (partialBytes .fp32 partial7)
def at7 (f : RInst → RInst := id) : State := redAt 7 (group1 .fp32 [6, 7]) (f { hasAll with st := .main, formed := [false] })
def badBlock : Packet := redPkt 7 6 3 [] (List.replicate 128 0xFF)
def ctl (op : Nat) : Packet := pkt 6 1 [(0, 2), (32, 3), (48, op), (58, 1)]
theorem test_meets_ReductionPackets_total : forThisChip at7 total6 = true ∧ linkTakes at7 0 total6 = true ∧ totalDests at7 [6, 7] 6 false = [] ∧ endHeld at7 (rx0 (group1 .fp32 [6, 7])) = false ∧
    ((after (.redDataReceive 0 total6) at7).core 0).ev[5] = 1 ∧ (after (.redDataReceive 0 total6) at7).red.insts.map (fun e => e.2.st) = [.done] ∧
    portFails (redAt 6 (group1 .nb12 [6, 7]) round1) badBlock = true ∧ linkTakes (redAt 6 (group1 .nb12 [6, 7]) round1) 0 badBlock = true ∧
    failsOf (redAt 6 (group1 .nb12 [6, 7]) round1) badBlock = 0 := by decide +kernel
theorem test_meets_ReductionPackets_ctl : (∀ op ∈ [0, 1, 2], linkTakes at6 0 (ctl op) = true ∧ (ctl op).ex 48 4 = op ∧ forThisChip at6 (ctl op) = true ∧
      (ctlRound at6 (ctl op)).map (fun y => y.2.n) = some 1) ∧ (ctlRound at6 (pkt 6 1 [(0, 3)])).isNone = true ∧
    (after (.redCtlMissed 0 (ctl 0)) at6).red.insts.map (fun e => e.2.missed) = [true] ∧
    (after (.redCtlResend 0 ⟨ctl 2, []⟩) at6).red.insts.map (fun e => e.2.resent) = [true] ∧
    (after (.redCtlStale 0 (ctl 1)) { at7 with life := { at7.life with slotId := 6 } }).red.insts.map (fun e => e.2.staleOut) = [true] := by decide +kernel
/-- A kept input that fails its check, a round that is done, a split block at a transit port, a leaf whose residual cannot be read, a
group whose cores have all contributed. -/
def keeps7 : State := redAt 6 (group1 .fp32 [6, 7]) (round1 fun i => { i with kept := [⟨.v 7, false, 7, partial7, 9⟩], sent := [redPkt 6 7 3 [(38, 1)] []] })
def doneAt : State :=
  redAt 6 { group1 .fp32 [6, 7] with buckets := [⟨64, [{ seg0 with rounds := 1 }], 0, 256⟩] } (round1 fun i => { i with st := .done, own := ones })
def held1 : State :=
  let s := redAt 7 { group1 .nb12 [6, 7] with policy := 4 } hasAll
  { s with hbm := { s.hbm with bad := [0x40000000] } }
theorem test_meets_ReductionPackets_more :
    (after (.redCtlResend 0 ⟨ctl 2, [7]⟩) keeps7).fabric.tracked.map (fun q => (q.pkt.ty, q.pkt.dst, q.pkt.ex 48 4)) = [(6, 7, 2)] ∧
    (after (.redCtlMissed 0 (ctl 0)) doneAt).red.insts.map (fun e => e.2.missed) = [true] ∧
    forThisChip (redAt 5 (group1 .nb12 [6, 7]) round1) badBlock = false ∧ portFails (redAt 5 (group1 .nb12 [6, 7]) round1) badBlock = true ∧
    (after (.packetForward 0 badBlock) (redAt 5 (group1 .nb12 [6, 7]) round1)).out.length = 1 := by decide +kernel
theorem test_meets_GroupsAndRounds_held : leafHeld held1 ⟨2, { group1 .nb12 [6, 7] with policy := 4 }, 0, ⟨64, [seg0], 0, 256⟩, 0, seg0⟩ = true ∧
    roundBegun (redAt 7 (group1 .fp32 [6, 7]) hasAll) 2 hasAll = true ∧ roundBegun (redAt 7 (group1 .fp32 [6, 7]) round1) 2 round1 = false := by decide +kernel

/-! Power, heat, sleep, telemetry, the start. -/

def domains1 (f : Domain → Domain) (s : State) : State := { s with power := { s.power with domains := s.power.domains.set 3 (f s.power.domains[3]) } }
def railsUp (s : State) : State := { s with power := { up.power with rails := true, pwrGood := true, perst := false, pll := true } }
def on3 (f : Domain → Domain := id) (b : State := busy) : State := domains1 f (railsUp b)
def upFor (n : Nat) (s : State) : State := { s with power := { s.power with upTicks := n } }
theorem test_meets_PowerAndHeat : domainOn on3 3 = true ∧ domainOn (on3 fun d => { d with lost := true }) 3 = false ∧
    phaseCount (7#7 &&& ~~~BitVec.ofNat 7 (2 ^ 1)) < 3 ∧ 3 ≤ phaseCount (15#7 &&& ~~~BitVec.ofNat 7 (2 ^ 1)) ∧
    (((after (.phaseFail (.column 3) 1) (on3 fun d => { d with phases := 7 })).power.domains[3]).lost) = true ∧
    (((after (.phaseFail (.column 3) 1) (on3 fun d => { d with phases := 15 })).power.domains[3]).lost) = false ∧
    (after (.droopStretch 3 true) on3).launch.map (·.exc) = some 16 ∧
    (after (.stretchEnd 3 0) (upFor 7 (on3 fun d => { d with clock := .stretched }))).ctrs.strCycles = 21 ∧
    (after (.clockStopEnd 3 6) (upFor 7 (on3 fun d => { d with clock := .stopped }))).ctrs.strCycles = 29 ∧
    ((after (.clockStopCheck 3 (some 1)) { on3 (fun d => { d with clock := .stopped, stopAt := 0 }) with tally := 5249 }).power.domains[3]).phases = 0x7F ∧
    ((after (.clockStopCheck 3 (some 1)) { on3 (fun d => { d with clock := .stopped, stopAt := 0 }) with tally := 5250 }).power.domains[3]).phases = 0x7D ∧
    (after .ageingGuardBandRaise { on3 with power := { on3.power with guardBand := 3 } }).power.guardOwed = 1 ∧
    (after .ageingGuardBandRaise { on3 with power := { on3.power with guardBand := 4 } }).power.guardOwed = 0 ∧
    (after (.currentLimitStretch true 0) on3).power.limited = true ∧ on3.power.otherPhases[6].getLsbD 3 = true ∧ on3.power.otherPhases[6].getLsbD 4 = false := by
  decide +kernel
def hotPu (t : Int) (b : State := on3) : State := { b with power := { b.power with pu := ⟨some t, 0, false⟩ } }
def risen0 (n : Nat) (s : State) : State := s.modCore 0 fun k => { k with risen := vset k.risen 0 n }
theorem test_meets_PowerAndHeat_rest : noticeLead 0 = 3150 ∧ arrayAhead (thr (word 0 [])) 0 3151 0 3150 = none ∧
    arrayAhead (thr (word 0x41 [(16, 1)])) 0 3151 0 3150 = some (0, 2) ∧ arrayAhead (thr (word 0x41 [(16, 1)])) 1 3151 0 3150 = some (1, 2) ∧
    arrayAhead (thr (word 0x41 [(27, 63)])) 1 66 0 65 = some (1, 1) ∧ arrayAhead (thr (word 0x41 [(27, 63)])) 1 65 0 64 = none ∧
    (after (.loadNotice th0 (.rise 1)) (railsUp (run (word 0x41 [])))).out = [.notice 0 (.rise 1)] ∧
    (after (.loadNotice th0 .fall) (risen0 3 (railsUp (run (word 0 []))))).out = [.notice 0 .fall] ∧
    (risen0 0 busy).core 0 = busy.core 0 ∧ (after (.loadNotice th0 .fall) (railsUp (run (word 0 [])))).out = [] ∧
    tripReached on3 = false := by decide +kernel
def trips (after_ : Bool) (n : Nat) (st : DevState) : State :=
  let s := upFor n on3
  after (.sensorRead [(.pu, some 120)]) { s with power := { s.power with afterTrip := after_ }, life := { s.life with state := some st } }
theorem test_meets_PowerAndHeat_trip : meshOn on3 = true ∧ meshOn { on3 with power := { on3.power with chip := .asleep } } = false ∧
    (trips true 524999999 .safe).life.state = some .safe ∧ (trips true 525000000 .safe).life.state = some .halted ∧
    (trips false 0 .safe).life.state = some .halted := by decide +kernel
theorem test_meets_PowerAndHeat_heat :
    (after (.sensorRead [(.site 5, none)]) { on3 with power := { on3.power with sites := on3.power.sites.set 5 ⟨some 40, 2, false⟩ } }).power.sites[5] = ⟨some 40, 3, true⟩ ∧
    (after (.sensorRead [(.pu, some 120)]) on3).power.tripN = true ∧
    tooHot (hotPu 110) = true ∧ tooHot (hotPu 109) = false ∧ coolEnough (hotPu 109) = false ∧ coolEnough (hotPu 107) = true := by decide +kernel

def core0s (f : Core → Core) (b : State := on3 id up) : State := (b.modCore 0 f)
def idle0 (at_ : Nat) (x : Sleep) : State := { core0s fun k => { k with idleSince := some 0, sleep := x } with tally := BitVec.ofNat 64 at_ }
theorem test_meets_SleepAndTelemetry :
    domainOn (idle0 26250 .s0) (coreCol 0) = true ∧ idleFor (idle0 26250 .s0) 0 26250 = true ∧ idleFor (idle0 26249 .s0) 0 26250 = false ∧
    ((after (.s1Entry 0) (idle0 26250 .s0)).core 0).sleep = .toS1 false ∧ ((after (.s2Entry 0) (idle0 5250000 .s1)).core 0).sleep = .toS2 false ∧
    ((after (.s2Entry 0) (idle0 5250000 .s0)).core 0).sleep = .s0 ∧ ((after (.coreWake 0) (idle0 0 .s2)).core 0).sleep = .waking2 ∧
    ((after (.coreWakeComplete 0) (idle0 0 (.toS1 true))).core 0).sleep = .waking1 ∧
    ((after (.coreWakeComplete 0) (idle0 9 .waking2)).core 0).idleSince = some 9 := by decide +kernel
def s3 (c : ChipSleep) (elig : Option Nat) : State :=
  let s := on3 id up
  { s with power := { s.power with chip := c, eligible := elig }, tally := 2625000000 }
def tel (n : Nat) : State :=
  { on3 id (cqUp true .ready) with obs := { up.obs with telPeriod := 52500, telLast := 0 }, tally := BitVec.ofNat 64 n }
theorem test_meets_SleepAndTelemetry_chip : mayS3 (s3 .awake (some 0)) = true ∧ (after .s3Entry (s3 .awake (some 0))).power.chip = .entering false ∧
    (after .s3Entry (s3 .awake (some 1))).power.chip = .awake ∧ (after .s3Wake (s3 .asleep none)).power.chip = .leaving ∧
    (after .s3Wake (s3 (.entering false) none)).power.chip = .entering true ∧
    (s3 .leaving none).fabric.held = [] ∧ telemetryRing (tel 52500) = some 0 ∧ 1 ≤ ringFree (tel 52500).comps[0] ∧
    stateCode (tel 52500) = 4 ∧ isAwake (tel 52500) = true ∧ (after (.telemetryRecord 1 2 3) (tel 52500)).out.length = 1 ∧
    (after (.telemetryRecord 1 2 3) (tel 52499)).out.length = 0 ∧
    (after (.telemetryRecord 1 2 3) { tel 52500 with power := { (tel 52500).power with linkL2 := true } }).comps[0].dropped = 1 := by decide +kernel

def seq (owed : Bool) (at_ : Nat) : State :=
  { State.reset with power := { State.reset.power with sequencing := true, warmOwed := owed, pwrGood := true, railStep := at_ } }
def alive : State := { railsUp up with life := { up.life with state := some .ready } }
def imaged (st : DevState) : State := { alive with life := { alive.life with state := some st, image := some ⟨[], [], 0⟩ } }
theorem test_meets_ResetsAndStart : State.reset.power.perst = true ∧ alive.power.perst = false ∧ alive.power.sequencing = false ∧
    (after .perstAssert alive).life.state = none ∧ (after .perstAssert { alive with power := { alive.power with sequencing := true } }).power.warmOwed = true ∧
    (after (.perstDeassert ⟨6, true⟩) { railsUp State.reset with power := { alive.power with perst := true } }).life.state = some .safe ∧
    (after .cxlHotReset alive).life.state = some .safe ∧ (after .functionLevelReset alive).life.state = some .safe ∧
    (after (.pwrGoodAssert []) State.reset).power.sequencing = true ∧
    (after (.pwrGoodAssert ((List.finRange 2).map fun k => (.other 2, Fin.ofNat 12 k.1))) State.reset).life.failCode = 0x40 ∧
    (after .railSequenceDone (seq false 15)).power.rails = true ∧ (after (.railTimeout (.other 0)) (seq false 0)).life.failCode = 0x40 ∧
    (after .railSequenceDone (seq false 5)).power.pll = false ∧ (after .railSequenceDone (seq false 6)).power.pll = true ∧
    (after (.railTimeout (.other 0)) (after .railSequenceDone (seq false 0))).life.failCode = 0 ∧
    (after .railSequenceDone (seq true 15)).power.warmOwed = false ∧ (after (.pwrGoodDeassert false) alive).power.shutdown = true ∧
    (after (.pwrGoodDeassert true) alive).power.shutdown = false ∧ (after .coreRefLoss alive).power.faultN = true := by decide +kernel
def fallen (inRange pwr : Bool) (b : State := alive) : State :=
  let s := after .inputShutdown b
  { s with power := { s.power with pwrGood := pwr, inRange := inRange } }
theorem test_meets_ResetsAndStart_shutdown : (fallen false true).power.shutdown = true ∧ (fallen false true).power.perst = false ∧
    (after .perstAssert (fallen true true)).power.sequencing = true ∧ (after .perstAssert (fallen false true)).power.sequencing = false ∧
    (after .inputShutdown alive).power.inRange = false ∧ (after (.pwrGoodAssert []) (after .perstAssert (fallen false true))).power.sequencing = true ∧
    (after (.pwrGoodAssert []) (after .perstAssert (fallen false false))).power.sequencing = true ∧
    (after (.pwrGoodAssert []) (fallen false false)).power.sequencing = false ∧
    (after .inputShutdown (fallen true true)).power.inRange = false ∧
    railLacking (testPhases State.reset [(.other 2, 0), (.other 2, 1)]) = true ∧ railLacking (testPhases State.reset [(.other 2, 0)]) = false := by decide +kernel
def staged (st : DevState) (stage step : Nat) (fails : List SiteId := []) : State :=
  let s := imaged st
  { s with life := { s.life with stage := stage, step := step, bistFail := fails } }
theorem test_meets_ResetsAndStart_stages : (after (.memoryStage true [] []) (staged .safe 2 1)).life.failCode = 0x10 ∧
    (after (.memoryStage false [] [1, 2, 3, 4, 5]) (staged .safe 2 1)).life.failCode = 0x11 ∧
    (after (.memoryStage false [] [1, 2, 3, 4, 4]) (staged .safe 2 1)).life.step = 2 ∧
    (after (.memoryStage false [] []) (staged .safe 2 2)).life.wipeLeft = 0 ∧ (after (.memoryStage false [] []) (staged .safe 2 3)).life.state = some .memory ∧
    (after (.computeStage [] true 5) (staged .memory 3 4)).power.guardBand = 4 ∧ (after (.computeStage [] false 0) (staged .memory 3 4)).life.failCode = 0x21 ∧
    (after (.computeStage [] true 0) (after (.computeStage [] true 0) (staged .memory 3 3 [3, 19]))).life.state = some .degraded ∧
    (after (.computeStage [] true 0) (staged .memory 3 3 [3])).life.slide[3] = 0 ∧
    (after (.computeStage [3, 3] true 0) (staged .memory 3 2)).life.bistFail = [3] ∧ (after (.computeStage [] true 0) (staged .memory 3 1)).life.step = 2 := by
  decide +kernel

/-! Steps. -/

def acc1 (acc : Nat) (rate : Int) : State := { alive with align := { align0 with acc := acc, rate := rate } }
def tickOf (s : State) : Word := match step s with | .next t => t.tally | _ => 0
theorem test_meets_IdleStepIsATallyTick : (acc1 0 0).pending = [] ∧ (acc1 0 0).power.pll = true ∧ State.reset.power.pll = false ∧
    tickOf (acc1 0 0) = 1 ∧ tickOf (acc1 (2 ^ 32 - 1) 1) = 2 ∧ tickOf (acc1 0 (-1)) = 0 ∧ tickOf State.reset = 0 := by decide +kernel
/-- Slower than its launch level, a launch is throttled. -/
theorem test_meets_IdleStepIsATallyTick_throttled : launch1.st = .active ∧ launch1.level < (1 : Fin 5) ∧
    (match step { railsUp busy with power := { (railsUp busy).power with level := 1 } } with | .next t => t.ctrs.thrTicks | _ => 0) = 1 := by decide +kernel
/-- A launch that holds an anchored bank: the invariants hold with a byte in each kind of memory. -/
def anchored1 : State :=
  let bank : AnchorCore := { acore1 with banks := [(1, [(65536, 3), (131071, 4)])] }
  { bench0 (anchored 0 busy) 7 [1] with
    sec := { State.reset.sec with otp := [(0, 7)] },
    launch := some { launch1 with anchors := [{ anchor1 with cores := [(0, bank)] }] } }
theorem test_meets_EveryStepKeepsMemoriesCanonical : canonical anchored1 := by
  refine ⟨by decide +kernel, fun l hl a ha k hk b hb => ?_⟩
  cases hl; cases List.mem_singleton.mp ha; cases List.mem_singleton.mp (show k ∈ [_] from hk)
  cases List.mem_singleton.mp (show b ∈ [_] from hb); decide +kernel
theorem test_meets_NoStepClearsAnOtpBit : canonical State.reset ∧
    (match step { anchored1 with pending := [.coldReset] } with | .next t => t.sec.otp | _ => []) = [(0, 7)] :=
  ⟨⟨by decide +kernel, fun l hl => by cases hl⟩, by decide +kernel⟩

/-! Well-formed commands: one that a check refuses for each check, beside one it takes. -/

theorem test_wf_packets : (Instr.ackReceive 0 (pkt 2 1 [])).wf = true ∧ (pkt 16 1 []).fits = false ∧ (pkt 2 (2 ^ 32) []).fits = false ∧
    (pkt 2 1 [] [] (2 ^ 16)).fits = false ∧ (pkt 2 1 [] [] 6 32).fits = false ∧ (Instr.sendReceive 0 ⟨pkt 8 1 [] (List.replicate 1025 0), false⟩).wf = false ∧
    (Instr.receivedPacketDiscard 0 { pkt 2 1 [] with lseq := 65536 }).wf = false := by decide +kernel
theorem test_wf_host : (Instr.descriptorFetchDone 0 (some [])).wf = false ∧ (Instr.hdmRead 63 true).wf = false ∧ (Instr.hdmRead 64 true).wf = true ∧
    (Instr.hdmWrite 63 [1, 2] true).wf = false ∧ (Instr.hdmWrite 62 [1, 2] true).wf = true ∧ (Instr.registerWrite 0 3 0 true).wf = false ∧
    (Instr.routeLoad 0 (some [0])).wf = false ∧ (Instr.snapshot 0 65536 0 0 true).wf = false ∧ (Instr.memoryDescriptorComplete 0 (some [1])).wf = false ∧
    (Instr.smbWrite 0 (List.replicate 256 0) true).wf = false ∧ (Instr.getNonce 0 []).wf = false ∧ (Instr.debugChallenge 0 []).wf = false ∧
    (Instr.enclaveSelfTests true []).wf = false ∧ (Instr.spdmRequest (.challenge true [])).wf = false ∧ (Instr.spdmRequest (.measurements true 256)).wf = false ∧
    (Instr.spdmRequest (.certificate 65536 0)).wf = false ∧ (Instr.spdmRequest .digests).wf = true := by decide +kernel
/-- An image beyond 64 MiB. -/
theorem test_wf_image (n : Nat) (h : 67108864 < n) : (Instr.fwLoad 0 (some (List.replicate n 0))).wf = false := by
  show decide ((List.replicate n (0 : Byte)).length ≤ 67108864) = false
  rw [List.length_replicate]; exact decide_eq_false (by omega)
def zeros64 : SectorRead := ⟨List.replicate 64 0, 0⟩
theorem test_wf_machine : (Instr.loadNotice th0 (.rise 5)).wf = false ∧ (Instr.loadNotice th0 (.rise 4)).wf = true ∧
    (Instr.hbmSectorError 1 zeros64 zeros64 .scrub 0).wf = false ∧ (Instr.hbmSectorError 64 zeros64 ⟨[0], 0⟩ .scrub 0).wf = false ∧
    (Instr.hbmSectorError 64 zeros64 zeros64 .scrub 0).wf = true ∧ (Instr.peerRestoreReply 64 0 [1]).wf = false ∧
    (Instr.peerRestoreTimeout Config.hbmEnd).wf = false ∧ (Instr.laneRepair 128 0 0).wf = false ∧ (Instr.phaseFail (.column 0) 7).wf = false ∧
    (Instr.phaseFail (.other 0) 11).wf = true ∧ (Instr.phaseFail (.other 6) 4).wf = false ∧ (Instr.linkTrained 0 (some .g4) 0 none).wf = false ∧
    (Instr.linkTrained 0 (some .g4) 0 (some 32768)).wf = false ∧ (Instr.pwrGoodAssert [(.column 3, 7)]).wf = false ∧
    (Instr.memoryStage false [(128, 0)] []).wf = false ∧ (Instr.computeStage [] true 5).wf = false ∧
    (Instr.sensorRead [(.pu, some 128)]).wf = false ∧ (Instr.telemetryRecord 65536 0 0).wf = false := by decide +kernel

/-! The table gives no row bits: no word spells a command. -/

theorem test_no_word : decodeTableWord 64 0 = none ∧ State.reset.withFetchWord 64 0 = State.reset := ⟨rfl, rfl⟩

/-! The spec's worked examples, with the values it prints. -/

/-- Table 8.6 and the example after it: the first WLD and the MMA with and without ADD, as they assemble. -/
theorem test_example_words : word 0x40 [(46, 6), (40, 2)] = 0x4001820000000000 ∧
    word 0x41 [(46, 5), (35, 31), (27, 63), (20, 31), (4, 2)] = 0x410140F9F9F00020 ∧
    decodeFault 0x4001820000000000 = none ∧ decodeFault 0x410140F9F9F00220 = none ∧
    toBytes 8 0x410140F9F9F00020 = [0x20, 0x00, 0xF0, 0xF9, 0xF9, 0x40, 0x01, 0x41] ∧
    (let o := mmaOp busy ⟨th0, 0, 0x410140F9F9F00220⟩
     o.k = 32 ∧ o.m = 64 ∧ o.n = 32 ∧ o.fmt = some .bf16 ∧ o.acc = .fp32 ∧ o.add = true ∧ o.span = 1 ∧ o.arr = 0 ∧ o.tile = 0) := by decide +kernel

/-- The pair 1 - 2^-30 (after R66); 300, 470 and -470 to FP8 (after R77). -/
theorem test_example_conversions : convElem .fp32 .rne false 0 (pairVal ⟨0x3F800000, 0xB0800000⟩) = (0x3F800000, fINX) ∧
    convElem .fp32 .rtz false 0 (pairVal ⟨0x3F800000, 0xB0800000⟩) = (0x3F7FFFFF, fINX) ∧
    (convElem .e4m3 .rne true 0 (f32 0x43960000)).1 = 0x79 ∧ (convElem .e5m2 .rne true 0 (f32 0x43960000)).1 = 0x5D ∧
    (convElem .e4m3 .rne true 0 (f32 0x43EB0000)).1 = 0x7E ∧ (convElem .e4m3 .rne false 0 (f32 0x43EB0000)).1 = 0x7F ∧
    (convElem .e4m3 .rne true 0 (f32 0xC3EB0000)).1 = 0xFE ∧ (convElem .e4m3 .rne false 0 (f32 0xC3EB0000)).1 = 0x7F := by decide +kernel

/-- The MXFP8 block after R79, and stochastic rounding to BF16 after R81. -/
theorem test_example_quantise : (let q := mxQuantise .mxE4m3 .rne (fun _ => 0) [f32 0x3DB80000, .fin true 1 (-13), .fin false 1 (-25)]
      q.1 = 0x73 ∧ q.2.1 = [0x7C, 0xB0, 0x00]) ∧
    (convElem .bf16 .sr false 0x7FFFFFFF (f32 0x3F808000)).1 = 0x3F80 ∧ (convElem .bf16 .sr false 0x80000000 (f32 0x3F808000)).1 = 0x3F81 := by decide +kernel

/-- Chapter 4: an E4M3 block that cancels, the class H window, the MX scales that underflow, the three sub-blocks of class W. -/
theorem test_example_blocks :
    (let e x := unpack .e4m3 x; blockSum .f8 .fp32 false false 0 [(e 0x7E, e 0x7E), (e 0x01, e 0x01), (e 0x7E, e 0xFE)]) = (⟨0x36800000, 0⟩, 0) ∧
    (let h x := unpack .bf16 x; blockSum .h .fp32 false false 0 [(h 0x3F80, h 0x3F80), (h 0x3F80, h 0x3380), (h 0x3F80, h 0x2180)]) = (⟨0x3F800000, 0⟩, fINX) ∧
    (let h x := unpack .bf16 x; blockSum .h .fp32 false false 0 [(h 0x7F7F, h 0x7F7F), (h 0x3F80, h 0x4000)]) = (⟨0x7F800000, 0⟩, fOVF ||| fINX) ∧
    (let h x := unpack .bf16 x; blockSum .h .fp32 false false 0 [(h 0x7F80, h 0), (h 0x3F80, h 0x3F80)]) = (⟨0x7FC00000, 0⟩, fINV) ∧
    (let e x := unpack .e4m3 x; blockSum .mx .fp32 false false (0x20 + 0x40 - 254) [(e 0x7E, e 0x7E), (e 0x01, e 0x38)]) = (⟨0x188, 0⟩, fUNF ||| fINX) ∧
    accumulate .fp32 false none (blockSumW .fp32 false [(0x3F800001, 0x3F800001)]) = (some ⟨0x3F800002, 0⟩, 0) := by decide +kernel

/-- Chapter 6: PADDF, VSUM of 1, 2^-24, 2^-24, 0 in FP32 and as a pair. -/
theorem test_example_sums : pairAdd false ⟨0x3F800000, 0⟩ ⟨0x33800000, 0⟩ = (⟨0x3F800000, 0x33800000⟩, 0) ∧
    vsum false false [⟨0x3F800000, 0⟩, ⟨0x33800000, 0⟩, ⟨0x33800000, 0⟩, ⟨0, 0⟩] = (⟨0x3F800000, 0⟩, fINX) ∧
    vsum true false [⟨0x3F800000, 0⟩, ⟨0x33800000, 0⟩, ⟨0x33800000, 0⟩, ⟨0, 0⟩] = (⟨0x3F800001, 0⟩, 0) := by decide +kernel

/-- The chunk after R149: MAG ranks 3, 1, 2 and VALUE ranks 3, 2, 5. -/
def chunk1 : List W32 := [0x3F000000, 0xC0000000, 0x40000000, 0x7FC00000, 0x80000000, 0x3F800000, 0xC0000000, 0x3F400000]
theorem test_example_topk : (topk false 3 chunk1).map (·.2) = [3, 1, 2] ∧ (topk true 3 chunk1).map (·.2) = [3, 2, 5] := by decide +kernel

/-- The step after R154: probabilities, factor and running sum. -/
theorem test_example_step : softmaxRow 0x3F800000 ⟨0x40400000, ⟨0x3FE00000, 0⟩, 0x3F800000⟩
      [(0x40000000, true), (0x40A00000, true), (0x40800000, true), (0x40A00000, true)] =
    (⟨0x40A00000, ⟨0x40440000, 0⟩, 0x3E800000⟩, [0x3E000000, 0x3F800000, 0x3F000000, 0x3F800000], 0) := by decide +kernel

/-- NB12: the checksum after R71; the addition after R327, with the first bytes of its block. -/
def nbOf (sc : Int) (m : List (Option Int)) : Nb := ⟨sc, 0, false, true, 0, nbCheck (m ++ List.replicate 61 (some 0)), m ++ List.replicate 61 (some 0)⟩
theorem test_example_nb12 : nbCheck [some 5, some (-3), some 2047] = 0x27F7 ∧
    (let r := nbAdd (nbOf (-3) [some 1500, some (-7), some 3]) (nbOf (-3) [some 1000, some (-6), some (-1)])
     r.2 = false ∧ (nbPack r.1).take 14 = [0xFE, 0x01, 0x02, 0x00, 0xD5, 0x04, 0x00, 0x00, 0xE2, 0xA4, 0xFF, 0x01, 0x00, 0x00]) := by decide +kernel

/-- The header after R283, and R18's row 7 of a column whose slide entry is 7. -/
def sendPkt : Packet :=
  { ty := 8, vc := 1, epoch := 0, sec := false, hops := 1, rsv := 0, dst := 0x1ACE, src := 0x1ACF, dstCore := 0x52, srcCore := 0x39,
    index := 0x125, sent := 0x5A3C8000 + 0x9F40, ext := extOf [(0, 0xC4000), (21, 5), (32, 15), (48, 2), (64, 3), (96, 0x5A3C8000)],
    payload := [], crc := 0, lseq := 0, lack := 0 }
theorem test_example_packet : sendPkt.bytes =
    [0x18, 0x01, 0xCE, 0x1A, 0xCF, 0x1A, 0x52, 0x39, 0x25, 0x01, 0x00, 0x00, 0x40, 0x1F, 0x3D, 0x5A, 0x00, 0x40, 0xAC, 0x00, 0x0F, 0x00, 0x02, 0x00,
     0x03, 0x00, 0x00, 0x00, 0x00, 0x80, 0x3C, 0x5A] ∧ siteRow 7 6 = 6 ∧ siteRow 7 7 = 8 ∧ siteRow 7 11 = 12 := by decide +kernel

/-- The completion record after Table 10.14. -/
theorem test_example_record : recBytes (launchRecord { State.reset with tally := 0x03A98000 }
      { launch1 with h := { dhead with sq := 5, tag := 0x42, slot := 0x1207 }, seq := 913, exc := 5, vvx := true }) true =
    [0x42, 0x00, 0x01, 0x01, 0x05, 0x00, 0x07, 0x12, 0x05, 0x01, 0, 0, 0, 0, 0, 0, 0x91, 0x03, 0, 0, 0, 0, 0, 0, 0x00, 0x80, 0xA9, 0x03, 0, 0, 0, 0x80] := by decide +kernel

end Sys2Proof.Tests
end

section
/-! Proofs: what moves when records are written, descriptors are passed over and rings read on. -/
namespace Sys2Proof.Machine

open Sys2Proof.Safety

/-- From `s` to `t` only rings, vectors, open work items, the staged trace records, what is counted and what the device sends have
moved. It says more than `hostOnly`: the trace's controls stand. -/
def ringsOnly (s t : State) : Prop :=
  t = { s with subs := t.subs, comps := t.comps, msix := t.msix, lastRing := t.lastRing, items := t.items, nextItem := t.nextItem,
               trace := { s.trace with queue := t.trace.queue, lost := t.trace.lost }, ctrs := t.ctrs, run := t.run, out := t.out,
               power := { s.power with wakeN := t.power.wakeN } }

theorem ringsOnly_refl (s : State) : ringsOnly s s := rfl

theorem ringsOnly_trans {s t u : State} (h1 : ringsOnly s t) (h2 : ringsOnly t u) : ringsOnly s u := by
  unfold ringsOnly at *; rw [h2, h1]

theorem hostOnly_trans {s t u : State} (h1 : hostOnly s t) (h2 : hostOnly t u) : hostOnly s u := by
  unfold hostOnly at *; rw [h2, h1]

section
variable {s t : State} (h : hostOnly s t)
include h

theorem hostOnly_cores : t.cores = s.cores := by unfold Safety.hostOnly at h; rw [h]
theorem hostOnly_sites : t.sites = s.sites := by unfold Safety.hostOnly at h; rw [h]
theorem hostOnly_hbm : t.hbm = s.hbm := by unfold Safety.hostOnly at h; rw [h]
theorem hostOnly_fabric : t.fabric = s.fabric := by unfold Safety.hostOnly at h; rw [h]
theorem hostOnly_align : t.align = s.align := by unfold Safety.hostOnly at h; rw [h]
theorem hostOnly_life : t.life = s.life := by unfold Safety.hostOnly at h; rw [h]
theorem hostOnly_sec : t.sec = s.sec := by unfold Safety.hostOnly at h; rw [h]

end

theorem ringsOnly.hostOnly {s t : State} (h : ringsOnly s t) : hostOnly s t := by
  unfold ringsOnly at h; unfold Safety.hostOnly; rw [h]

theorem ringsOnly.traceEnabled {s t : State} (h : ringsOnly s t) : t.trace.enabled = s.trace.enabled := by
  unfold ringsOnly at h; rw [h]

/-- Steps of a fold that each move only rings move only rings together. -/
theorem ringsOnly_foldl {α : Type} {f : State → α → State} (hf : ∀ s x, ringsOnly s (f s x)) (l : List α) (s : State) :
    ringsOnly s (l.foldl f s) := by
  induction l generalizing s with
  | nil => exact ringsOnly_refl s
  | cons x l ih => exact ringsOnly_trans (hf s x) (ih (f s x))

/-! Trace records. -/

theorem ringsOnly_count (s : State) (f : ChipCtrs → ChipCtrs) : ringsOnly s (s.count f) := by
  unfold State.count; split <;> rfl

theorem ringsOnly_traceDrop (s : State) : ringsOnly s (traceDrop s) := by
  unfold traceDrop
  exact ringsOnly_trans (ringsOnly_count s _) rfl

theorem ringsOnly_tracePush (s : State) (r : TraceRec) : ringsOnly s (tracePush s r) := by
  unfold tracePush
  split <;> split
  · rfl
  · exact ringsOnly_traceDrop s
  · rfl
  · exact ringsOnly_traceDrop s

theorem ringsOnly_traceDispatch (s : State) (sq : RingId) (slot : Nat) (word : Word) :
    ringsOnly s (traceDispatch s sq slot word) := by
  unfold traceDispatch
  split
  · exact ringsOnly_tracePush s _
  · exact ringsOnly_refl s

/-! Records. -/

/-- A message, or what is kept of it, touches only the vector's entry and what the device sends (R267). -/
theorem raiseVector_eq (s : State) (v : Fin 64) (holdoff : Nat) :
    ∃ x o, raiseVector s v holdoff = { s with msix := x, out := o } := by
  unfold raiseVector
  dsimp only
  split
  · exact ⟨_, _, rfl⟩
  · split <;> exact ⟨_, _, rfl⟩

theorem ringsOnly_raiseVector (s : State) (v : Fin 64) (holdoff : Nat) : ringsOnly s (raiseVector s v holdoff) := by
  obtain ⟨x, o, h⟩ := raiseVector_eq s v holdoff
  rw [h]; rfl

theorem ringsOnly_putRecord (s : State) (cq : RingId) (r : Rec) : ringsOnly s (putRecord s cq r) := by
  unfold putRecord
  dsimp only
  split
  · refine ringsOnly_trans ?_ (ringsOnly_raiseVector _ _ _); rfl
  · rfl

/-- What draining a ring once can do (R260): set its FULL, hold back (the link in L2 may raise WAKE#), or write one record and go on. -/
theorem drainRing_cases (n : Nat) (s : State) (cq : RingId) :
    (∃ f, drainRing (n + 1) s cq = { s with comps := vset s.comps cq { s.comps[cq] with full := f } }) ∨
    (∃ b, drainRing (n + 1) s cq = { s with power := { s.power with wakeN := b } }) ∨
    ∃ r rest f, drainRing (n + 1) s cq =
      drainRing n (putRecord { s with comps := vset s.comps cq { s.comps[cq] with waiting := rest, full := f } } cq r) cq := by
  rw [drainRing]
  dsimp only
  split
  · exact .inl ⟨false, rfl⟩
  · rename_i r rest _
    by_cases hl : s.power.linkL2 = true
    · rw [if_pos hl]
      split
      · exact .inr (.inl ⟨true, rfl⟩)
      · exact .inr (.inl ⟨s.power.wakeN, rfl⟩)
    · rw [if_neg hl]
      by_cases hi : (r.after.any fun i => s.items.any fun j => decide (j.id = i)) = true
      · rw [if_pos hi]
        exact .inr (.inl ⟨s.power.wakeN, rfl⟩)
      · rw [if_neg hi]
        by_cases hf : (if r.more = true then 2 else 1) ≤ ringFree s.comps[cq]
        · rw [if_pos hf]
          exact .inr (.inr ⟨r, rest, _, rfl⟩)
        · rw [if_neg hf]
          exact .inl ⟨true, rfl⟩

theorem ringsOnly_drainRing (n : Nat) (s : State) (cq : RingId) : ringsOnly s (drainRing n s cq) := by
  induction n generalizing s with
  | zero => exact ringsOnly_refl s
  | succ n ih =>
    rcases drainRing_cases n s cq with ⟨f, h⟩ | ⟨b, h⟩ | ⟨r, rest, f, h⟩
    · rw [h]; rfl
    · rw [h]; rfl
    · rw [h]
      refine ringsOnly_trans ?_ (ringsOnly_trans (ringsOnly_putRecord _ cq r) (ih _))
      rfl

theorem ringsOnly_writeRecord (s : State) (cq : RingId) (r : Rec) : ringsOnly s (writeRecord s cq r) := by
  unfold writeRecord
  dsimp only
  split
  · rfl
  · refine ringsOnly_trans ?_ (ringsOnly_drainRing _ _ cq); rfl

theorem ringsOnly_eventRecord (s : State) (ev status : Nat) (details : List (Nat × Nat × Nat)) :
    ringsOnly s (eventRecord s ev status details) :=
  ringsOnly_trans (t := s.emit (.uart s.tally)) rfl (ringsOnly_writeRecord _ _ _)

theorem ringsOnly_completeDesc (s : State) (h : DHead) (status result : Nat) (closes : Option Nat) :
    ringsOnly s (completeDesc s h status result closes) :=
  ringsOnly_trans (ringsOnly_traceDispatch s _ _ _) (ringsOnly_writeRecord _ _ _)

/-! Rings that read on (R242, R246). -/

theorem ringsOnly_takeFront (s : State) (sq : RingId) : ringsOnly s (takeFront s sq) := rfl

theorem ringsOnly_startFetch (s : State) (sq : RingId) : ringsOnly s (startFetch s sq) := by
  unfold startFetch; simp only; split <;> rfl

theorem ringsOnly_skipUnknown (k : Nat) (s : State) (n : Fin 4) : ringsOnly s (skipUnknown k s n) := by
  induction k generalizing s with
  | zero => exact ringsOnly_refl s
  | succ k ih =>
    unfold skipUnknown
    split
    · exact ringsOnly_refl s
    · split
      · exact ringsOnly_refl s
      · split
        · exact ringsOnly_refl s
        · exact ringsOnly_trans (ringsOnly_takeFront s _) (ringsOnly_trans (ringsOnly_completeDesc _ _ _ _ _) (ih _))

theorem ringsOnly_pumpRings (s : State) : ringsOnly s (pumpRings s) :=
  ringsOnly_trans (ringsOnly_foldl (ringsOnly_skipUnknown _) _ s) (ringsOnly_foldl ringsOnly_startFetch _ _)

/-- Rings that read on move the host interface only. -/
theorem hostOnly_pumpRings (s : State) : hostOnly s (pumpRings s) := (ringsOnly_pumpRings s).hostOnly

/-! A record of another ring. -/

/-- What a written record does to the rings themselves: TAIL moves on (R259). -/
theorem putRecord_rings (s : State) (cq : RingId) (r : Rec) : (putRecord s cq r).subs = s.subs ∧
    (putRecord s cq r).comps = vset s.comps cq { s.comps[cq] with tailPos := (s.comps[cq].tailPos + 1) % 2 ^ 32 } := by
  unfold putRecord
  dsimp only
  split
  · obtain ⟨x, o, h⟩ := raiseVector_eq _ (s.comps[cq]).vector (s.comps[cq]).holdoff
    rw [h]; exact ⟨rfl, rfl⟩
  · exact ⟨rfl, rfl⟩

theorem putRecord_comps_ne (s : State) {cq m : RingId} (r : Rec) (hm : m ≠ cq) : (putRecord s cq r).comps[m] = s.comps[m] := by
  rw [(putRecord_rings s cq r).2]; exact vset_ne _ _ hm

theorem drainRing_subs (n : Nat) (s : State) (cq : RingId) : (drainRing n s cq).subs = s.subs := by
  induction n generalizing s with
  | zero => rfl
  | succ n ih =>
    rcases drainRing_cases n s cq with ⟨f, h⟩ | ⟨b, h⟩ | ⟨r, rest, f, h⟩
    · rw [h]
    · rw [h]
    · rw [h, ih, (putRecord_rings _ cq r).1]

theorem drainRing_comps_ne (n : Nat) (s : State) {cq m : RingId} (hm : m ≠ cq) : (drainRing n s cq).comps[m] = s.comps[m] := by
  induction n generalizing s with
  | zero => rfl
  | succ n ih =>
    rcases drainRing_cases n s cq with ⟨f, h⟩ | ⟨b, h⟩ | ⟨r, rest, f, h⟩
    · rw [h]; exact vset_ne _ _ hm
    · rw [h]
    · rw [h, ih, putRecord_comps_ne _ r hm]; exact vset_ne _ _ hm

theorem writeRecord_subs (s : State) (cq : RingId) (r : Rec) : (writeRecord s cq r).subs = s.subs := by
  unfold writeRecord
  dsimp only
  split
  · rfl
  · exact drainRing_subs _ _ cq

theorem writeRecord_comps_ne (s : State) {cq m : RingId} (r : Rec) (hm : m ≠ cq) : (writeRecord s cq r).comps[m] = s.comps[m] := by
  unfold writeRecord
  dsimp only
  split
  · exact vset_ne _ _ hm
  · exact (drainRing_comps_ne _ _ hm).trans (vset_ne _ _ hm)

/-- A record for a ring that is not ACTIVE is discarded and counted (R241). -/
theorem writeRecord_comps_inactive {s : State} {cq : RingId} (r : Rec) (h : s.comps[cq].active = false) :
    (writeRecord s cq r).comps[cq] = { s.comps[cq] with dropped := min (s.comps[cq].dropped + 1) 0xFFFF } := by
  unfold writeRecord
  dsimp only
  rw [if_pos (by simp only [h]; rfl)]
  exact vset_same _ _ _

/-! An event's record goes to ring 0 (R266). -/

theorem eventRecord_subs (s : State) (ev status : Nat) (details : List (Nat × Nat × Nat)) :
    (eventRecord s ev status details).subs = s.subs :=
  writeRecord_subs _ 0 _

theorem eventRecord_comps_ne (s : State) {m : RingId} (hm : m ≠ 0) (ev status : Nat) (details : List (Nat × Nat × Nat)) :
    (eventRecord s ev status details).comps[m] = s.comps[m] :=
  writeRecord_comps_ne _ _ hm

theorem eventRecord_comps_inactive {s : State} (h : s.comps[(0 : RingId)].active = false) (ev status : Nat)
    (details : List (Nat × Nat × Nat)) : (eventRecord s ev status details).comps[(0 : RingId)] =
      { s.comps[(0 : RingId)] with dropped := min (s.comps[(0 : RingId)].dropped + 1) 0xFFFF } :=
  writeRecord_comps_inactive (s := s.emit (.uart s.tally)) _ h

end Sys2Proof.Machine
end

section
/-! Proofs: the wake of the chip, the fields of a register, and the write of a whole register. -/
namespace Sys2Proof.Machine

open Sys2Proof.Safety

theorem vset_vset {α : Type} {n : Nat} (v : Vector α n) (i : Fin n) (x y : α) : vset (vset v i x) i y = vset v i y := by
  simp [vset]

/-! A wake event touches only where the chip stands with S3 (R390). -/

theorem wakeChip_eq (s : State) : ∃ x, wakeChip s = { s with power := { s.power with chip := x } } := by
  unfold wakeChip
  split
  · exact ⟨_, rfl⟩
  · exact ⟨_, rfl⟩
  · exact ⟨s.power.chip, rfl⟩

section
variable (s : State)

@[simp] theorem wakeChip_tally : (wakeChip s).tally = s.tally := by obtain ⟨x, h⟩ := wakeChip_eq s; rw [h]
@[simp] theorem wakeChip_life : (wakeChip s).life = s.life := by obtain ⟨x, h⟩ := wakeChip_eq s; rw [h]
@[simp] theorem wakeChip_cores : (wakeChip s).cores = s.cores := by obtain ⟨x, h⟩ := wakeChip_eq s; rw [h]
@[simp] theorem wakeChip_hbm : (wakeChip s).hbm = s.hbm := by obtain ⟨x, h⟩ := wakeChip_eq s; rw [h]
@[simp] theorem wakeChip_regions : (wakeChip s).regions = s.regions := by obtain ⟨x, h⟩ := wakeChip_eq s; rw [h]
@[simp] theorem wakeChip_subs : (wakeChip s).subs = s.subs := by obtain ⟨x, h⟩ := wakeChip_eq s; rw [h]
@[simp] theorem wakeChip_comps : (wakeChip s).comps = s.comps := by obtain ⟨x, h⟩ := wakeChip_eq s; rw [h]
@[simp] theorem wakeChip_hifPoll : (wakeChip s).hifPoll = s.hifPoll := by obtain ⟨x, h⟩ := wakeChip_eq s; rw [h]
@[simp] theorem wakeChip_cacheOn : (wakeChip s).cacheOn = s.cacheOn := by obtain ⟨x, h⟩ := wakeChip_eq s; rw [h]
@[simp] theorem wakeChip_hdmSize : (wakeChip s).hdmSize = s.hdmSize := by obtain ⟨x, h⟩ := wakeChip_eq s; rw [h]
@[simp] theorem wakeChip_items : (wakeChip s).items = s.items := by obtain ⟨x, h⟩ := wakeChip_eq s; rw [h]
@[simp] theorem wakeChip_fabric : (wakeChip s).fabric = s.fabric := by obtain ⟨x, h⟩ := wakeChip_eq s; rw [h]
@[simp] theorem wakeChip_trace : (wakeChip s).trace = s.trace := by obtain ⟨x, h⟩ := wakeChip_eq s; rw [h]
@[simp] theorem wakeChip_obs : (wakeChip s).obs = s.obs := by obtain ⟨x, h⟩ := wakeChip_eq s; rw [h]
@[simp] theorem wakeChip_sec : (wakeChip s).sec = s.sec := by obtain ⟨x, h⟩ := wakeChip_eq s; rw [h]
@[simp] theorem wakeChip_out : (wakeChip s).out = s.out := by obtain ⟨x, h⟩ := wakeChip_eq s; rw [h]

@[simp] theorem wakeChip_core (c : CoreId) : (wakeChip s).core c = s.core c := State.core_congr (wakeChip_cores s) c
@[simp] theorem wakeChip_windowCovered (b n : Nat) : windowCovered (wakeChip s) b n = windowCovered s b n := by simp [windowCovered]
@[simp] theorem wakeChip_launchOpen : launchOpen (wakeChip s) = launchOpen s := by simp [launchOpen, launchItems]
@[simp] theorem wakeChip_ringServed (n : RingId) : ringServed (wakeChip s) n = ringServed s n := by simp [ringServed]
@[simp] theorem wakeChip_polls (b : Bool) : polls (wakeChip s) b = polls s b := by simp [polls]

end

/-! Fields. -/

theorem field_eq (x lo len : Nat) : field x lo len = x / 2 ^ lo % 2 ^ len := by rw [field, Nat.shiftRight_eq_div_pow]

theorem bit_zero (x : Nat) : bit x 0 = decide (x % 2 = 1) := Nat.testBit_zero ..

/-- The whole register that an aligned 8-byte access writes (R473). -/
theorem regWriteOf_whole (s : State) (mb : Fin 2) {off : Nat} (v : Word) (h : off % 8 = 0) :
    regWriteOf s mb off 8 v.toNat = some ⟨mb, off, v.toNat, v.toNat, true, true⟩ := by
  rw [regWriteOf, if_pos (by simp [h]), Nat.mod_eq_of_lt v.isLt]

/-- With BAR0 shut a host write reaches nothing (R452). -/
theorem hostWrite_shut {s : State} {secure : Bool} (h : barOpen s secure = false) (off size : Nat) (v : Word) :
    hostWrite s off size v secure = s := by
  simp [hostWrite, h]

/-- A host write of a whole register takes its effect, and rings may then read on (R473). -/
theorem hostWrite_whole {s : State} {secure : Bool} (h : barOpen s secure = true) {off : Nat} (v : Word) (ho : off % 8 = 0) :
    hostWrite s off 8 v secure = pumpRings (writeReg (wakeChip s) ⟨0, off, v.toNat, v.toNat, true, true⟩) := by
  simp [hostWrite, h, regWriteOf_whole s 0 v ho]

end Sys2Proof.Machine
end

section
/-! Proofs: the mailbox (R10, R435, R488, R489). -/
namespace Sys2Proof.Machine

open Sys2Proof.Safety

theorem modMail_same (s : State) (mb : Fin 2) (f : Mailbox → Mailbox) : (modMail s mb f).sec.mail[mb] = f s.sec.mail[mb] :=
  vset_same _ _ _

theorem modMail_ne (s : State) {mb o : Fin 2} (f : Mailbox → Mailbox) (h : o ≠ mb) :
    (modMail s mb f).sec.mail[o] = s.sec.mail[o] :=
  vset_ne _ _ h

/-- Two changes of a mailbox are one. -/
theorem modMail_modMail (s : State) (mb : Fin 2) (f g : Mailbox → Mailbox) : modMail (modMail s mb f) mb g = modMail s mb (g ∘ f) := by
  simp only [modMail, vmod, vset_vset, vset_same]
  rfl

/-- A mailbox's vector touches no more than the vector's entry and what the device sends (R489). -/
theorem mailIrq_eq (s : State) (mb : Fin 2) : ∃ x o, mailIrq s mb = { s with msix := x, out := o } := by
  unfold mailIrq
  dsimp only
  split
  · exact raiseVector_eq s _ _
  · exact ⟨s.msix, s.out, rfl⟩

theorem mailIrq_sec (s : State) (mb : Fin 2) : (mailIrq s mb).sec = s.sec := by
  obtain ⟨x, o, h⟩ := mailIrq_eq s mb; rw [h]

theorem hostOnly_mailIrq (s : State) (mb : Fin 2) : hostOnly s (mailIrq s mb) := by
  obtain ⟨x, o, h⟩ := mailIrq_eq s mb; rw [h]; rfl

/-- A write through a mailbox's open port takes its effect. -/
theorem mailWrite_whole {s : State} {mb : Fin 2} {secure : Bool} (h : mb = 1 ∨ barOpen s secure = true) {off : Nat} (v : Word)
    (ho : off % 8 = 0) : mailWrite s mb off v secure = writeReg (wakeChip s) ⟨mb, off, v.toNat, v.toNat, true, true⟩ := by
  have hp : (decide (mb = 0) && !barOpen s secure) = false := by
    rcases h with h | h
    · simp [h]
    · simp [h]
  simp [mailWrite, hp, regWriteOf_whole s mb v ho]

/-- MB_SUBMIT through an open port writes MB_CTL. -/
theorem exec_mbSubmit {s : State} {mb : Fin 2} {secure : Bool} (h : mb = 1 ∨ barOpen s secure = true) {v : Word}
    (hv : v.toNat % 2 = 1) :
    exec (.mbSubmit mb v secure) s = .next (writeMbCtl (wakeChip s) ⟨mb, 0x8000, v.toNat, v.toNat, true, true⟩) := by
  show execMbSubmit mb v secure s = _
  rw [execMbSubmit, bit_zero, if_pos (by simp [hv]), mailWrite_whole h v (by decide)]
  rfl

/-- MB_CTL of a busy mailbox is left as it is. -/
theorem writeMbCtl_busy {s : State} {w : RegWrite} (h : s.sec.mail[w.mb].busy = true) : writeMbCtl s w = s := by
  simp only [writeMbCtl, submitMail, h, if_true, ite_self]

/-- A SUBMIT with a length in range hands the request to the Enclave. -/
theorem submitMail_queued {s : State} {mb : Fin 2} (hb : s.sec.mail[mb].busy = false) (h1 : 8 ≤ s.sec.mail[mb].reqLen)
    (h2 : s.sec.mail[mb].reqLen ≤ 8192) :
    submitMail s mb = { s with sec := { s.sec with
      mail := vset s.sec.mail mb { s.sec.mail[mb] with
        busy := true, done := false, answer := none,
        current := some ((s.sec.mail[mb].req ++ List.replicate (s.sec.mail[mb].reqLen - s.sec.mail[mb].req.length) 0).take
          s.sec.mail[mb].reqLen) }
      queue := s.sec.queue ++ [mb] } } := by
  have hr : (decide (s.sec.mail[mb].reqLen < 8) || decide (8192 < s.sec.mail[mb].reqLen)) = false := by
    rw [decide_eq_false (by omega), decide_eq_false (by omega)]; rfl
  unfold submitMail
  simp only [hb, hr, Bool.false_eq_true, if_false]
  rfl

/-- A SUBMIT with a length out of range completes at once. -/
theorem submitMail_malformed {s : State} {mb : Fin 2} (hb : s.sec.mail[mb].busy = false)
    (h : s.sec.mail[mb].reqLen < 8 ∨ 8192 < s.sec.mail[mb].reqLen) :
    submitMail s mb = mailIrq (modMail s mb fun m => { m with status := stMalformed, done := true, respLen := 0, resp := [] }) mb := by
  have hr : (decide (s.sec.mail[mb].reqLen < 8) || decide (8192 < s.sec.mail[mb].reqLen)) = true := by
    rw [← Bool.decide_or, decide_eq_true h]
  unfold submitMail
  simp only [hb, hr, Bool.false_eq_true, if_false, if_true]

/-- Bytes beyond a list read zero, however many zeros stand behind it. -/
theorem take_append_zeros (l : List Byte) (n : Nat) : (l ++ List.replicate (n - l.length) 0).take n = (l ++ List.replicate n 0).take n := by
  rw [List.take_append, List.take_append, List.take_replicate, List.take_replicate]
  congr 2; omega

/-- MB_CTL of a mailbox that is not busy takes REQ_BYTES, then SUBMIT. -/
theorem writeMbCtl_submit {s : State} {mb : Fin 2} {v : Word} (hb : s.sec.mail[mb].busy = false) (hv : v.toNat % 2 = 1) :
    writeMbCtl s ⟨mb, 0x8000, v.toNat, v.toNat, true, true⟩ =
      submitMail (modMail s mb fun m => { m with reqLen := v.toNat / 2 ^ 32 % 2 ^ 14 }) mb := by
  simp only [writeMbCtl, hb, bit_zero, hv, field_eq, decide_true, if_true, Bool.false_eq_true, if_false]

/-- A request whose length is in range is queued for the Enclave. -/
theorem exec_mbSubmit_queued {s : State} {mb : Fin 2} {secure : Bool} (h : mb = 1 ∨ barOpen s secure = true) {v : Word}
    (hv : v.toNat % 2 = 1) (hb : s.sec.mail[mb].busy = false) (h1 : 8 ≤ v.toNat / 2 ^ 32 % 2 ^ 14)
    (h2 : v.toNat / 2 ^ 32 % 2 ^ 14 ≤ 8192) :
    exec (.mbSubmit mb v secure) s = .next { wakeChip s with sec := { s.sec with
      mail := vset s.sec.mail mb { s.sec.mail[mb] with
        reqLen := v.toNat / 2 ^ 32 % 2 ^ 14, busy := true, done := false, answer := none,
        current := some ((s.sec.mail[mb].req ++ List.replicate (v.toNat / 2 ^ 32 % 2 ^ 14) 0).take (v.toNat / 2 ^ 32 % 2 ^ 14)) }
      queue := s.sec.queue ++ [mb] } } := by
  have hm := modMail_same (wakeChip s) mb fun m => { m with reqLen := v.toNat / 2 ^ 32 % 2 ^ 14 }
  rw [wakeChip_sec] at hm
  rw [exec_mbSubmit h hv, writeMbCtl_submit (by rwa [wakeChip_sec]) hv,
    submitMail_queued (by rw [hm]; exact hb) (by rw [hm]; exact h1) (by rw [hm]; exact h2), hm, take_append_zeros]
  simp [modMail, vmod, vset]

/-- A request whose length is out of range completes at once with MALFORMED. -/
theorem exec_mbSubmit_malformed {s : State} {mb : Fin 2} {secure : Bool} (h : mb = 1 ∨ barOpen s secure = true) {v : Word}
    (hv : v.toNat % 2 = 1) (hb : s.sec.mail[mb].busy = false)
    (hn : v.toNat / 2 ^ 32 % 2 ^ 14 < 8 ∨ 8192 < v.toNat / 2 ^ 32 % 2 ^ 14) :
    exec (.mbSubmit mb v secure) s = .next (mailIrq (modMail (wakeChip s) mb fun m => { m with
      reqLen := v.toNat / 2 ^ 32 % 2 ^ 14, status := stMalformed, done := true, respLen := 0, resp := [] }) mb) := by
  have hm := modMail_same (wakeChip s) mb fun m => { m with reqLen := v.toNat / 2 ^ 32 % 2 ^ 14 }
  rw [wakeChip_sec] at hm
  rw [exec_mbSubmit h hv, writeMbCtl_submit (by rwa [wakeChip_sec]) hv,
    submitMail_malformed (by rw [hm]; exact hb) (by rw [hm]; exact hn), modMail_modMail]
  rfl

/-- Writing 1 to DONE clears it, unless the Enclave sets it in the same cycle (R10). -/
theorem exec_mbDoneClear {s : State} {mb : Fin 2} {secure : Bool} (h : mb = 1 ∨ barOpen s secure = true) (setNow : Bool) :
    exec (.mbDoneClear mb setNow secure) s =
      .next (if setNow then wakeChip s else modMail (wakeChip s) mb fun m => { m with done := false }) := by
  have hp : (decide (mb = 0) && !barOpen s secure) = false := by
    rcases h with h | h
    · simp [h]
    · simp [h]
  show execMbDoneClear mb setNow secure s = _
  cases setNow
  · simp only [execMbDoneClear, hp, Bool.false_eq_true, if_false]
    rw [mailWrite_whole h 2 (by decide)]
    simp [writeReg, show bit 2 1 = true by decide]
  · simp [execMbDoneClear, hp]

/-- The state in which the request at the front of the queue has been answered. -/
def mailAnswered (s : State) (mb : Fin 2) (st : Nat) (bs : List Byte) : State :=
  mailIrq (modMail { s with sec := { s.sec with queue := s.sec.queue.drop 1 } } mb fun m =>
    { m with busy := false, done := true, status := st, respLen := bs.length, resp := bs, current := none, answer := none }) mb

theorem exec_mbResponse_answer {s : State} {mb : Fin 2} {st : Nat} {bs : List Byte} (hq : s.sec.queue.head? = some mb)
    (ha : s.sec.mail[mb].answer = some (st, bs)) : exec (.mbResponse mb) s = .next (mailAnswered s mb st bs) := by
  show execMbResponse mb s = _
  simp only [execMbResponse, hq, ha, ne_eq, not_true_eq_false, if_false, Option.isNone_some, Bool.false_and, Bool.false_eq_true]
  rfl

theorem exec_mbResponse_reserved {s : State} {mb : Fin 2} {bs : List Byte} (hq : s.sec.queue.head? = some mb)
    (ha : s.sec.mail[mb].answer = none) (hc : s.sec.mail[mb].current = some bs) (hu : s.sec.enclaveUp = true)
    (hr : reqCode bs ∉ reqCodes) : exec (.mbResponse mb) s = .next (mailAnswered s mb stMalformed []) := by
  show execMbResponse mb s = _
  have hc' : reqCodes.contains (reqCode bs) = false := by simpa using hr
  simp only [execMbResponse, mailAnswered, hq, ha, hc, hu, hc', ne_eq, not_true_eq_false, if_false, if_true, Option.isNone_none,
    Bool.true_and, Bool.not_false]

theorem exec_mbResponse_waits {s : State} {mb : Fin 2} (hq : s.sec.queue.head? ≠ some mb) : exec (.mbResponse mb) s = .next s := by
  show execMbResponse mb s = _
  simp only [execMbResponse, ne_eq, hq, not_false_eq_true, if_true]

theorem mailAnswered_sec (s : State) (mb : Fin 2) (st : Nat) (bs : List Byte) : (mailAnswered s mb st bs).sec = { s.sec with
    mail := vset s.sec.mail mb { s.sec.mail[mb] with
      busy := false, done := true, status := st, respLen := bs.length, resp := bs, current := none, answer := none }
    queue := s.sec.queue.drop 1 } := by
  rw [mailAnswered, mailIrq_sec]; rfl

theorem hostOnly_mailAnswered (s : State) (mb : Fin 2) (st : Nat) (bs : List Byte) :
    hostOnly { s with sec := (mailAnswered s mb st bs).sec } (mailAnswered s mb st bs) := by
  rw [mailAnswered_sec]; exact hostOnly_mailIrq _ mb

/-- Settles O48: SUBMIT and DONE through an open port, then the response at the front of the queue. -/
theorem mailboxRequests : Obligations.MailboxRequests := by
  intro s mb secure
  dsimp only
  refine ⟨fun h => ⟨?busy, ?free, ?clear, ?setNow⟩, fun hq => ⟨?answer, ?reserved⟩, exec_mbResponse_waits⟩
  case busy =>
    intro v hv hb
    rw [exec_mbSubmit h hv, writeMbCtl_busy (by rwa [wakeChip_sec])]
  case free =>
    refine fun v hv hb => ⟨fun h1 h2 => ?_, fun hn => ?_⟩
    · exact ⟨_, exec_mbSubmit_queued h hv hb h1 h2, rfl, fun o ho => vset_ne _ _ ho, rfl, vset_same _ _ _⟩
    · refine ⟨_, exec_mbSubmit_malformed h hv hb hn, ?_, fun o ho => ?_, ?_, ?_⟩
      · rw [mailIrq_sec]; exact hostOnly_mailIrq _ mb
      · rw [mailIrq_sec, modMail_ne _ _ ho, wakeChip_sec]
      · rw [mailIrq_sec, ← wakeChip_sec s]; rfl
      · rw [mailIrq_sec, modMail_same, wakeChip_sec]; rfl
  case clear =>
    rw [exec_mbDoneClear h, modMail, wakeChip_sec]; rfl
  case setNow => exact exec_mbDoneClear h true
  case answer =>
    intro st bs ha
    refine ⟨_, exec_mbResponse_answer hq ha, hostOnly_mailAnswered s mb st bs, fun o ho => ?_, ?_, ?_⟩
    · rw [mailAnswered_sec]; exact vset_ne _ _ ho
    · rw [mailAnswered_sec]
    · rw [mailAnswered_sec]; exact vset_same _ _ _
  case reserved =>
    intro bs ha hc hu hr
    refine ⟨_, exec_mbResponse_reserved hq ha hc hu hr, ?_⟩
    rw [mailAnswered_sec, vset_same]
    exact ⟨rfl, rfl, rfl, rfl, rfl⟩

end Sys2Proof.Machine
end

section
/-! Proofs: one tick of the Tally (R307, R309, R399). -/
namespace Sys2Proof.Machine

open Sys2Proof.Safety

theorem sat64_zero (n : Nat) : sat64 n 0 = n := by simp only [sat64, satAdd]; omega

theorem State.count_eq (s : State) (f : ChipCtrs → ChipCtrs) : s.count f = { s with ctrs := if s.counting then f s.ctrs else s.ctrs } := by
  unfold State.count; split <;> rfl

theorem State.flagExc_eq (s : State) (b : BitVec 8) :
    s.flagExc b = { s with launch := if s.launchActive then s.launch.map fun l => { l with exc := l.exc ||| b } else s.launch } := by
  unfold State.flagExc; split <;> rfl

theorem State.count_counting {s : State} (h : s.counting = true) (f : ChipCtrs → ChipCtrs) : s.count f = { s with ctrs := f s.ctrs } :=
  if_pos h

theorem State.flagExc_active {s : State} (h : s.launchActive = true) (b : BitVec 8) :
    s.flagExc b = { s with launch := s.launch.map fun l => { l with exc := l.exc ||| b } } :=
  if_pos h

/-- The mesh cycles of the tick under way, for what waits. -/
def waitCycles (s : State) (waits : Bool) : Nat :=
  if waits then meshCycles (s.align.ticks + 1) - meshCycles s.align.ticks else 0

/-- The launch counters with the waits of a tick (R288, R361). -/
def waitCtrs (s : State) : ChipCtrs :=
  if s.counting then { s.ctrs with
    e2eFull := sat64 s.ctrs.e2eFull (waitCycles s (e2eWaits s))
    journalFull := sat64 s.ctrs.journalFull (waitCycles s (journalWaits s)) }
  else s.ctrs

/-- Where nothing waits, counting the waits adds nothing. -/
theorem waitCtrs_of_zero {s : State} (ha : waitCycles s (e2eWaits s) = 0) (hb : waitCycles s (journalWaits s) = 0) :
    waitCtrs s = s.ctrs := by
  rw [waitCtrs, ha, hb, sat64_zero, sat64_zero, ite_self]

theorem countWaits_eq (s : State) : countWaits s = { s with ctrs := waitCtrs s } := by
  have h : countWaits s = if waitCycles s (e2eWaits s) + waitCycles s (journalWaits s) = 0 then s
      else { s with ctrs := waitCtrs s } := by
    rw [countWaits, State.count_eq]; rfl
  rw [h]
  split
  · next hz =>
    obtain ⟨ha, hb⟩ := Nat.add_eq_zero_iff.1 hz
    rw [waitCtrs_of_zero ha hb]
  · rfl

/-- The launch is throttled in this tick (R399). -/
def throttledNow (s : State) : Bool :=
  match s.launch with
  | some l => decide (l.st = LaunchSt.active) && decide (l.level < s.power.throttle ∨ l.level < s.power.level)
  | none => false

/-- The launch after the measures of a tick. -/
def tickLaunch (s : State) : Option Launch :=
  if throttledNow s then s.launch.map fun l => { l with exc := l.exc ||| excTHR } else s.launch

/-- The launch counters after a tick. -/
def tickCtrs (s : State) : ChipCtrs :=
  if throttledNow s then { waitCtrs s with thrTicks := sat64 s.ctrs.thrTicks 1 } else waitCtrs s

/-- A throttled launch is active: its counters run and its flags can be set. -/
theorem throttledNow_counts {s : State} (h : throttledNow s = true) : s.counting = true ∧ s.launchActive = true := by
  unfold throttledNow at h
  unfold State.counting State.launchActive
  cases hl : s.launch with
  | none => simp [hl] at h
  | some l =>
    simp only [hl, Bool.and_eq_true, decide_eq_true_eq] at h
    simp [h.1]

/-- The measures of a tick change the launch counters and the launch's THR flag only. -/
theorem measures_eq (s : State) :
    (if throttledNow s then ((countWaits s).count fun c => { c with thrTicks := sat64 c.thrTicks 1 }).flagExc excTHR else countWaits s) =
      { s with launch := tickLaunch s, ctrs := tickCtrs s } := by
  rw [countWaits_eq]
  cases h : throttledNow s with
  | false => simp [tickLaunch, tickCtrs, h]
  | true =>
    obtain ⟨hc, ha⟩ := throttledNow_counts h
    have hthr : (waitCtrs s).thrTicks = s.ctrs.thrTicks := by unfold waitCtrs; split <;> rfl
    rw [if_pos rfl, State.count_counting (show State.counting { s with ctrs := waitCtrs s } = true from hc),
      State.flagExc_active (by exact ha), tickLaunch, tickCtrs, h, if_pos rfl, if_pos rfl, ← hthr]

theorem tickLaunch_isNone (s : State) : (tickLaunch s).isNone = s.launch.isNone := by
  unfold tickLaunch; split <;> simp

/-- What the phase accumulator holds before it is taken modulo 2^32. -/
def phaseSum (s : State) : Int := s.align.acc + s.align.rate

/-- How far the Tally goes in a tick (R307). -/
def tickStep (s : State) : Word := if phaseSum s < 0 then 0 else if 2 ^ 32 ≤ phaseSum s then 2 else 1

/-- The alignment state after a tick: a carry or borrow is noted with the count it led to. -/
def tickAlign (s : State) : Align :=
  { s.align with
    acc := (phaseSum s % 2 ^ 32).toNat
    ticks := s.align.ticks + 1
    runs := if 0 ≤ phaseSum s ∧ phaseSum s < 2 ^ 32 then s.align.runs
      else ((s.tally + tickStep s).toNat, s.align.ticks + 1) :: s.align.runs }

/-- The count of a tick, after its measures: the times that run with it, the Tally, and TALLY_REF (R307, R309). -/
def countOn (s : State) (x : Int) : State :=
  let c : Int := if x < 0 then -1 else if 2 ^ 32 ≤ x then 1 else 0
  let s : State := { s with power := { s.power with eligible := eligibleSince s, upTicks := s.power.upTicks + 1 } }
  let s' : State := { s with tallyPrev := s.tally, tally := s.tally + BitVec.ofInt 64 (1 + c),
                             align := { s.align with acc := wrap 32 x, ticks := s.align.ticks + 1 } }
  let s' : State := if c = 0 then s' else
    { s' with align := { s'.align with runs := (s'.tally.toNat, s'.align.ticks) :: s'.align.runs } }
  if s.align.refOut && decide (s.tally.toNat / 2 ^ 19 < s'.tally.toNat / 2 ^ 19) then s'.emit .refEdge else s'

/-- A tick of a locked PLL is its measures, then its count. -/
theorem tick_locked {s : State} (h : s.power.pll = true) :
    tick s = countOn { s with launch := tickLaunch s, ctrs := tickCtrs s } (phaseSum s) := by
  rw [← measures_eq]
  exact if_pos h

theorem State.ite_emit {p : Prop} [Decidable p] (s : State) (o : Output) :
    (if p then s.emit o else s) = { s with out := if p then s.out ++ [o] else s.out } := by
  split <;> rfl

theorem countOn_eq (s : State) : countOn s (phaseSum s) = { s with
    tally := s.tally + tickStep s
    tallyPrev := s.tally
    align := tickAlign s
    power := { s.power with upTicks := s.power.upTicks + 1, eligible := eligibleSince s }
    out := if s.align.refOut = true ∧ s.tally.toNat / 524288 < (s.tally + tickStep s).toNat / 524288 then s.out ++ [.refEdge]
      else s.out } := by
  unfold countOn tickAlign tickStep
  generalize phaseSum s = x
  have hborrow : BitVec.ofInt 64 (1 + -1) = 0 := rfl
  have hcarry : BitVec.ofInt 64 (1 + 1) = 2 := rfl
  have hplain : BitVec.ofInt 64 (1 + 0) = 1 := rfl
  simp only [wrap, Bool.and_eq_true, decide_eq_true_eq, Nat.reducePow, Int.reducePow]
  rw [State.ite_emit]
  rcases lt_or_ge x 0 with hneg | hpos
  · have hr : ¬ (0 ≤ x ∧ x < 4294967296) := by omega
    simp only [if_pos hneg, if_neg hr, hborrow]
    rfl
  · rcases lt_or_ge x 4294967296 with hlt | hge
    · simp only [if_neg (not_lt.2 hpos), if_neg (not_le.2 hlt), if_pos (And.intro hpos hlt), hplain, if_true]
    · have hr : ¬ (0 ≤ x ∧ x < 4294967296) := by omega
      simp only [if_neg (not_lt.2 hpos), if_pos hge, if_neg hr, hcarry]
      rfl

theorem eligibleSince_measured (s : State) :
    eligibleSince { s with launch := tickLaunch s, ctrs := tickCtrs s } =
      if mayS3 s then some (s.power.eligible.getD s.tally.toNat) else none := by
  unfold eligibleSince mayS3
  dsimp only
  rw [tickLaunch_isNone]

/-- A tick of a locked PLL, field by field. -/
theorem tick_eq {s : State} (h : s.power.pll = true) : tick s = { s with
    tally := s.tally + tickStep s
    tallyPrev := s.tally
    align := tickAlign s
    launch := tickLaunch s
    ctrs := tickCtrs s
    power := { s.power with upTicks := s.power.upTicks + 1
                            eligible := if mayS3 s then some (s.power.eligible.getD s.tally.toNat) else none }
    out := if s.align.refOut = true ∧ s.tally.toNat / 524288 < (s.tally + tickStep s).toNat / 524288 then s.out ++ [.refEdge]
      else s.out } := by
  rw [tick_locked h, ← eligibleSince_measured]
  exact countOn_eq { s with launch := tickLaunch s, ctrs := tickCtrs s }

theorem throttledNow_of_slow {s : State} {l : Launch} (hl : s.launch = some l) (ha : l.st = .active)
    (h : l.level < s.power.throttle ∨ l.level < s.power.level) : throttledNow s = true := by
  simp [throttledNow, hl, ha, h]

theorem throttledNow_of_level {s : State}
    (h : ∀ l, s.launch = some l → l.st ≠ .active ∨ (s.power.throttle ≤ l.level ∧ s.power.level ≤ l.level)) : throttledNow s = false := by
  unfold throttledNow
  cases hl : s.launch with
  | none => rfl
  | some l =>
    rcases h l hl with hn | ⟨h1, h2⟩
    · simp [hn]
    · simp [h1, h2]

/-! The waits of a tick. -/

theorem waitCtrs_frame (s : State) :
    waitCtrs s = { s.ctrs with e2eFull := (waitCtrs s).e2eFull, journalFull := (waitCtrs s).journalFull } := by
  unfold waitCtrs; split <;> rfl

theorem waitCtrs_idle {s : State} (h : s.counting = false) : waitCtrs s = s.ctrs := if_neg (by simp [h])

theorem waitCtrs_e2eFull {s : State} (h : s.counting = true) :
    (waitCtrs s).e2eFull = sat64 s.ctrs.e2eFull (waitCycles s (e2eWaits s)) := by rw [waitCtrs, if_pos h]

theorem waitCtrs_journalFull {s : State} (h : s.counting = true) :
    (waitCtrs s).journalFull = sat64 s.ctrs.journalFull (waitCycles s (journalWaits s)) := by rw [waitCtrs, if_pos h]

theorem waitCtrs_e2eFull_same {s : State} (h : s.counting = false ∨ e2eWaits s = false) : (waitCtrs s).e2eFull = s.ctrs.e2eFull := by
  cases hc : s.counting with
  | false => rw [waitCtrs_idle hc]
  | true =>
    have he : e2eWaits s = false := by simpa [hc] using h
    rw [waitCtrs_e2eFull hc, he]; exact sat64_zero _

theorem waitCtrs_journalFull_same {s : State} (h : s.counting = false ∨ journalWaits s = false) :
    (waitCtrs s).journalFull = s.ctrs.journalFull := by
  cases hc : s.counting with
  | false => rw [waitCtrs_idle hc]
  | true =>
    have hj : journalWaits s = false := by simpa [hc] using h
    rw [waitCtrs_journalFull hc, hj]; exact sat64_zero _

/-- Settles O2: the tick field by field, then its measures for a throttled launch, any other, and what waits. -/
theorem idleStepIsATallyTick : Obligations.IdleStepIsATallyTick := by
  intro s hq
  have hstep : step s = .next (tick s) := by rw [step, hq]
  refine ⟨fun hp => ?_, fun hp => ⟨_, by rw [hstep, tick_eq hp], ?_⟩⟩
  · rw [hstep, tick, if_neg (by simp [hp])]
  · have hc : (countWaits s).ctrs = waitCtrs s := by rw [countWaits_eq]
    dsimp only
    rw [hc]
    refine ⟨rfl, rfl, rfl, rfl, rfl, rfl, ?throttled, ?other, waitCtrs_frame s, waitCtrs_e2eFull_same, ?e2e,
      waitCtrs_journalFull_same, ?journal⟩
    case throttled =>
      intro l hl ha hslow
      have ht := throttledNow_of_slow hl ha hslow
      exact ⟨by rw [tickLaunch, ht, hl]; rfl, by rw [tickCtrs, ht, if_pos rfl]⟩
    case other =>
      intro h
      have ht := throttledNow_of_level h
      exact ⟨by rw [tickLaunch, ht]; rfl, by rw [tickCtrs, ht]; rfl⟩
    case e2e =>
      intro hcnt hw
      rw [waitCtrs_e2eFull hcnt, hw]; rfl
    case journal =>
      intro hcnt hw
      rw [waitCtrs_journalFull hcnt, hw]; rfl

end Sys2Proof.Machine
end

section
/-! Proofs: the set-up of rings (R238 to R242). -/
namespace Sys2Proof.Machine

open Sys2Proof.Safety

/-- A number placed in a field counts modulo the field's size only. -/
theorem ofNat_field (n x lo len : Nat) [NeZero n] (h : n ∣ 2 ^ len) : Fin.ofNat n (field x lo len) = Fin.ofNat n (x / 2 ^ lo) := by
  apply Fin.ext
  simp only [Fin.ofNat, field_eq]
  exact Nat.mod_mod_of_dvd _ h

/-! Submission rings. -/

/-- A ring with the fields that a write of SQ_CFG carries (Table 10.3). -/
def subFields (q : SubRing) (x : Nat) : SubRing :=
  { q with cq := Fin.ofNat 64 (x / 2 ^ 18), prio := Fin.ofNat 4 (x / 2 ^ 16), polled := x.testBit 13, ty := Fin.ofNat 4 (x / 2 ^ 11),
           log2 := x / 16 % 32 }

/-- A ring that ENABLE starts: HEAD 0, no error. -/
def subStarted (q : SubRing) : SubRing := { q with enable := true, headPos := 0, err := 0, stopped := false, tail := 0 }

/-- TYPE and LOG2_SIZE are not reserved. -/
def subGood (q : SubRing) : Prop := q.ty.1 < 2 ∧ 6 ≤ q.log2 ∧ q.log2 ≤ 16

theorem subFields_eq (q : SubRing) (x : Nat) :
    { q with cq := Fin.ofNat 64 (field x 18 6), prio := Fin.ofNat 4 (field x 16 2), polled := bit x 13,
             ty := Fin.ofNat 4 (field x 11 2), log2 := field x 4 5 } = subFields q x := by
  rw [ofNat_field 64 x 18 6 (dvd_refl _), ofNat_field 4 x 16 2 (dvd_refl _), ofNat_field 4 x 11 2 (dvd_refl _), field_eq x 4 5]
  rfl

/-- SQ_ENABLE_SET of a ring that is not enabled writes SQ_CFG. -/
theorem exec_sqEnableSet {s : State} {n : RingId} {v : Word} {secure : Bool} (h : barOpen s secure = true) (hv : v.toNat % 2 = 1)
    (he : s.subs[n].enable = false) : exec (.sqEnableSet n v secure) s = .next (writeSubCfg (wakeChip s) n v.toNat) := by
  show execSqEnableSet n v secure s = _
  simp only [execSqEnableSet, h, bit_zero, hv, he, decide_true, Bool.not_false, Bool.and_self, if_true]

/-- The test of reserved fields that a write of SQ_CFG makes. -/
theorem subGood_fields (q : SubRing) (x : Nat) :
    subGood (subFields q x) ↔ ¬ (2 ≤ field x 11 2 ∨ field x 4 5 < 6 ∨ 16 < field x 4 5) := by
  simp only [subGood, subFields, field_eq, Fin.ofNat]
  omega

/-- A write of SQ_CFG with a reserved field changes nothing. -/
theorem writeSubCfg_reserved {s : State} {n : RingId} {x : Nat} (h : ¬ subGood (subFields s.subs[n] x)) : writeSubCfg s n x = s := by
  rw [subGood_fields, not_not] at h
  unfold writeSubCfg
  rw [if_pos (by simpa [or_assoc] using h)]

/-- A write of SQ_CFG that sets ENABLE of a stopped ring. -/
theorem writeSubCfg_enable {s : State} {n : RingId} {x : Nat} (hg : subGood (subFields s.subs[n] x)) (hx : x % 2 = 1)
    (he : s.subs[n].enable = false) (ha : s.subs[n].active = false) {c : CompRing} (hc : s.comps[(subFields s.subs[n] x).cq] = c) :
    writeSubCfg s n x =
      if c.telemetry = true ∨ c.active = false then
        { s with subs := vset s.subs n { subFields s.subs[n] x with err := 4 } }
      else activateSub { s with subs := vset s.subs n (subStarted (subFields s.subs[n] x)) } n := by
  rw [subGood_fields] at hg
  unfold writeSubCfg
  rw [if_neg (by simpa [or_assoc] using hg)]
  have hna : ¬ s.subs[n].active = true := by rw [ha]; decide
  have hset : (bit x 0 && !(subFields s.subs[n] x).enable) = true := by
    rw [show (subFields s.subs[n] x).enable = false from he, bit_zero, hx]; rfl
  simp only [if_neg hna, subFields_eq, hset, if_true, Bool.or_eq_true, Bool.not_eq_true', hc]
  rfl

/-- A started ring that the device does not serve yet stays as it is (R239). -/
theorem activateSub_unserved {s : State} {n : RingId} (h : ringServed s n = false) : activateSub s n = s := by
  simp only [activateSub, h, Bool.not_false, Bool.or_true, if_true]

/-- A started ring that is served polls its doorbell line, or reads it (R242, R244). -/
theorem activateSub_served {s : State} {n : RingId} {q : SubRing} (hq : s.subs[n] = q) (he : q.enable = true)
    (ha : q.active = false) (hr : q.lineReading = false) (hst : q.stopped = false) (h : ringServed s n = true) :
    activateSub s n =
      if polls s q.polled then { s with subs := vset s.subs n { q with active := true } }
      else ({ s with subs := vset s.subs n { q with lineReading := true } }).emit (.lineRead q.db) := by
  simp only [activateSub, hq, he, ha, hr, hst, h, Bool.not_true, Bool.or_self, Bool.false_eq_true, if_false]

theorem exec_sqEnableClear {s : State} {n : RingId} {secure : Bool} (h : barOpen s secure = true) (he : s.subs[n].enable = true) :
    exec (.sqEnableClear n secure) s = .next (disableSub (wakeChip s) n s.subs[n]) := by
  show execSqEnableClear n secure s = _
  simp only [execSqEnableClear, h, he, Bool.and_self, if_true]

/-- With BAR0 shut no ring's ENABLE moves (R452). -/
theorem enables_shut {s : State} {n : RingId} {secure : Bool} (h : barOpen s secure = false) (v : Word) (line : Option (BitVec 32)) :
    exec (.sqEnableSet n v secure) s = .next s ∧ exec (.sqEnableClear n secure) s = .next s ∧
      exec (.cqEnableSet n v line secure) s = .next s ∧ exec (.cqEnableClear n secure) s = .next s := by
  show execSqEnableSet n v secure s = _ ∧ execSqEnableClear n secure s = _ ∧ execCqEnableSet n v line secure s = _ ∧
    execCqEnableClear n secure s = _
  simp only [execSqEnableSet, execSqEnableClear, execCqEnableSet, execCqEnableClear, h, Bool.false_and, Bool.false_eq_true, if_false,
    and_self]

/-! Completion rings. -/

/-- A ring with the fields that a write of CQ_CFG carries (Table 10.4). TELEMETRY is on at most one ring. -/
def compFields (s : State) (n : RingId) (x : Nat) : CompRing :=
  { s.comps[n] with
    holdoff := x / 2 ^ 32 % 65536, vector := Fin.ofNat 64 (x / 2 ^ 16), irqAll := x.testBit 15,
    telemetry := x.testBit 14 && !(List.finRange 64).any fun m => decide (m ≠ n) && s.comps[m].telemetry,
    polled := x.testBit 13, log2 := x / 16 % 32 }

/-- A ring that ENABLE starts: TAIL 0, no error, nothing waiting. -/
def compStarted (q : CompRing) : CompRing :=
  { q with enable := true, tailPos := 0, dropped := 0, err := 0, stopped := false, full := false, headSeen := 0, waiting := [] }

theorem compFields_eq (s : State) (n : RingId) (x : Nat) :
    { s.comps[n] with holdoff := field x 32 16, vector := Fin.ofNat 64 (field x 16 6), irqAll := bit x 15,
                      telemetry := bit x 14 && !(List.finRange 64).any fun m => decide (m ≠ n) && s.comps[m].telemetry,
                      polled := bit x 13, log2 := field x 4 5 } = compFields s n x := by
  rw [ofNat_field 64 x 16 6 (dvd_refl _), field_eq x 4 5, field_eq x 32 16]
  rfl

theorem exec_cqEnableSet {s : State} {n : RingId} {v : Word} {secure : Bool} (line : Option (BitVec 32))
    (h : barOpen s secure = true) (hv : v.toNat % 2 = 1) (he : s.comps[n].enable = false) :
    exec (.cqEnableSet n v line secure) s = .next (writeCompCfg (wakeChip s) n v.toNat (some line)) := by
  show execCqEnableSet n v line secure s = _
  simp only [execCqEnableSet, h, bit_zero, hv, he, decide_true, Bool.not_false, Bool.and_self, if_true]

theorem exec_cqEnableClear {s : State} {n : RingId} {secure : Bool} (h : barOpen s secure = true) (he : s.comps[n].enable = true) :
    exec (.cqEnableClear n secure) s = .next (pumpRings (disableComp (wakeChip s) n s.comps[n])) := by
  show execCqEnableClear n secure s = _
  simp only [execCqEnableClear, h, he, Bool.and_self, if_true]

/-- A write of CQ_CFG that sets ENABLE of a stopped ring. -/
theorem writeCompCfg_enable {s : State} {n : RingId} {x : Nat} (line : Option (Option (BitVec 32))) (h1 : 6 ≤ x / 16 % 32)
    (h2 : x / 16 % 32 ≤ 16) (hx : x % 2 = 1) (he : s.comps[n].enable = false) (ha : s.comps[n].active = false) :
    writeCompCfg s n x line = activateComp { s with comps := vset s.comps n (compStarted (compFields s n x)) } n line := by
  have hl : field x 4 5 = x / 16 % 32 := field_eq x 4 5
  have hna : ¬ s.comps[n].active = true := by rw [ha]; decide
  have hset : (bit x 0 && !(compFields s n x).enable) = true := by
    rw [show (compFields s n x).enable = false from he, bit_zero, hx]; rfl
  unfold writeCompCfg
  rw [if_neg (by simp [hl]; omega)]
  simp only [if_neg hna, compFields_eq, hset, if_true]
  rfl

theorem activateComp_unserved {s : State} {n : RingId} (line : Option (Option (BitVec 32))) (h : ringServed s n = false) :
    activateComp s n line = s := by
  simp only [activateComp, h, Bool.not_false, Bool.or_true, if_true]

/-- A started ring that is served polls its head line, or reads it and takes the answer (R242, R244). -/
theorem activateComp_served {s : State} {n : RingId} {q : CompRing} (line : Option (BitVec 32)) (hq : s.comps[n] = q)
    (he : q.enable = true) (ha : q.active = false) (hst : q.stopped = false) (hr : q.lineReading = false)
    (h : ringServed s n = true) :
    activateComp s n (some line) =
      if polls s q.polled then { s with comps := vset s.comps n { q with active := true, headSeen := 0 } }
      else acquireHead (({ s with comps := vset s.comps n { q with lineReading := true } }).emit (.lineRead q.hl)) n line := by
  simp only [activateComp, hq, he, ha, hr, hst, h, Bool.not_true, Bool.or_self, Bool.false_eq_true, if_false]

/-! A ring that stops as its head line cannot be read (R243). -/

theorem stopComp_subs (s : State) (n : RingId) (err : Nat) : (stopComp s n err).subs = s.subs :=
  eventRecord_subs _ _ _ _

theorem stopComp_comps_ne (s : State) {n m : RingId} (err : Nat) (hm : m ≠ n) (h0 : m ≠ 0) :
    (stopComp s n err).comps[m] = s.comps[m] :=
  (eventRecord_comps_ne _ h0 _ _ _).trans (vset_ne _ _ hm)

/-- The stopped ring; the event's record finds it inactive if it is ring 0, and counts as dropped. -/
theorem stopComp_comps_same (s : State) (n : RingId) (err : Nat) :
    ∃ d, (stopComp s n err).comps[n] = { s.comps[n] with
      stopped := true, err := err, active := false, lineHeld := false, lineReading := false, waiting := [], full := false, dropped := d } := by
  by_cases h0 : n = 0
  · subst h0
    exact ⟨min (min (s.comps[(0 : RingId)].dropped + s.comps[(0 : RingId)].waiting.length) 0xFFFF + 1) 0xFFFF,
      (eventRecord_comps_inactive (congrArg CompRing.active (vset_same _ _ _)) _ _ _).trans
        (congrArg (fun q : CompRing => { q with dropped := min (q.dropped + 1) 0xFFFF }) (vset_same _ _ _))⟩
  · exact ⟨_, (eventRecord_comps_ne _ h0 _ _ _).trans (vset_same _ _ _)⟩

/-- What becomes of a ring that ENABLE starts, with the answer of its head line's read: the ring is not served yet, is polled, has
its line, or stops. -/
theorem activateComp_cases {s : State} {n : RingId} {q : CompRing} (line : Option (BitVec 32)) (hq : s.comps[n] = q)
    (he : q.enable = true) (ha : q.active = false) (hst : q.stopped = false) (hr : q.lineReading = false) :
    (ringServed s n = false ∧ activateComp s n (some line) = s) ∨
    (ringServed s n = true ∧ polls s q.polled = true ∧
      activateComp s n (some line) = { s with comps := vset s.comps n { q with active := true, headSeen := 0 } }) ∨
    (ringServed s n = true ∧ polls s q.polled = false ∧ ∃ h, line = some h ∧ activateComp s n (some line) =
      { s with comps := vset s.comps n { q with active := true, headSeen := h.toNat, lineHeld := true, lineReading := false },
               out := s.out ++ [.lineRead q.hl] }) ∨
    (ringServed s n = true ∧ polls s q.polled = false ∧ line = none ∧ activateComp s n (some line) =
      stopComp (({ s with comps := vset s.comps n { q with lineReading := true } }).emit (.lineRead q.hl)) n 2) := by
  cases hs : ringServed s n with
  | false => exact .inl ⟨rfl, activateComp_unserved _ hs⟩
  | true =>
    have hserved := activateComp_served line hq he ha hst hr hs
    cases hp : polls s q.polled with
    | true =>
      rw [hp, if_pos rfl] at hserved
      exact .inr (.inl ⟨rfl, rfl, hserved⟩)
    | false =>
      rw [hp, if_neg (by decide)] at hserved
      cases line with
      | some h =>
        refine .inr (.inr (.inl ⟨rfl, rfl, h, rfl, hserved.trans ?_⟩))
        simp [acquireHead, State.emit, vmod, vset]
      | none => exact .inr (.inr (.inr ⟨rfl, rfl, rfl, hserved⟩))

/-! The enables from a host's write on: what the ring's set-up starts from is the woken chip. -/

/-- The woken chip with a submission ring as it is set up. -/
def subSetUp (s : State) (n : RingId) (q : SubRing) : State := { wakeChip s with subs := vset s.subs n q }

/-- The woken chip with a completion ring as it is set up. -/
def compSetUp (s : State) (n : RingId) (q : CompRing) : State := { wakeChip s with comps := vset s.comps n q }

@[simp] theorem subSetUp_ringServed (s : State) (n m : RingId) (q : SubRing) : ringServed (subSetUp s n q) m = ringServed s m :=
  wakeChip_ringServed s m
@[simp] theorem subSetUp_polls (s : State) (n : RingId) (q : SubRing) (b : Bool) : polls (subSetUp s n q) b = polls s b :=
  wakeChip_polls s b
@[simp] theorem compSetUp_ringServed (s : State) (n m : RingId) (q : CompRing) : ringServed (compSetUp s n q) m = ringServed s m :=
  wakeChip_ringServed s m
@[simp] theorem compSetUp_polls (s : State) (n : RingId) (q : CompRing) (b : Bool) : polls (compSetUp s n q) b = polls s b :=
  wakeChip_polls s b

theorem subSetUp_again (s : State) (n : RingId) (q r : SubRing) :
    { subSetUp s n q with subs := vset (subSetUp s n q).subs n r } = subSetUp s n r := by
  rw [subSetUp, vset_vset]; rfl

/-- What becomes of a started ring that is served (R242, R244). -/
theorem activateSub_setUp {s : State} {n : RingId} {q : SubRing} (he : q.enable = true) (ha : q.active = false)
    (hr : q.lineReading = false) (hst : q.stopped = false) (h : ringServed s n = true) :
    activateSub (subSetUp s n q) n = if polls s q.polled then subSetUp s n { q with active := true }
      else (subSetUp s n { q with lineReading := true }).emit (.lineRead q.db) := by
  rw [activateSub_served (vset_same _ _ _) he ha hr hst (by rwa [subSetUp_ringServed]), subSetUp_polls, subSetUp_again, subSetUp_again]

theorem exec_sqEnableSet_reserved {s : State} {n : RingId} {v : Word} {secure : Bool} (h : barOpen s secure = true)
    (hv : v.toNat % 2 = 1) (he : s.subs[n].enable = false) (hg : ¬ subGood (subFields s.subs[n] v.toNat)) :
    exec (.sqEnableSet n v secure) s = .next (wakeChip s) := by
  rw [exec_sqEnableSet h hv he, writeSubCfg_reserved (by rwa [wakeChip_subs])]

theorem exec_sqEnableSet_good {s : State} {n : RingId} {v : Word} {secure : Bool} (h : barOpen s secure = true)
    (hv : v.toNat % 2 = 1) (he : s.subs[n].enable = false) (ha : s.subs[n].active = false)
    (hg : subGood (subFields s.subs[n] v.toNat)) :
    exec (.sqEnableSet n v secure) s = .next
      (if (s.comps[(subFields s.subs[n] v.toNat).cq]).telemetry = true ∨ (s.comps[(subFields s.subs[n] v.toNat).cq]).active = false then
        subSetUp s n { subFields s.subs[n] v.toNat with err := 4 }
      else activateSub (subSetUp s n (subStarted (subFields s.subs[n] v.toNat))) n) := by
  have hw := writeSubCfg_enable (s := wakeChip s) (n := n) (x := v.toNat)
  rw [wakeChip_subs] at hw
  rw [exec_sqEnableSet h hv he, hw hg hv he ha (c := s.comps[(subFields s.subs[n] v.toNat).cq]) (by rw [wakeChip_comps])]
  rfl

/-- A ring whose completion ring takes its records starts (R242). -/
theorem exec_sqEnableSet_starts {s : State} {n : RingId} {v : Word} {secure : Bool} (h : barOpen s secure = true)
    (hv : v.toNat % 2 = 1) (he : s.subs[n].enable = false) (ha : s.subs[n].active = false)
    (hg : subGood (subFields s.subs[n] v.toNat)) (ht : (s.comps[(subFields s.subs[n] v.toNat).cq]).telemetry = false)
    (hc : (s.comps[(subFields s.subs[n] v.toNat).cq]).active = true) :
    exec (.sqEnableSet n v secure) s =
      .next (activateSub (subSetUp s n (subStarted (subFields s.subs[n] v.toNat))) n) := by
  rw [exec_sqEnableSet_good h hv he ha hg, if_neg (by rw [ht, hc]; decide)]

theorem exec_cqEnableSet_starts {s : State} {n : RingId} {v : Word} {secure : Bool} (line : Option (BitVec 32))
    (h : barOpen s secure = true) (hv : v.toNat % 2 = 1) (he : s.comps[n].enable = false) (ha : s.comps[n].active = false)
    (h1 : 6 ≤ v.toNat / 16 % 32) (h2 : v.toNat / 16 % 32 ≤ 16) :
    exec (.cqEnableSet n v line secure) s = .next
      (activateComp (compSetUp s n (compStarted (compFields s n v.toNat))) n (some line)) := by
  have hw := writeCompCfg_enable (s := wakeChip s) (n := n) (x := v.toNat) (some line) h1 h2 hv
  have hf : compFields (wakeChip s) n v.toNat = compFields s n v.toNat := by unfold compFields; rw [wakeChip_comps]
  rw [hf] at hw
  rw [wakeChip_comps] at hw
  rw [exec_cqEnableSet line h hv he, hw he ha]
  rfl

/-- TELEMETRY as a write of CQ_CFG leaves it. -/
theorem compFields_telemetry (s : State) (n : RingId) (x : Nat) : (compFields s n x).telemetry = true ↔
    x.testBit 14 = true ∧ ∀ m : RingId, m ≠ n → (s.comps[m]).telemetry = false := by
  simp only [compFields, Bool.and_eq_true, Bool.not_eq_true', List.any_eq_false, List.mem_finRange, true_implies, decide_eq_true_eq,
    not_and, Bool.not_eq_true]

/-- A ring that stands as it was set up, but for how far its start has come. -/
def asSetUp (q r : CompRing) : Prop :=
  r = { q with active := r.active, headSeen := r.headSeen, lineHeld := r.lineHeld, lineReading := r.lineReading,
               stopped := r.stopped, err := r.err, dropped := r.dropped }

theorem asSetUp.fixed {q r : CompRing} (h : asSetUp q r) :
    (r.enable = q.enable ∧ r.base = q.base ∧ r.hl = q.hl ∧ r.vector = q.vector ∧ r.holdoff = q.holdoff ∧ r.irqAll = q.irqAll) ∧
      r.polled = q.polled ∧ r.log2 = q.log2 ∧ r.telemetry = q.telemetry ∧ r.tailPos = q.tailPos ∧ r.waiting = q.waiting := by
  unfold asSetUp at h; rw [h]
  exact ⟨⟨rfl, rfl, rfl, rfl, rfl, rfl⟩, rfl, rfl, rfl, rfl, rfl⟩

/-- What a started completion ring comes to: nothing but the ring and, for the event of a ring that stops, ring 0 has moved. -/
theorem activateComp_setUp (s : State) (n : RingId) {q : CompRing} (line : Option (BitVec 32)) (he : q.enable = true)
    (ha : q.active = false) (hst : q.stopped = false) (hr : q.lineReading = false) (hh : q.headSeen = 0) (hw : q.waiting = [])
    (hfull : q.full = false) :
    let t := activateComp (compSetUp s n q) n (some line)
    (∀ m, m ≠ n → m ≠ 0 → t.comps[m] = s.comps[m]) ∧ t.subs = s.subs ∧ asSetUp q t.comps[n] ∧
      (∀ h, line = some h → (t.comps[n]).headSeen = if (t.comps[n]).active && !polls s q.polled then h.toNat else 0) ∧
      (line = none → (t.comps[n]).headSeen = 0) ∧
      ((t.comps[n]).active = true ↔ ringServed s n = true ∧ (polls s q.polled = true ∨ line.isSome = true)) ∧
      (line.isSome = true ∨ polls s q.polled = true ∨ ringServed s n = false →
        (t.comps[n]).err = q.err ∧ (t.comps[n]).dropped = q.dropped) := by
  intro t
  have hq := activateComp_cases line (s := compSetUp s n q) (vset_same _ _ _) he ha hst hr
  rw [compSetUp_ringServed, compSetUp_polls] at hq
  rcases hq with ⟨hs, ht⟩ | ⟨hs, hp, ht⟩ | ⟨hs, hp, l, rfl, ht⟩ | ⟨hs, hp, rfl, ht⟩
  case inl =>
    have hn : t.comps[n] = q := by rw [show t = _ from ht]; exact vset_same _ _ _
    rw [hn]
    refine ⟨fun m hm _ => ?_, ?_, rfl, fun h _ => ?_, fun _ => hh, ?_, fun _ => ⟨rfl, rfl⟩⟩
    · rw [show t = _ from ht]; exact vset_ne _ _ hm
    · rw [show t = _ from ht]; exact wakeChip_subs s
    · rw [ha]; exact hh
    · simp [ha, hs]
  case inr.inl =>
    have hcomps : t.comps = vset s.comps n { q with active := true, headSeen := 0 } := by
      rw [show t = _ from ht]; exact vset_vset _ _ _ _
    have hn : t.comps[n] = { q with active := true, headSeen := 0 } := by rw [hcomps]; exact vset_same _ _ _
    rw [hn]
    refine ⟨fun m hm _ => ?_, ?_, rfl, fun h _ => ?_, fun _ => rfl, ?_, fun _ => ⟨rfl, rfl⟩⟩
    · rw [hcomps]; exact vset_ne _ _ hm
    · rw [show t = _ from ht]; exact wakeChip_subs s
    · rw [hp]; rfl
    · simp [hs, hp]
  case inr.inr.inl =>
    have hcomps : t.comps = vset s.comps n { q with active := true, headSeen := l.toNat, lineHeld := true, lineReading := false } := by
      rw [show t = _ from ht]; exact vset_vset _ _ _ _
    have hn : t.comps[n] = { q with active := true, headSeen := l.toNat, lineHeld := true, lineReading := false } := by
      rw [hcomps]; exact vset_same _ _ _
    rw [hn]
    refine ⟨fun m hm _ => ?_, ?_, rfl, fun h hl => ?_, nofun, ?_, fun _ => ⟨rfl, rfl⟩⟩
    · rw [hcomps]; exact vset_ne _ _ hm
    · rw [show t = _ from ht]; exact wakeChip_subs s
    · rw [hp, Option.some.inj hl]; rfl
    · simp [hs]
  case inr.inr.inr =>
    have hstop := stopComp_comps_same
      (({ compSetUp s n q with comps := vset (compSetUp s n q).comps n { q with lineReading := true } }).emit (.lineRead q.hl)) n 2
    obtain ⟨d, hd⟩ := hstop
    have hn : t.comps[n] = { q with stopped := true, err := 2, active := false, lineHeld := false, lineReading := false,
                                    waiting := [], full := false, dropped := d } := by
      rw [show t = _ from ht, hd, show (State.emit _ _).comps[n] = _ from vset_same _ _ _]
    rw [hn]
    refine ⟨fun m hm h0 => ?_, ?_, ?_, nofun, fun _ => hh, ?_, fun h => ?_⟩
    · rw [show t = _ from ht, stopComp_comps_ne _ _ hm h0]
      exact (vset_ne _ _ hm).trans (vset_ne _ _ hm)
    · rw [show t = _ from ht, stopComp_subs]; exact wakeChip_subs s
    · rw [asSetUp, hw, hfull]
    · simp [hp]
    · simp [hp, hs] at h

/-- Settles O43: the enables of submission rings, then those of completion rings, by what the ring's start comes to. -/
theorem ringSetUp : Obligations.RingSetUp := by
  intro s n v secure
  dsimp only
  refine ⟨fun h line => enables_shut h v line, ?sqSet, fun h he => ?sqClear, ?cqSet, ?cqClear⟩
  case sqSet =>
    intro h hx he ha
    refine ⟨fun hg => exec_sqEnableSet_reserved h hx he hg, fun hg hc => ?_, fun hg ht hc hr => ?_⟩
    · exact (exec_sqEnableSet_good h hx he ha hg).trans (congrArg _ (if_pos hc))
    · have hstart := exec_sqEnableSet_starts h hx he ha hg ht hc
      have hring := activateSub_setUp (s := s) (n := n) (q := subStarted (subFields s.subs[n] v.toNat)) rfl ha hr rfl
      refine ⟨fun hs => ?_, fun hs hp => ?_, fun hs hp => ?_⟩
      · rw [hstart, activateSub_unserved (by rwa [subSetUp_ringServed])]; rfl
      · rw [hstart, hring hs]; exact congrArg _ (if_pos hp)
      · rw [hstart, hring hs]; exact congrArg _ (if_neg (Bool.eq_false_iff.1 hp))
  case sqClear =>
    rw [exec_sqEnableClear h he, disableSub, wakeChip_subs]
  case cqSet =>
    intro line h hx he ha hr h1 h2
    refine ⟨_, exec_cqEnableSet_starts line h hx he ha h1 h2, ?_⟩
    obtain ⟨hother, hsubs, hring, hsome, hnone, hact, hclean⟩ :=
      activateComp_setUp s n (q := compStarted (compFields s n v.toNat)) line rfl ha rfl hr rfl rfl rfl
    revert hring hsome hnone hact hclean
    generalize (activateComp (compSetUp s n _) n (some line)).comps[n] = r
    intro hring hsome hnone hact hclean
    obtain ⟨⟨henable, hbase, hhl, hvector, hholdoff, hirq⟩, hpolled, hlog2, htel, htail, hwaiting⟩ := hring.fixed
    refine ⟨hother, hsubs, henable, hbase, hhl, hvector, hholdoff, hirq, hpolled, hlog2, ?_, ?_, ?_, fun h => ?_⟩
    · cases line with
      | some l => rw [hpolled]; exact hsome l rfl
      | none => exact hnone rfl
    · rw [htel]; exact compFields_telemetry s n _
    · rw [hpolled]; exact hact
    · obtain ⟨herr, hdrop⟩ := hclean h
      exact ⟨htail, herr, hdrop, hwaiting⟩
  case cqClear =>
    intro h he
    refine ⟨_, exec_cqEnableClear h he, rfl, ?_⟩
    simp only [disableComp, wakeChip_comps]
    rw [vset_same]
    exact ⟨rfl, rfl, rfl, rfl, fun m hm => vset_ne _ _ hm, wakeChip_subs s, wakeChip_out s⟩

end Sys2Proof.Machine
end

section
/-! Proofs: what register writes change (R473, R482 to R487). -/
namespace Sys2Proof.Machine

open Sys2Proof.Safety

/-- A misaligned access, or one of another size, has no other effect than the wake (R473). -/
theorem hostWrite_malformed {s : State} {secure : Bool} (h : barOpen s secure = true) {off size : Nat} (v : Word)
    (h8 : size ≠ 8 ∨ off % 8 ≠ 0) (h4 : size ≠ 4 ∨ off % 4 ≠ 0) : hostWrite s off size v secure = wakeChip s := by
  have hn : regWriteOf s 0 off size v.toNat = none := by
    rw [regWriteOf, if_neg (by simp; omega), if_neg (by simp; omega)]
  simp [hostWrite, h, hn]

/-! The small registers, each as one change of its field. -/

theorem writeScrub_eq (s : State) (x : Nat) : writeScrub s x =
    { s with hbm := if 1 ≤ x % 256 ∧ x % 256 ≤ 168 then { s.hbm with scrubHours := x % 256 } else s.hbm } := by
  have hf : field x 0 8 = x % 256 := by simp [field_eq]
  simp only [writeScrub, hf, Bool.and_eq_true, decide_eq_true_eq]
  split <;> rfl

theorem writeTel_eq (s : State) (x : Nat) : writeTel s x =
    { s with obs := if x % 2 ^ 32 = 0 ∨ (52500 ≤ x % 2 ^ 32 ∧ x % 2 ^ 32 ≤ 525000000) then
      { s.obs with telPeriod := x % 2 ^ 32, telLast := s.tally.toNat } else s.obs } := by
  have hf : field x 0 32 = x % 2 ^ 32 := by simp [field_eq]
  simp only [writeTel, hf, Bool.and_eq_true, Bool.or_eq_true, decide_eq_true_eq]
  split <;> rfl

theorem writePoll_eq (s : State) (x : Nat) : writePoll s x =
    { s with hifPoll := if 525 ≤ x % 2 ^ 20 ∧ x % 2 ^ 20 ≤ 525000 then x % 2 ^ 20 else s.hifPoll } := by
  have hf : field x 0 20 = x % 2 ^ 20 := by simp [field_eq]
  simp only [writePoll, hf, Bool.and_eq_true, decide_eq_true_eq]
  split <;> rfl

theorem writePolicy_eq (s : State) (x : Nat) : writePolicy s x =
    { s with sec := if s.life.locks.getLsbD 0 then s.sec else { s.sec with policy := BitVec.ofNat 3 x } } := by
  unfold writePolicy; split <;> rfl

theorem writeCtrSel_eq (s : State) (x : Nat) : writeCtrSel s x =
    { s with obs := { s.obs with shadow := x.testBit 25, core := x / 2 ^ 16 % 256, ctrId := x % 65536 } } := by
  have hc : field x 16 8 = x / 2 ^ 16 % 256 := field_eq x 16 8
  have hi : field x 0 16 = x % 65536 := by simp [field_eq]
  rw [writeCtrSel, hc, hi]; rfl

/-! Locks (R427 to R429). -/

/-- A lock that is newly set switches its port off. -/
theorem newlyLocked (on set locked : Bool) : (if set && !locked then false else on) = (on && (locked || !set)) := by
  cases set <;> cases locked <;> cases on <;> rfl

/-- Setting locks: the bits, the debug port that LOCK_DBG closes, and the trace that LOCK_TRACE stops. -/
theorem setLocks_eq (s : State) (x : Nat) : ∃ tr : Trace,
    tr.enabled = (if x.testBit 5 && !s.life.locks.getLsbD 5 then false else s.trace.enabled) ∧ setLocks s x = { s with
      life := { s.life with locks := s.life.locks ||| BitVec.ofNat 6 x }
      sec := { s.sec with debugOpen := if x.testBit 1 && !s.life.locks.getLsbD 1 then false else s.sec.debugOpen }
      trace := tr } := by
  have hnew (i : Nat) (hi : i < 6) : (BitVec.ofNat 6 x &&& ~~~s.life.locks).getLsbD i = (x.testBit i && !s.life.locks.getLsbD i) := by
    rw [BitVec.getLsbD_and, BitVec.getLsbD_not, BitVec.getLsbD_ofNat, decide_eq_true hi, Bool.true_and, Bool.true_and]
  unfold setLocks
  dsimp only
  rw [hnew 1 (by decide), hnew 5 (by decide)]
  generalize (x.testBit 1 && !s.life.locks.getLsbD 1) = debug
  cases hb : (x.testBit 5 && !s.life.locks.getLsbD 5) with
  | false => exact ⟨s.trace, rfl, by cases debug <;> rfl⟩
  | true =>
    cases he : s.trace.enabled with
    | false => exact ⟨s.trace, he, by cases debug <;> exact if_neg (Bool.eq_false_iff.1 he)⟩
    | true => exact ⟨(traceStop s).trace, rfl, by cases debug <;> exact if_pos he⟩

/-! FAB_ID (R275, R482, R483). -/

/-- A write of FAB_ID that its rules turn away, or that changes nothing. -/
theorem writeFabId_same {s : State} {x : Nat} (h : s.life.locks.getLsbD 3 = true ∨ launchOpen s = true ∨
    (fabIdOf x).dx ≤ (fabIdOf x).x ∨ (fabIdOf x).dy ≤ (fabIdOf x).y ∨ (fabIdOf x).dz ≤ (fabIdOf x).z ∨ fabIdOf x = s.fabric.fabId) :
    writeFabId s x = s := by
  simp only [writeFabId, Bool.or_eq_true, decide_eq_true_eq, or_assoc]
  split
  · rfl
  · rw [if_pos (by tauto)]

theorem writeFabId_change {s : State} {x : Nat} (h3 : s.life.locks.getLsbD 3 = false) (hl : launchOpen s = false)
    (hx : (fabIdOf x).x < (fabIdOf x).dx) (hy : (fabIdOf x).y < (fabIdOf x).dy) (hz : (fabIdOf x).z < (fabIdOf x).dz)
    (hn : fabIdOf x ≠ s.fabric.fabId) : writeFabId s x =
      if s.fabric.fabId.written then dropLinks { s with fabric := { s.fabric with fabId := fabIdOf x } }
      else { s with fabric := { s.fabric with fabId := fabIdOf x } } := by
  have hgo : ¬ ((((s.life.locks.getLsbD 3 || launchOpen s || decide ((fabIdOf x).dx ≤ (fabIdOf x).x)) ||
      decide ((fabIdOf x).dy ≤ (fabIdOf x).y)) || decide ((fabIdOf x).dz ≤ (fabIdOf x).z)) = true) := by
    rw [h3, hl]; simp [hx, hy, hz]
  unfold writeFabId
  simp only [if_neg hgo, if_neg hn]

/-- The link's own part of a drop is all that a drop moves, with the counters and the parent of the Tally's tree. -/
theorem refreshParent_eq (s : State) : ∃ a, refreshParent s = { s with align := a } := by
  unfold refreshParent
  extract_lets keep
  split
  · exact ⟨s.align, rfl⟩
  · split
    · exact ⟨s.align, rfl⟩
    · extract_lets code
      split
      · exact ⟨_, rfl⟩
      · exact ⟨s.align, rfl⟩

/-- A link out of service, in the given state: what it had to send and its resend buffer are discarded (R275). -/
def droppedLink (x : LinkSt) (k : Link) : Link :=
  { k with st := x, changes := min (k.changes + 1) 0xFFFF, txq := [], resend := [], replays := 0, credit := credits0, freed := credits0,
           txSeq := 0, rxSeq := 0, tallyT1 := none, exchAt := none }

/-- What a drop of a link moves: the link, the counter of changes, and the parent of the Tally's tree. -/
theorem dropLink_eq (s : State) (l : LinkId) (x : LinkSt) :
    ∃ a r, dropLink s l x = { modLink s l (droppedLink x) with align := a, run := r } := by
  obtain ⟨a, h⟩ := refreshParent_eq (modLink (setLinkSt s l x) l fun k => { k with
    txq := [], resend := [], replays := 0, credit := credits0, freed := credits0, txSeq := 0, rxSeq := 0, tallyT1 := none, exchAt := none })
  refine ⟨a, (setLinkSt s l x).run, h.trans ?_⟩
  simp only [setLinkSt, modLink, vmod, State.countRun, vset_vset, vset_same]
  rfl

/-- Dropping one link of a list that is walked through: every link already DOWN stays so. -/
def dropOne (s : State) (l : LinkId) : State := if s.fabric.links[l].st = .down then s else dropLink s l .down

theorem dropOne_eq (s : State) (l : LinkId) : ∃ ks a r,
    dropOne s l = { s with fabric := { s.fabric with links := ks }, align := a, run := r } := by
  unfold dropOne
  split
  · exact ⟨s.fabric.links, s.align, s.run, rfl⟩
  · obtain ⟨a, r, h⟩ := dropLink_eq s l .down
    exact ⟨_, a, r, h⟩

theorem dropOne_down {s : State} {l m : LinkId} (h : m = l ∨ s.fabric.links[m].st = .down) : (dropOne s l).fabric.links[m].st = .down := by
  unfold dropOne
  split
  · next hl =>
    rcases h with rfl | h
    · exact hl
    · exact h
  · obtain ⟨a, r, hd⟩ := dropLink_eq s l .down
    rw [hd]
    show ((vset s.fabric.links l _)[m]).st = .down
    by_cases hm : m = l
    · subst hm; rw [vset_same]; rfl
    · rw [vset_ne _ _ hm]; exact h.resolve_left hm

theorem dropOne_foldl_eq (ls : List LinkId) (s : State) : ∃ ks a r,
    ls.foldl dropOne s = { s with fabric := { s.fabric with links := ks }, align := a, run := r } := by
  induction ls generalizing s with
  | nil => exact ⟨s.fabric.links, s.align, s.run, rfl⟩
  | cons x ls ih =>
    obtain ⟨ks, a, r, h⟩ := ih (dropOne s x)
    obtain ⟨ks', a', r', h'⟩ := dropOne_eq s x
    exact ⟨ks, a, r, by rw [List.foldl_cons, h, h']⟩

theorem dropOne_foldl_down (ls : List LinkId) {s : State} {m : LinkId} (h : m ∈ ls ∨ s.fabric.links[m].st = .down) :
    (ls.foldl dropOne s).fabric.links[m].st = .down := by
  induction ls generalizing s with
  | nil => simpa using h
  | cons x ls ih =>
    rw [List.foldl_cons]
    rcases h with h | h
    · rcases List.mem_cons.1 h with rfl | h
      · exact ih (.inr (dropOne_down (.inl rfl)))
      · exact ih (.inl h)
    · exact ih (.inr (dropOne_down (.inr h)))

theorem dropLinks_fold (s : State) : dropLinks s = (List.finRange 20).foldl dropOne s := rfl

theorem dropLinks_eq (s : State) : ∃ ks a r, dropLinks s = { s with fabric := { s.fabric with links := ks }, align := a, run := r } := by
  rw [dropLinks_fold]; exact dropOne_foldl_eq _ s

/-- Every link is DOWN afterwards (R483). -/
theorem dropLinks_down (s : State) (l : LinkId) : (dropLinks s).fabric.links[l].st = .down := by
  rw [dropLinks_fold]; exact dropOne_foldl_down _ (.inl (List.mem_finRange l))

/-! HDM_MAP (R13, R269). -/

/-- HDM_MAP with its low half written (Table 10.6): SIZE and the high bits of BASE stand. -/
theorem hdmMap_setLow {s : State} (hb : s.hdmBase < 1024) (hs : s.hdmSize ≤ 256) (x : Nat) :
    let m := setField (hdmMap s) 0 32 (x % 2 ^ 32)
    field m 40 9 = s.hdmSize ∧ field m 28 10 = s.hdmBase / 16 * 16 + x / 2 ^ 28 % 16 ∧ bit m 0 = x.testBit 0 := by
  have hon : s.hdmOn.toNat ≤ 1 := Bool.toNat_le s.hdmOn
  have hm : setField (hdmMap s) 0 32 (x % 2 ^ 32) =
      (s.hdmSize * 2 ^ 40 + s.hdmBase * 2 ^ 28 + s.hdmOn.toNat) / 2 ^ 32 * 2 ^ 32 + x % 2 ^ 32 := by
    simp only [setField, hdmMap, Nat.shiftLeft_eq, Nat.shiftRight_eq_div_pow]
    omega
  intro m
  rw [show m = _ from hm]
  refine ⟨?_, ?_, ?_⟩
  · rw [field_eq]; omega
  · rw [field_eq]; omega
  · rw [bit, Nat.testBit_zero, Nat.testBit_zero]
    congr 1
    have : ((s.hdmSize * 2 ^ 40 + s.hdmBase * 2 ^ 28 + s.hdmOn.toNat) / 2 ^ 32 * 2 ^ 32 + x % 2 ^ 32) % 2 = x % 2 := by omega
    rw [this]

/-- A write of HDM_MAP's low half. -/
theorem hostWrite_hdmLow {s : State} {secure : Bool} (h : barOpen s secure = true) (v : Word) :
    hostWrite s 0x10008 4 v secure =
      pumpRings (writeHdmMap (wakeChip s) (setField (hdmMap s) 0 32 (v.toNat % 2 ^ 32)) false) := by
  have hr : regAt s 0 0x10008 = hdmMap s := by simp [regAt]
  have hw : regWriteOf s 0 0x10008 4 v.toNat =
      some ⟨0, 0x10008, setField (hdmMap s) 0 32 (v.toNat % 2 ^ 32), v.toNat % 2 ^ 32, true, false⟩ := by
    simp [regWriteOf, hr]
  simp [hostWrite, h, hw, writeReg]

/-- Every host command of this chapter writes nothing while BAR0 is shut. -/
theorem registers_shut {s : State} {secure : Bool} (h : barOpen s secure = false) (v : Word) (core : CoreId) (off size : Nat) :
    exec (.fabIdWrite v secure) s = .next s ∧ exec (.locksWrite v secure) s = .next s ∧
      exec (.scrubCtlWrite v secure) s = .next s ∧ exec (.telCtlWrite v secure) s = .next s ∧
      exec (.faultInfoClear core secure) s = .next s ∧ exec (.registerWrite off size v secure) s = .next s :=
  have hs off size v : Host.Outcome.next (hostWrite s off size v secure) = (.next s : Res) := congrArg _ (hostWrite_shut h off size v)
  ⟨hs 0x3000 8 v, hs 0x1008 8 v, hs 0x4000 8 v, hs 0x6028 8 v, hs (0x5400 + 16 * core.1) 8 0x8000, hs off size v⟩

/-! Each register's command, with BAR0 open: the register's own effect, after which rings may read on. -/

section
variable {s : State} {secure : Bool} (h : barOpen s secure = true) (v : Word)
include h

theorem exec_fabIdWrite : exec (.fabIdWrite v secure) s = .next (pumpRings (writeFabId (wakeChip s) v.toNat)) :=
  (congrArg _ (hostWrite_whole h v (off := 0x3000) (by decide))).trans (by simp [writeReg])

theorem exec_locksWrite : exec (.locksWrite v secure) s = .next (pumpRings (setLocks (wakeChip s) v.toNat)) :=
  (congrArg _ (hostWrite_whole h v (off := 0x1008) (by decide))).trans (by simp [writeReg])

theorem exec_scrubCtlWrite : exec (.scrubCtlWrite v secure) s = .next (pumpRings (writeScrub (wakeChip s) v.toNat)) :=
  (congrArg _ (hostWrite_whole h v (off := 0x4000) (by decide))).trans (by simp [writeReg])

theorem exec_telCtlWrite : exec (.telCtlWrite v secure) s = .next (pumpRings (writeTel (wakeChip s) v.toNat)) :=
  (congrArg _ (hostWrite_whole h v (off := 0x6028) (by decide))).trans (by simp [writeReg])

theorem exec_registerWrite_poll :
    exec (.registerWrite 0x10000 8 v secure) s = .next (pumpRings (writePoll (wakeChip s) v.toNat)) :=
  (congrArg _ (hostWrite_whole h v (off := 0x10000) (by decide))).trans (by simp [writeReg])

theorem exec_registerWrite_policy :
    exec (.registerWrite 0x1010 8 v secure) s = .next (pumpRings (writePolicy (wakeChip s) v.toNat)) :=
  (congrArg _ (hostWrite_whole h v (off := 0x1010) (by decide))).trans (by simp [writeReg])

theorem exec_registerWrite_ctrSel :
    exec (.registerWrite 0x6000 8 v secure) s = .next (pumpRings (writeCtrSel (wakeChip s) v.toNat)) :=
  (congrArg _ (hostWrite_whole h v (off := 0x6000) (by decide))).trans (by simp [writeReg])

theorem exec_faultInfoClear (core : CoreId) :
    exec (.faultInfoClear core secure) s = .next (pumpRings (clearFault (wakeChip s) core)) := by
  have hc := core.isLt
  have hix : Fin.ofNat 192 ((0x5400 + 16 * core.1 - 0x5400) / 16) = core := by
    apply Fin.ext; simp only [Fin.ofNat]; omega
  have hw : writeReg (wakeChip s) ⟨0, 0x5400 + 16 * core.1, 0x8000, 0x8000, true, true⟩ = clearFault (wakeChip s) core := by
    unfold writeReg
    dsimp only
    rw [if_neg (by omega), if_neg (by omega), if_neg (by omega), if_neg (by omega), if_pos (by omega), if_pos (by decide), hix]
  exact (congrArg _ (hostWrite_whole h 0x8000 (by omega))).trans (congrArg (fun u => Host.Outcome.next (pumpRings u)) hw)

end

theorem writeHdmMap_low (s : State) (m : Nat) : writeHdmMap s m false = { s with
    hdmSize := field m 40 9, hdmBase := field m 28 10
    hdmOn := bit m 0 && decide (field m 40 9 ≠ 0) && windowCovered s (field m 28 10 * 2 ^ 28) (field m 40 9 * 2 ^ 28) } := rfl

/-- Setting locks on the woken chip, and what rings then read (R427). -/
theorem setLocks_pumped (s : State) (x : Nat) :
    let t := pumpRings (setLocks (wakeChip s) x)
    t.life.locks = s.life.locks ||| BitVec.ofNat 6 x ∧
      t.sec.debugOpen = (s.sec.debugOpen && (s.life.locks.getLsbD 1 || !x.testBit 1)) ∧
      t.trace.enabled = (s.trace.enabled && (s.life.locks.getLsbD 5 || !x.testBit 5)) ∧
      hostOnly { wakeChip s with life := { s.life with locks := t.life.locks }, sec := { s.sec with debugOpen := t.sec.debugOpen } } t := by
  intro t
  obtain ⟨tr, htr, hset⟩ := setLocks_eq (wakeChip s) x
  rw [wakeChip_life, wakeChip_trace, newlyLocked] at htr
  rw [wakeChip_life, wakeChip_sec, newlyLocked] at hset
  have hpump := hostOnly_pumpRings (setLocks (wakeChip s) x)
  have hlocks : t.life.locks = s.life.locks ||| BitVec.ofNat 6 x := by
    rw [show t.life = _ from hostOnly_life hpump, hset]
  have hdebug : t.sec.debugOpen = (s.sec.debugOpen && (s.life.locks.getLsbD 1 || !x.testBit 1)) := by
    rw [show t.sec = _ from hostOnly_sec hpump, hset]
  have htrace : t.trace.enabled = tr.enabled := by
    have hrings : ringsOnly (setLocks (wakeChip s) x) t := ringsOnly_pumpRings _
    rw [hrings.traceEnabled, hset]
  refine ⟨hlocks, hdebug, htrace.trans htr, hostOnly_trans ?_ hpump⟩
  rw [hlocks, hdebug, hset]; rfl

/-- The woken chip with another FAB_ID. -/
def withFabId (s : State) (f : FabId) : State := { wakeChip s with fabric := { s.fabric with fabId := f } }

/-- A change of FAB_ID while VALID was set: the links, the Tally's tree and what rings then read are all that moves besides (R483). -/
theorem dropLinks_pumped (s : State) (f : FabId) :
    let t := pumpRings (dropLinks (withFabId s f))
    t.fabric.fabId = f ∧ (∀ l : LinkId, (t.fabric.links[l]).st = .down) ∧
      hostOnly { wakeChip s with fabric := t.fabric, align := t.align } t := by
  intro t
  have hpump := hostOnly_pumpRings (dropLinks (withFabId s f))
  obtain ⟨ks, a, r, hd⟩ := dropLinks_eq (withFabId s f)
  refine ⟨?_, fun l => ?_, ?_⟩
  · rw [show t.fabric = _ from hostOnly_fabric hpump, hd]; rfl
  · rw [show t.fabric = _ from hostOnly_fabric hpump]; exact dropLinks_down _ l
  · rw [show t.fabric = _ from hostOnly_fabric hpump, show t.align = _ from hostOnly_align hpump]
    refine hostOnly_trans ?_ hpump
    rw [hd]; rfl

/-- Settles O46: register by register, with BAR0 shut and with BAR0 open. -/
theorem registerWrites : Obligations.RegisterWrites := by
  intro s v secure
  dsimp only
  refine ⟨fun h core off size => registers_shut h v core off size, fun h =>
    ⟨?fabSame, ?fabChange, ?locks, ?scrub, ?tel, ?fault, ?malformed, ?poll, ?hdm, ?policy, ?ctrSel⟩⟩
  case fabSame =>
    intro hf
    refine ⟨_, exec_fabIdWrite h v, ?_⟩
    rw [writeFabId_same (by simpa using hf)]
    exact hostOnly_pumpRings _
  case fabChange =>
    intro h3 hl hx hy hz hn
    have hw : writeFabId (wakeChip s) v.toNat = if s.fabric.fabId.written then dropLinks (withFabId s (fabIdOf v.toNat))
        else withFabId s (fabIdOf v.toNat) := by
      rw [writeFabId_change (by simpa using h3) (by simpa using hl) hx hy hz (by simpa using hn), wakeChip_fabric]; rfl
    refine ⟨fun hv => ⟨_, exec_fabIdWrite h v, ?_⟩, fun hv => ⟨_, exec_fabIdWrite h v, ?_⟩⟩
    · rw [hw, hv]; exact hostOnly_pumpRings _
    · rw [hw, hv, if_pos rfl]
      exact dropLinks_pumped s (fabIdOf v.toNat)
  case locks =>
    refine ⟨_, exec_locksWrite h v, ?_⟩
    exact setLocks_pumped s v.toNat
  case scrub =>
    refine ⟨_, exec_scrubCtlWrite h v, ?_⟩
    rw [writeScrub_eq, wakeChip_hbm]
    exact hostOnly_pumpRings _
  case tel =>
    refine ⟨_, exec_telCtlWrite h v, ?_⟩
    rw [writeTel_eq, wakeChip_obs, wakeChip_tally]
    exact hostOnly_pumpRings _
  case fault =>
    intro core
    refine ⟨_, exec_faultInfoClear h core, ?_⟩
    have hpump := hostOnly_pumpRings (clearFault (wakeChip s) core)
    have hcore (c : CoreId) : (pumpRings (clearFault (wakeChip s) core)).core c = (clearFault (wakeChip s) core).core c :=
      State.core_congr (hostOnly_cores hpump) c
    have hsame : (clearFault (wakeChip s) core).core core = { s.core core with fault := { (s.core core).fault with valid := false } } := by
      rw [clearFault, State.core_modCore, wakeChip_core]
    refine ⟨?_, fun c hc => ?_, ?_, ?_⟩
    · rw [hcore, hsame]
    · rw [hcore, clearFault, State.core_modCore_ne _ _ hc, wakeChip_core]
    · rw [hcore, hsame]
    · rw [hostOnly_cores hpump]; exact hpump
  case malformed =>
    intro off size h8 h4
    exact congrArg _ (hostWrite_malformed h v h8 h4)
  case poll =>
    refine ⟨_, exec_registerWrite_poll h v, ?_⟩
    rw [writePoll_eq, wakeChip_hifPoll]
    exact hostOnly_pumpRings _
  case hdm =>
    intro hb hs
    obtain ⟨hsize, hbase, hon⟩ := hdmMap_setLow hb hs v.toNat
    refine ⟨_, congrArg Host.Outcome.next (hostWrite_hdmLow h v), ?_⟩
    rw [writeHdmMap_low, hsize, hbase, hon, wakeChip_windowCovered, wakeChip_hdmSize]
    exact hostOnly_pumpRings _
  case policy =>
    refine ⟨_, exec_registerWrite_policy h v, ?_⟩
    rw [writePolicy_eq, wakeChip_sec, wakeChip_life]
    exact hostOnly_pumpRings _
  case ctrSel =>
    refine ⟨_, exec_registerWrite_ctrSel h v, ?_⟩
    rw [writeCtrSel_eq, wakeChip_obs]
    exact hostOnly_pumpRings _

end Sys2Proof.Machine
end

section
/-! Proofs: memories by their bytes: windows, moved cells, copies. -/
namespace Sys2Proof.Machine

/-- The cells of a window are those in its range. -/
theorem Memory.mem_window {m : Memory} (h : m.wf) (a n : Nat) (c : Host.Cell) : c ∈ m.window a n ↔ c ∈ m ∧ a ≤ c.1 ∧ c.1 < a + n := by
  rw [Memory.window, Memory.takeWhile_eq_filter (Memory.wf_sublist (List.dropWhile_sublist _) h), Memory.dropWhile_eq_filter h]
  simp only [List.mem_filter, decide_eq_true_eq, and_assoc]

theorem Memory.get_window {m : Memory} (h : m.wf) {a n x : Nat} (h1 : a ≤ x) (h2 : x < a + n) : (m.window a n).get x = m.get x :=
  Memory.get_ext (Memory.window_wf h a n) x h fun b => by simp [Memory.mem_window h, h1, h2]

/-- Cells moved to another base read as they did at their own. -/
theorem Memory.get_moved {m : Memory} {a n : Nat} (hi : m.within a n) {b x : Nat} (hx : b ≤ x) :
    Memory.get (m.map fun (k, v) => (k - a + b, v)) x = m.get (x - b + a) := by
  induction m with
  | nil => rfl
  | cons c m ih =>
    have hc : a ≤ c.1 := (hi c (List.mem_cons_self ..)).1
    have hiff : (x = c.1 - a + b) ↔ (x - b + a = c.1) := by omega
    rw [List.map_cons, Memory.get_cons, Memory.get_cons, ih fun d hd => hi d (List.mem_cons_of_mem _ hd)]
    simp only [hiff]

/-- A copied range reads as its source did; everything else stands. -/
theorem Memory.get_copy {m : Memory} (h : m.wf) (src dst n x : Nat) :
    (m.copy src dst n).get x = if dst ≤ x ∧ x < dst + n then m.get (x - dst + src) else m.get x := by
  have hin := Memory.window_within h src n
  have hwf := Memory.moved_wf (Memory.window_wf h src n) hin dst
  unfold Memory.copy
  split
  · next hx =>
    rw [Memory.get_place_in h hwf (Memory.moved_within hin dst) hx, Memory.get_moved hin hx.1, Memory.get_window h (by omega) (by omega)]
  · next hx => exact Memory.get_place_out h hwf (Memory.moved_within hin dst) hx

/-- Reads that agree byte by byte agree. -/
theorem Memory.read_congr {m k : Memory} (hm : m.wf) (hk : k.wf) {a b n : Nat} (he : ∀ i, i < n → m.get (a + i) = k.get (b + i)) :
    m.read a n = k.read b n := by
  refine List.ext_getElem (by simp) fun i h1 h2 => ?_
  have hi : i < n := by simpa using h2
  have e1 := Memory.read_getD hm a n i hi
  rw [he i hi, ← Memory.read_getD hk b n i hi] at e1
  simpa [List.getD_eq_getElem?_getD, List.getElem?_eq_getElem h1, List.getElem?_eq_getElem h2] using e1

theorem Memory.read_copy {m : Memory} (h : m.wf) (src dst n : Nat) : (m.copy src dst n).read dst n = m.read src n :=
  Memory.read_congr (Memory.copy_wf h src dst n) h fun i hi => by
    rw [Memory.get_copy h, if_pos (by omega), show dst + i - dst + src = src + i by omega]

end Sys2Proof.Machine
end

section
/-! Proofs: what a write to HBM and a restore of a sector do (R168, R169, R181, R185). -/
namespace Sys2Proof.Machine

open Sys2Proof.Safety

/-- One mirror part of a write: its cells, moved, over its range. -/
def mirrored (cells m : Memory) (p : Nat × Nat × Nat) : Memory :=
  m.place p.2.1 p.2.2 ((cells.window p.1 p.2.2).map fun (k, b) => (k - p.1 + p.2.1, b))

theorem hbmWrite_mem (s : State) (a : Nat) (bs : List Byte) : (hbmWrite s a bs).hbm.mem =
    (mirrorParts s a bs.length).foldl (mirrored (Memory.cells a bs)) (s.hbm.mem.write a bs) := rfl

theorem mirrored_wf {cells m : Memory} (hc : cells.wf) (hm : m.wf) (p : Nat × Nat × Nat) : (mirrored cells m p).wf :=
  Memory.place_wf hm (Memory.moved_wf (Memory.window_wf hc _ _) (Memory.window_within hc _ _) _)
    (Memory.moved_within (Memory.window_within hc _ _) _)

theorem mirrored_get_out {cells m : Memory} (hc : cells.wf) (hm : m.wf) {p : Nat × Nat × Nat} {x : Nat}
    (hx : ¬ (p.2.1 ≤ x ∧ x < p.2.1 + p.2.2)) : (mirrored cells m p).get x = m.get x :=
  Memory.get_place_out hm (Memory.moved_wf (Memory.window_wf hc _ _) (Memory.window_within hc _ _) _)
    (Memory.moved_within (Memory.window_within hc _ _) _) hx

theorem mirrored_get_in {cells m : Memory} (hc : cells.wf) (hm : m.wf) {p : Nat × Nat × Nat} {x : Nat}
    (h1 : p.2.1 ≤ x) (h2 : x < p.2.1 + p.2.2) : (mirrored cells m p).get x = cells.get (x - p.2.1 + p.1) := by
  rw [mirrored, Memory.get_place_in hm (Memory.moved_wf (Memory.window_wf hc _ _) (Memory.window_within hc _ _) _)
    (Memory.moved_within (Memory.window_within hc _ _) _) ⟨h1, h2⟩, Memory.get_moved (Memory.window_within hc _ _) h1,
    Memory.get_window hc (by omega) (by omega)]

/-- Outside every mirror part the parts change nothing. -/
theorem mirrored_foldl_get_out {cells m : Memory} (hc : cells.wf) (hm : m.wf) {ps : List (Nat × Nat × Nat)} {x : Nat}
    (hx : ∀ p ∈ ps, ¬ (p.2.1 ≤ x ∧ x < p.2.1 + p.2.2)) : (ps.foldl (mirrored cells) m).get x = m.get x := by
  induction ps generalizing m with
  | nil => rfl
  | cons p ps ih =>
    rw [List.foldl_cons, ih (mirrored_wf hc hm p) fun q hq => hx q (List.mem_cons_of_mem _ hq),
      mirrored_get_out hc hm (hx p (List.mem_cons_self ..))]

/-- A write to HBM, byte by byte, outside its mirrors. -/
theorem hbmWrite_get {s : State} (h : s.hbm.mem.wf) (a : Nat) (bs : List Byte) {x : Nat}
    (hx : ∀ p ∈ mirrorParts s a bs.length, ¬ (p.2.1 ≤ x ∧ x < p.2.1 + p.2.2)) :
    (hbmWrite s a bs).hbm.mem.get x = if a ≤ x ∧ x < a + bs.length then bs.getD (x - a) 0 else s.hbm.mem.get x := by
  rw [hbmWrite_mem, mirrored_foldl_get_out (Memory.cells_wf a bs) (Memory.write_wf h a bs) hx, Memory.get_write h]

/-- A mirror part lies in the range written. -/
theorem mirrorParts_within {s : State} {a n : Nat} {p : Nat × Nat × Nat} (hp : p ∈ mirrorParts s a n) : a ≤ p.1 := by
  obtain ⟨r, _, hr⟩ := List.mem_filterMap.1 hp
  split at hr
  · dsimp only at hr
    split at hr
    · rw [← Option.some.inj hr]; exact le_max_left _ _
    · exact absurd hr nofun
  · exact absurd hr nofun

/-- In the only mirror of a write its bytes are read too (R181). -/
theorem hbmWrite_get_mirror {s : State} (h : s.hbm.mem.wf) {a : Nat} {bs : List Byte} {p : Nat × Nat × Nat}
    (hp : mirrorParts s a bs.length = [p]) {x : Nat} (h1 : p.2.1 ≤ x) (h2 : x < p.2.1 + p.2.2) :
    (hbmWrite s a bs).hbm.mem.get x = bs.getD (x - p.2.1 + p.1 - a) 0 := by
  have ha : a ≤ p.1 := mirrorParts_within (by rw [hp]; exact List.mem_singleton_self p)
  have hcell := Memory.get_cells a bs (x - p.2.1 + p.1 - a)
  rw [show a + (x - p.2.1 + p.1 - a) = x - p.2.1 + p.1 by omega] at hcell
  rw [hbmWrite_mem, hp, List.foldl_cons, List.foldl_nil, mirrored_get_in (Memory.cells_wf a bs) (Memory.write_wf h a bs) h1 h2, hcell]

/-- A write makes no sector fail. -/
theorem hbmWrite_bad {s : State} {a x : Nat} {bs : List Byte} (hx : x ∈ (hbmWrite s a bs).hbm.bad) : x ∈ s.hbm.bad := by
  have hdrop (l : List Nat) (b n : Nat) (h : x ∈ dropSectors l b n) : x ∈ l := (List.mem_filter.1 h).1
  have hfold (ps : List (Nat × Nat × Nat)) (l : List Nat) (h : x ∈ ps.foldl (fun l (_, dst, len) => dropSectors l dst len) l) : x ∈ l := by
    induction ps generalizing l with
    | nil => exact h
    | cons p ps ih => exact hdrop _ _ _ (ih _ h)
  exact hdrop _ _ _ (hfold _ _ hx)

/-! The copy of a sector over its failed one. -/

theorem noteLanes_eq (s : State) (a : Nat) : ∃ f l, noteLanes s a = { s with hbm := { s.hbm with failed := f, lanes := l } } := by
  unfold noteLanes
  split
  · exact ⟨s.hbm.failed, s.hbm.lanes, rfl⟩
  · exact ⟨_, _, rfl⟩

/-- What a restore changes: the sector, the lists of failed sectors and lanes, the launch's list of replays, and its counter. -/
theorem restoreFrom_eq (s : State) (a good : Nat) : ∃ f l n r, restoreFrom s a good = { s with
    hbm := { s.hbm with mem := s.hbm.mem.copy good a 64, bad := s.hbm.bad.filter (· ≠ a), failed := f, lanes := l }
    launch := n, run := r } := by
  unfold restoreFrom restored
  dsimp only
  obtain ⟨f, l, h⟩ := noteLanes_eq (State.modLaunch { s with hbm := { s.hbm with
    mem := s.hbm.mem.copy good a 64, bad := s.hbm.bad.filter (· ≠ a) } } fun l => { l with replayedFor := l.replayedFor.filter (· ≠ a) }) a
  rw [h]
  exact ⟨f, l, _, _, rfl⟩

theorem mirrorParts_congr {s t : State} (h : t.regions = s.regions) (a n : Nat) : mirrorParts t a n = mirrorParts s a n := by
  unfold mirrorParts; rw [h]

theorem otherCopy_congr {s t : State} (h : t.regions = s.regions) (a : Nat) : otherCopy t a = otherCopy s a := by
  unfold otherCopy; rw [h]

end Sys2Proof.Machine
end

section
/-! Proofs: the HDM window (R268 to R270). -/
namespace Sys2Proof.Machine

open Sys2Proof.Safety

/-! HDM_MAP. -/

theorem exec_hdmMapEnable {s : State} {secure : Bool} {v : Word} (h : barOpen s secure = true) (hv : v.toNat % 2 = 1) :
    exec (.hdmMapEnable v secure) s = .next (writeHdmMap (wakeChip s) v.toNat true) := by
  show execHdmMapEnable v secure s = _
  rw [execHdmMapEnable, h, bit_zero, decide_eq_true hv]; rfl

/-- A write that places a reserved SIZE changes no field (R13). -/
theorem writeHdmMap_reserved {s : State} {x : Nat} (hr : x / 2 ^ 40 % 512 = 0 ∨ 256 < x / 2 ^ 40 % 512) : writeHdmMap s x true = s := by
  have hsize : field x 40 9 = x / 2 ^ 40 % 512 := field_eq x 40 9
  unfold writeHdmMap
  dsimp only
  rw [hsize, if_pos (by rw [Bool.true_and, ← Bool.decide_or, decide_eq_true hr])]

/-- A write that sets ENABLE over a SIZE from 1 to 256 opens the window where R269 admits it. -/
theorem writeHdmMap_sized {s : State} {x : Nat} (hx : x % 2 = 1) (h1 : 0 < x / 2 ^ 40 % 512) (h2 : x / 2 ^ 40 % 512 ≤ 256) :
    writeHdmMap s x true = { s with
      hdmSize := x / 2 ^ 40 % 512, hdmBase := x / 2 ^ 28 % 1024,
      hdmOn := windowCovered s (x / 2 ^ 28 % 1024 * 2 ^ 28) (x / 2 ^ 40 % 512 * 2 ^ 28) } := by
  have hsize : field x 40 9 = x / 2 ^ 40 % 512 := field_eq x 40 9
  have hbase : field x 28 10 = x / 2 ^ 28 % 1024 := field_eq x 28 10
  unfold writeHdmMap
  dsimp only
  rw [hsize, hbase, if_neg (by rw [Bool.true_and, ← Bool.decide_or, decide_eq_true_eq]; omega), bit_zero, decide_eq_true hx,
    decide_eq_true (show x / 2 ^ 40 % 512 ≠ 0 by omega), Bool.true_and, Bool.true_and, windowBytes, windowBytes]

theorem exec_hdmMapEnable_none {s : State} {secure : Bool} {v : Word} (h : barOpen s secure = false ∨ v.toNat % 2 = 0) :
    exec (.hdmMapEnable v secure) s = .next s := by
  have hn : (barOpen s secure && bit v.toNat 0) = false := by
    rcases h with h | h
    · rw [h]; rfl
    · rw [bit_zero, h]; simp
  show execHdmMapEnable v secure s = _
  rw [execHdmMapEnable, hn]; rfl

/-! Where an access lies, and what it is noted as. -/

/-- An access that the open window admits lies at its device address. -/
theorem windowAddr_open {s : State} {secure : Bool} {off n : Nat} (hon : s.hdmOn = true) (hdec : s.hdmDecoder = true)
    (hsec : secure = true ∨ s.sec.policy.getLsbD 1 = false) (h1 : off % 64 + n ≤ 64) (h2 : off + n ≤ s.hdmSize * 2 ^ 28) :
    windowAddr s off n secure = some (s.hdmBase * 2 ^ 28 + off) := by
  have hio : (secure || !s.sec.policy.getLsbD 1) = true := by
    rcases hsec with h | h
    · rw [h]; rfl
    · rw [h]; exact Bool.or_true _
  rw [windowAddr, hon, hdec, hio, decide_eq_true ⟨h1, h2⟩]; rfl

theorem noteHdm_eq (s : State) : noteHdm s = { s with
    ctrs := if s.counting then { s.ctrs with hdmAccesses := sat64 s.ctrs.hdmAccesses 1 } else s.ctrs
    launch := if s.launchActive then s.launch.map fun l => { l with exc := l.exc ||| excHDM } else s.launch } := by
  rw [noteHdm, State.count_eq, State.flagExc_eq]; rfl

/-- An access shows on an active launch (R268). -/
theorem noteHdm_launch {s : State} (h : s.launchActive = true) :
    ∃ l l', s.launch = some l ∧ (noteHdm s).launch = some l' ∧ l'.exc = l.exc ||| 128 := by
  cases hl : s.launch with
  | none => simp [State.launchActive, hl] at h
  | some l => exact ⟨l, _, rfl, by rw [noteHdm_eq, h, hl]; rfl, rfl⟩

/-! The sector that an access meets (R270). -/

theorem restoredSector_good {s : State} {a : Nat} (h : a ∉ s.hbm.bad) : restoredSector s a = some s := by
  rw [restoredSector, if_neg (by simpa using h)]

theorem restoredSector_restored {s : State} {a o : Nat} (h : a ∈ s.hbm.bad) (ho : (otherCopy s a).map (·.1) = some o)
    (hg : o ∉ s.hbm.bad) : restoredSector s a = some (restoreFrom s a o) := by
  obtain ⟨⟨o', b⟩, hc, rfl⟩ := Option.map_eq_some_iff.1 ho
  rw [restoredSector, if_pos (by simpa using h), hc]
  dsimp only
  rw [if_neg (by simpa using hg)]

theorem restoredSector_lost {s : State} {a : Nat} (h : a ∈ s.hbm.bad) (ho : ∀ o, (otherCopy s a).map (·.1) = some o → o ∈ s.hbm.bad) :
    restoredSector s a = none := by
  rw [restoredSector, if_pos (by simpa using h)]
  cases hc : otherCopy s a with
  | none => rfl
  | some c =>
    have hb := ho c.1 (by rw [hc]; rfl)
    dsimp only
    rw [if_pos (by simpa using hb)]

/-! Reads. -/

theorem exec_hdmRead_shut {s : State} {off : Nat} {secure : Bool} (h : windowAddr s (off / 64 * 64) 64 secure = none) :
    exec (.hdmRead off secure) s = .next (s.emit (.memData (List.replicate 64 0))) := by
  show execHdmRead off secure s = _
  simp only [execHdmRead, h]

theorem exec_hdmRead_data {s t : State} {off a : Nat} {secure : Bool} (h : windowAddr s (off / 64 * 64) 64 secure = some a)
    (hr : restoredSector (noteHdm s) a = some t) : exec (.hdmRead off secure) s = .next (t.emit (.memData (t.hbm.mem.read a 64))) := by
  show execHdmRead off secure s = _
  simp only [execHdmRead, h, hr, hbmRead]

theorem exec_hdmRead_lost {s : State} {off a : Nat} {secure : Bool} (h : windowAddr s (off / 64 * 64) 64 secure = some a)
    (hr : restoredSector (noteHdm s) a = none) :
    exec (.hdmRead off secure) s = .next ((hdmLost (noteHdm s) a).emit (.memData (List.replicate 64 0))) := by
  show execHdmRead off secure s = _
  simp only [execHdmRead, h, hr]

/-! Writes. -/

theorem exec_hdmWrite_shut {s : State} {off : Nat} {data : List Byte} {secure : Bool} (h : windowAddr s off data.length secure = none) :
    exec (.hdmWrite off data secure) s = .next s := by
  show execHdmWrite off data secure s = _
  simp only [execHdmWrite, h]

/-- A whole sector is written at once; a part of one over the sector as it has been checked. -/
theorem exec_hdmWrite_over {s t : State} {off a : Nat} {data : List Byte} {secure : Bool}
    (h : windowAddr s off data.length secure = some a)
    (ht : (data.length = 64 ∧ t = noteHdm s) ∨ (data.length ≠ 64 ∧ restoredSector (noteHdm s) (a / 64 * 64) = some t)) :
    exec (.hdmWrite off data secure) s = .next (hbmWrite t a data) := by
  show execHdmWrite off data secure s = _
  rcases ht with ⟨hl, rfl⟩ | ⟨hl, hr⟩
  · rw [execHdmWrite, h]
    exact congrArg _ (if_pos hl)
  · simp only [execHdmWrite, h, hl, if_false, hr]

theorem exec_hdmWrite_lost {s : State} {off a : Nat} {data : List Byte} {secure : Bool}
    (h : windowAddr s off data.length secure = some a) (hl : data.length ≠ 64)
    (hr : restoredSector (noteHdm s) (a / 64 * 64) = none) : exec (.hdmWrite off data secure) s = .next (noteHdm s) := by
  show execHdmWrite off data secure s = _
  simp only [execHdmWrite, h, hl, if_false, hr]

/-! What an access leaves as it was. -/

theorem noteHdm_hbm (s : State) : (noteHdm s).hbm = s.hbm := by rw [noteHdm_eq]
theorem noteHdm_regions (s : State) : (noteHdm s).regions = s.regions := by rw [noteHdm_eq]
theorem noteHdm_cores (s : State) : (noteHdm s).cores = s.cores := by rw [noteHdm_eq]
theorem noteHdm_sites (s : State) : (noteHdm s).sites = s.sites := by rw [noteHdm_eq]
theorem noteHdm_out (s : State) : (noteHdm s).out = s.out := by rw [noteHdm_eq]

theorem noteHdm_hdmAccesses {s : State} (h : s.counting = true) :
    (noteHdm s).ctrs.hdmAccesses = sat64 s.ctrs.hdmAccesses 1 := by rw [noteHdm_eq, h]; rfl

theorem restoredSector_noteHdm_good {s : State} {a : Nat} (h : a ∉ s.hbm.bad) : restoredSector (noteHdm s) a = some (noteHdm s) :=
  restoredSector_good (by rwa [noteHdm_hbm])

theorem restoredSector_noteHdm_restored {s : State} {a o : Nat} (h : a ∈ s.hbm.bad) (ho : (otherCopy s a).map (·.1) = some o)
    (hg : o ∉ s.hbm.bad) : restoredSector (noteHdm s) a = some (restoreFrom (noteHdm s) a o) :=
  restoredSector_restored (by rwa [noteHdm_hbm]) (by rwa [otherCopy_congr (noteHdm_regions s)]) (by rwa [noteHdm_hbm])

theorem restoredSector_noteHdm_lost {s : State} {a : Nat} (h : a ∈ s.hbm.bad)
    (ho : ∀ o, (otherCopy s a).map (·.1) = some o → o ∈ s.hbm.bad) : restoredSector (noteHdm s) a = none :=
  restoredSector_lost (by rwa [noteHdm_hbm]) (by rwa [otherCopy_congr (noteHdm_regions s), noteHdm_hbm])

/-- A sector restored as an access meets it: its bytes and its failure have moved, and nothing else of the memories. -/
theorem restoreFrom_noteHdm (s : State) (a o : Nat) : let t := restoreFrom (noteHdm s) a o
    t.hbm.mem = s.hbm.mem.copy o a 64 ∧ t.hbm.bad = s.hbm.bad.filter (· ≠ a) ∧ t.regions = s.regions ∧ t.cores = s.cores ∧
      t.sites = s.sites ∧ t.out = s.out := by
  obtain ⟨f, l, n, r, h⟩ := restoreFrom_eq (noteHdm s) a o
  rw [h]
  dsimp only
  rw [noteHdm_hbm, noteHdm_regions, noteHdm_cores, noteHdm_sites, noteHdm_out]
  exact ⟨rfl, rfl, rfl, rfl, rfl, rfl⟩

/-- A write to HBM leaves the launch's flags. -/
theorem hbmWrite_launch {s : State} {l : Launch} (h : s.launch = some l) (a : Nat) (bs : List Byte) :
    ∃ l', (hbmWrite s a bs).launch = some l' ∧ l'.exc = l.exc :=
  ⟨_, (congrArg (Option.map _) h), rfl⟩

/-- The event of a lost access moves only rings (R266). -/
theorem hostOnly_hdmLost (s : State) (a : Nat) : hostOnly s (hdmLost s a) := (ringsOnly_eventRecord s _ _ _).hostOnly

/-- Settles O45: HDM_MAP, the shut window, then reads and writes by what the sector's copies hold. -/
theorem hdmWindow : Obligations.HdmWindow := by
  intro s secure hwf
  dsimp only
  refine ⟨fun v h hv => ⟨fun h1 h2 => ?sized, fun hr => ?reserved⟩, fun v h => exec_hdmMapEnable_none h,
    fun off h => exec_hdmRead_shut h, fun off data h => exec_hdmWrite_shut h, ?read, ?write⟩
  case sized => rw [exec_hdmMapEnable h hv, writeHdmMap_sized hv h1 h2, wakeChip_windowCovered]
  case reserved => rw [exec_hdmMapEnable h hv, writeHdmMap_reserved hr]
  case read =>
    intro off hon hdec hsec hin
    have haddr := windowAddr_open (off := off / 64 * 64) (n := 64) hon hdec hsec (by omega) hin
    refine ⟨fun hgood => ?_, fun hbad hlost => ?_, fun o hbad ho hg => ?_⟩
    · refine ⟨_, exec_hdmRead_data haddr (restoredSector_noteHdm_good hgood), ?_, noteHdm_hbm s, noteHdm_launch,
        noteHdm_hdmAccesses, noteHdm_cores s, noteHdm_sites s⟩
      rw [noteHdm_hbm, State.emit, noteHdm_out]
    · have hev := hostOnly_hdmLost (noteHdm s) (s.hdmBase * 2 ^ 28 + off / 64 * 64)
      refine ⟨_, exec_hdmRead_lost haddr (restoredSector_noteHdm_lost hbad hlost), ?_, List.getLast?_concat .., ?_, ?_⟩
      · exact (hostOnly_hbm hev).trans (noteHdm_hbm s)
      · exact (hostOnly_cores hev).trans (noteHdm_cores s)
      · exact (hostOnly_sites hev).trans (noteHdm_sites s)
    · obtain ⟨hmem, hb, _, hcores, hsites, hout⟩ := restoreFrom_noteHdm s (s.hdmBase * 2 ^ 28 + off / 64 * 64) o
      have hread := Memory.read_copy hwf.1 o (s.hdmBase * 2 ^ 28 + off / 64 * 64) 64
      refine ⟨_, exec_hdmRead_data haddr (restoredSector_noteHdm_restored hbad ho hg), ?_, ?_, ?_, hcores, hsites⟩
      · rw [State.emit, hout, hmem, hread]
      · exact (congrArg (fun m : Memory => m.read _ 64) hmem).trans hread
      · show _ ∉ (restoreFrom _ _ _).hbm.bad
        rw [hb]; simp
  case write =>
    intro off data hon hdec hsec hsector hin
    have haddr := windowAddr_open (off := off) (n := data.length) hon hdec hsec hsector hin
    obtain ⟨a, ha⟩ : ∃ a, s.hdmBase * 2 ^ 28 + off = a := ⟨_, rfl⟩
    rw [ha] at haddr ⊢
    refine ⟨fun hl hbad hlost => ?_, fun o hl hbad ho hg => ?_, fun hok => ?_⟩
    · exact ⟨_, exec_hdmWrite_lost haddr (by omega) (restoredSector_noteHdm_lost hbad hlost), noteHdm_hbm s, noteHdm_cores s,
        noteHdm_sites s⟩
    · obtain ⟨hmem, hb, hregions, hcores, hsites, _⟩ := restoreFrom_noteHdm s (a / 64 * 64) o
      refine ⟨_, exec_hdmWrite_over haddr (.inr ⟨by omega, restoredSector_noteHdm_restored hbad ho hg⟩), fun hm => ?_, hcores, hsites,
        fun x hx => ?_⟩
      · have := hbmWrite_bad hm
        rw [hb] at this
        simp at this
      · rw [hbmWrite_get (by rw [hmem]; exact Memory.copy_wf hwf.1 _ _ _) a data (by rwa [mirrorParts_congr hregions]), hmem,
          Memory.get_copy hwf.1]
    · have hover : (data.length = 64 ∧ noteHdm s = noteHdm s) ∨
          (data.length ≠ 64 ∧ restoredSector (noteHdm s) (a / 64 * 64) = some (noteHdm s)) := by
        rcases hok with hl | hgood
        · exact .inl ⟨hl, rfl⟩
        · by_cases hl : data.length = 64
          · exact .inl ⟨hl, rfl⟩
          · exact .inr ⟨hl, restoredSector_noteHdm_good hgood⟩
      have hmem : (noteHdm s).hbm.mem.wf := by rw [noteHdm_hbm]; exact hwf.1
      have hparts := mirrorParts_congr (noteHdm_regions s) a data.length
      refine ⟨_, exec_hdmWrite_over haddr hover, fun x hx => ?_, fun p hp x h1 h2 => ?_, fun hact => ?_, noteHdm_cores s,
        noteHdm_sites s⟩
      · rw [hbmWrite_get hmem a data (by rwa [hparts]), noteHdm_hbm]
      · exact hbmWrite_get_mirror hmem (hparts.trans hp) h1 h2
      · obtain ⟨l, l', hl, hl', hexc⟩ := noteHdm_launch hact
        obtain ⟨l'', hl'', hexc''⟩ := hbmWrite_launch hl' a data
        exact ⟨l, l'', hl, hl'', hexc''.trans hexc⟩

end Sys2Proof.Machine
end

section
/-! Proofs: an executed instruction that changes the chip's state and then its thread. -/
namespace Sys2Proof.Machine

open Sys2Proof.Safety

/-- An instruction whose own effect is a change of the chip's state and then of its thread's fields. -/
theorem goesOn_done_modTh {s u : State} {th : ThRef} {w : Word} {op : Nat} {us : Nat → List ExecUnit} {run : State → Ctx → Exec}
    {f : Thread → Thread} (h : executes s th w op (us w.toNat)) (hr : run s ⟨th, (s.th th).pos, w.toNat⟩ = .done (u.modTh th f))
    (hc : u.counting = true) : goesOn u (issue (opRow op us run) th s) th (f (u.th th)) ((s.th th).pos + 1) := by
  have h1 := goesOn_done h hr hc
  rw [State.th_modTh] at h1
  exact goesOn_of_onlyThread (onlyThread_modTh u th f) (by simp) h1

/-- Two changes of one thread are one. -/
theorem State.modTh_modTh (s : State) (r : ThRef) (f g : Thread → Thread) : (s.modTh r f).modTh r g = s.modTh r (g ∘ f) := by
  simp [State.modTh, State.setTh, State.modCore, State.setCore, State.th, State.core, vset]

theorem counting_of_executes {s : State} {th : ThRef} {w : Word} {op : Nat} {us : List ExecUnit} (h : executes s th w op us) :
    s.counting = true := counting_of_canIssue h.1.1

/-- Whether the launch counts depends on where it stands. -/
theorem counting_launch {s u : State} {l l' : Launch} (h : s.counting = true) (hl : s.launch = some l) (hu : u.launch = some l')
    (hst : l'.st = l.st) : u.counting = true := by
  simpa only [State.counting, hl, hu, hst] using h

theorem counting_markVvx {s : State} (h : s.counting = true) : (markVvx s).counting = true := by
  cases hl : s.launch with
  | none => simp [State.counting, hl] at h
  | some l => exact counting_launch h hl (l' := { l with vvx := true }) (by simp [markVvx, hl]) rfl

end Sys2Proof.Machine
end

section
/-! Proofs: value-varying reads (R37, R42, R219, R447). -/
namespace Sys2Proof.Machine

open Sys2Proof.Safety

/-- A thread that has taken a value-varying value: the value in its register, its cursor past the log entry. -/
def Thread.probed (d : Fin 32) (v : Word) (x : Thread) : Thread := { x with regs := x.regs.set d v, vvPos := x.vvPos + 1 }

/-- A fresh value in the log and the anchor area, with VVX on the completion (R42, Table 13.2). -/
def vvLogged (s : State) (l : Launch) (r : ThRef) (index : Nat) (v : Word) : State :=
  let at_ := l.d.anchorBase + 2 * Config.anchorHalf + 16 * l.vvLog.length
  let bs := toBytes 8 v.toNat ++ toBytes 4 index ++ toBytes 1 (coreRow r.core) ++ toBytes 1 (coreCol r.core).1
  { s with
    hbm := (hbmWrite s at_ bs).hbm
    launch := some { l with
      vvx := true, vvLog := l.vvLog ++ [({ value := v, index := index, th := r, red := false } : VvEntry)]
      replayedFor := dropSectors l.replayedFor at_ bs.length } }

theorem probe_logged {s : State} {l : Launch} {c : Ctx} {v : Word} (hl : s.launch = some l) (hn : vvNext s c.th = some v)
    (fresh : Word) : probe s c fresh =
      .done ({ s with launch := some { l with vvx := true } }.modTh c.th (Thread.probed (fD c.w) v)) := by
  have ht : vvTake s c v = { s with launch := some { l with vvx := true } }.modTh c.th fun t => { t with vvPos := t.vvPos + 1 } := by
    simp only [vvTake, vvStep, hn, markVvx, State.modLaunch, State.modTh, State.setTh, State.modCore, State.setCore, hl, Option.map]
    rfl
  rw [probe, hn]
  show Exec.done (setReg (vvTake s c v) c.th (fD c.w) v) = _
  rw [ht, setReg, State.modRegs, State.modTh_modTh]
  rfl

theorem probe_fresh {s : State} {l : Launch} {c : Ctx} (hl : s.launch = some l) (hn : vvNext s c.th = none)
    (hf : vvFull s = false) (fresh : Word) :
    probe s c fresh = .done ((vvLogged s l c.th c.ix fresh).modTh c.th (Thread.probed (fD c.w) fresh)) := by
  have ht : vvTake s c fresh = (vvLogged s l c.th c.ix fresh).modTh c.th fun t => { t with vvPos := t.vvPos + 1 } := by
    simp only [vvTake, vvStep, hn, vvLogEntry, hl, markVvx, State.modLaunch, hbmWrite, hbmPlace, Option.map]
    simp only [State.modTh, State.setTh, State.modCore, State.setCore]
    simp only [vvLogged, hbmWrite, hbmPlace, State.modLaunch]
    rfl
  rw [probe, hn]
  simp only [hf]
  show Exec.done (setReg (vvTake s c fresh) c.th (fD c.w) fresh) = _
  rw [ht, setReg, State.modRegs, State.modTh_modTh]
  rfl

theorem probe_full {s : State} {c : Ctx} (hn : vvNext s c.th = none) (hf : vvFull s = true) (fresh : Word) :
    probe s c fresh = .fault .vvLogFull := by simp [probe, hn, hf]

/-- A probe that finds its value in the log takes it again (R42). -/
theorem goesOn_probe_logged {s : State} {l : Launch} {th : ThRef} {w : Word} {op : Nat} {run : State → Ctx → Exec} {v fresh : Word}
    (h : executes s th w op []) (hl : s.launch = some l) (hn : vvNext s th = some v)
    (hr : run s ⟨th, (s.th th).pos, w.toNat⟩ = probe s ⟨th, (s.th th).pos, w.toNat⟩ fresh) :
    goesOn { s with launch := some { l with vvx := true } } (issue (opRow op (fun _ => []) run) th s) th
      ((s.th th).probed (fD w.toNat) v) ((s.th th).pos + 1) :=
  goesOn_done_modTh h (hr.trans (probe_logged hl hn fresh)) (counting_launch (counting_of_executes h) hl rfl rfl)

/-- An instruction that logs a fresh value in the state `u` and changes its thread has gone on, with the entry in the log and in the
anchor area (R42). -/
theorem goesOn_vvLogged {s u : State} {l : Launch} {th : ThRef} {w : Word} {op : Nat} {run : State → Ctx → Exec} {v : Word}
    {f : Thread → Thread} (h : executes s th w op []) (hl : s.launch = some l)
    (hr : run s ⟨th, (s.th th).pos, w.toNat⟩ = .done ((vvLogged u l th (s.th th).pos v).modTh th f)) :
    ∃ l', (issue (opRow op (fun _ => []) run) th s).launch = some l' ∧
      goesOn { u with hbm := (issue (opRow op (fun _ => []) run) th s).hbm
                      launch := some { l with vvx := true, vvLog := l'.vvLog, replayedFor := l'.replayedFor } }
        (issue (opRow op (fun _ => []) run) th s) th (f (u.th th)) ((s.th th).pos + 1) ∧
      l'.vvLog = l.vvLog ++ [({ value := v, index := (s.th th).pos, th := th, red := false } : VvEntry)] ∧
      (issue (opRow op (fun _ => []) run) th s).hbm = (vvLogged u l th (s.th th).pos v).hbm := by
  have hg := goesOn_done_modTh (us := fun _ => []) h hr (counting_launch (counting_of_executes h) hl rfl rfl)
  have ht := hg.1.1
  have hh : (issue (opRow op (fun _ => []) run) th s).hbm = (vvLogged u l th (s.th th).pos v).hbm := by rw [ht]
  refine ⟨_, by rw [ht]; rfl, ?_, rfl, hh⟩
  rw [hh]; exact hg

/-- What ENTROPY leaves beside its value: the buffer without its front, and its wait counted (R447, Table 17.1). -/
def entropyDrawn (s : State) (th : ThRef) (rest : List Word) (waited : Nat) : State :=
  State.countCore { s with sec := { s.sec with drbg := rest } } th.core fun k => { k with entropyWait := sat64 k.entropyWait waited }

theorem entropyDrawn_th (s : State) (th r : ThRef) (rest : List Word) (waited : Nat) : (entropyDrawn s th rest waited).th r = s.th r :=
  countCore_th _ _ _ r

theorem vvNext_congr {s u : State} {r : ThRef} (hl : u.launch = s.launch) (hp : (u.th r).vvPos = (s.th r).vvPos) :
    vvNext u r = vvNext s r := by simp only [vvNext, hl, hp]

/-- Whether the log is full depends on the launch, the hold queues and the cursors. -/
theorem vvFull_congr {s u : State} (hl : u.launch = s.launch)
    (ht : ∀ r, (u.th r).hold = (s.th r).hold ∧ (u.th r).vvPos = (s.th r).vvPos) : vvFull u = vvFull s := by
  have hw : ∀ log, faddsWaiting u log = faddsWaiting s log := fun log => by simp only [faddsWaiting, (ht _).1, (ht _).2]
  simp only [vvFull, hl, hw]

theorem vvLogged_modTh (s : State) (l : Launch) (r q : ThRef) (index : Nat) (v : Word) (f : Thread → Thread) :
    vvLogged (s.modTh q f) l r index v = (vvLogged s l r index v).modTh q f := rfl

/-- ENTROPY's own effect with a fresh value: the value drawn and logged, its wait added to the thread's cycles (R447). -/
theorem probe_entropyDrawn {s : State} {l : Launch} {c : Ctx} (hl : s.launch = some l) (hn : vvNext s c.th = none)
    (hf : vvFull s = false) (rest : List Word) (waited : Nat) (v : Word) :
    probe ((entropyDrawn s c.th rest waited).modTh c.th fun t => { t with cycles := t.cycles + waited }) c v =
      .done ((vvLogged (entropyDrawn s c.th rest waited) l c.th c.ix v).modTh c.th
        (Thread.probed (fD c.w) v ∘ fun t => { t with cycles := t.cycles + waited })) := by
  obtain ⟨u, hu⟩ : ∃ u, u = (entropyDrawn s c.th rest waited).modTh c.th fun t => { t with cycles := t.cycles + waited } := ⟨_, rfl⟩
  have hlu : u.launch = s.launch := by simp [hu, entropyDrawn]
  have hth : ∀ r, (u.th r).hold = (s.th r).hold ∧ (u.th r).vvPos = (s.th r).vvPos := fun r => by
    rw [hu]
    by_cases hr : r = c.th
    · subst hr; simp [entropyDrawn_th]
    · simp [State.th_modTh_ne _ _ hr, entropyDrawn_th]
  rw [← hu, probe_fresh (hlu.trans hl) ((vvNext_congr hlu (hth _).2).trans hn) ((vvFull_congr hlu hth).trans hf), hu, vvLogged_modTh,
    State.modTh_modTh]

/-- CTRRD's own effect (R460). -/
def ctrrdRun (s : State) (c : Ctx) : Exec :=
  match liveCounter s c.th.core (field c.w 0 16) with
  | none => .fault .fieldRange
  | some v => probe s c (BitVec.ofNat 64 v)

theorem exec_ctrrd (th : ThRef) (s : State) : exec (.ctrrd th) s = .next (issue (opRow 0x32 (fun _ => []) ctrrdRun) th s) := rfl

theorem ctrrdRun_live {s : State} {c : Ctx} {x : Nat} (h : liveCounter s c.th.core (field c.w 0 16) = some x) :
    ctrrdRun s c = probe s c (BitVec.ofNat 64 x) := by simp only [ctrrdRun, h]

/-- ENTROPY's own effect (R447, R434). -/
def entropyRun (waited : Nat) (s : State) (c : Ctx) : Exec :=
  match vvNext s c.th, s.sec.drbg with
  | some v, _ => probe s c v
  | none, [] => if s.sec.error then .stay (haltLaunch s .security) else .stay s
  | none, v :: rest =>
    if s.sec.error then .stay (haltLaunch s .security)
    else probe ((entropyDrawn s c.th rest waited).modTh c.th fun t => { t with cycles := t.cycles + waited }) c v

theorem exec_entropy (th : ThRef) (waited : Nat) (s : State) :
    exec (.entropy th waited) s = .next (issue (opRow 0x31 (fun _ => []) (entropyRun waited)) th s) := rfl

theorem entropyRun_logged {s : State} {c : Ctx} {v : Word} (waited : Nat) (hn : vvNext s c.th = some v) :
    entropyRun waited s c = probe s c v := by simp only [entropyRun, hn]

theorem entropyRun_waits {s : State} {c : Ctx} (waited : Nat) (hn : vvNext s c.th = none) (he : s.sec.error = false)
    (hd : s.sec.drbg = []) : entropyRun waited s c = .stay s := by simp [entropyRun, hn, he, hd]

theorem entropyRun_drawn {s : State} {l : Launch} {c : Ctx} {v : Word} {rest : List Word} (waited : Nat) (hl : s.launch = some l)
    (hn : vvNext s c.th = none) (he : s.sec.error = false) (hd : s.sec.drbg = v :: rest) (hf : vvFull s = false) :
    entropyRun waited s c = .done ((vvLogged (entropyDrawn s c.th rest waited) l c.th c.ix v).modTh c.th
        (Thread.probed (fD c.w) v ∘ fun t => { t with cycles := t.cycles + waited })) := by
  rw [← probe_entropyDrawn hl hn hf]
  simp [entropyRun, hn, he, hd]

/-- Where the log's entry goes in HBM depends on HBM and its mirrors. -/
theorem vvLogged_hbm {s u : State} (hh : u.hbm = s.hbm) (hr : u.regions = s.regions) (l : Launch) (r : ThRef) (index : Nat) (v : Word) :
    (vvLogged u l r index v).hbm = (vvLogged s l r index v).hbm := by
  simp only [vvLogged, hbmWrite, hbmPlace, State.modLaunch, hh, mirrorParts_congr hr]

/-- Settles O15: each read is a probe of the log, which finds its value there, or logs the fresh one unless the log is full. -/
theorem valueVaryingReads : Obligations.ValueVaryingReads := by
  unfold Obligations.ValueVaryingReads
  intro s th w l hl
  dsimp only
  refine ⟨fun h => ⟨fun v hn => ?_, fun hn => ?_⟩, fun h waited => ⟨fun v hn => ?_, fun hn he => ⟨fun hd => ?_, fun v rest hd hf => ?_⟩⟩,
    fun h => ⟨fun hx => ?_, fun x hx => ⟨fun v hn => ?_, fun hn => ?_⟩⟩⟩
  · exact ⟨_, rfl, goesOn_probe_logged h hl hn rfl⟩
  · by_cases hf : vvFull s = true
    · rw [if_pos hf]
      exact congrArg _ (issue_fault h (probe_full hn hf _))
    · rw [if_neg hf]
      obtain ⟨l', h1, h2, h3, h4⟩ := goesOn_vvLogged (run := fun s c => probe s c s.tally) h hl (probe_fresh hl hn (by simpa using hf) _)
      exact ⟨_, l', rfl, h1, h2, h3, h4⟩
  · exact ⟨_, exec_entropy th waited s, goesOn_probe_logged h hl hn (entropyRun_logged waited hn)⟩
  · exact (exec_entropy th waited s).trans (congrArg _ (issue_stay h (entropyRun_waits waited hn he hd)))
  · obtain ⟨l', h1, h2, h3, h4⟩ := goesOn_vvLogged h hl (entropyRun_drawn waited hl hn he hd hf)
    rw [Function.comp_apply, entropyDrawn_th] at h2
    exact ⟨_, l', exec_entropy th waited s, h1, h2, h3, h4.trans (vvLogged_hbm (by simp [entropyDrawn]) (by simp [entropyDrawn]) ..)⟩
  · exact (exec_ctrrd th s).trans (congrArg _ (issue_fault h (by simp only [ctrrdRun, hx])))
  · exact ⟨_, exec_ctrrd th s, goesOn_probe_logged h hl hn (ctrrdRun_live hx)⟩
  · by_cases hf : vvFull s = true
    · rw [if_pos hf]
      exact (exec_ctrrd th s).trans (congrArg _ (issue_fault h ((ctrrdRun_live hx).trans (probe_full hn hf _))))
    · rw [if_neg hf]
      obtain ⟨l', h1, h2, h3, h4⟩ := goesOn_vvLogged h hl ((ctrrdRun_live hx).trans (probe_fresh hl hn (by simpa using hf) _))
      exact ⟨_, l', exec_ctrrd th s, h1, h2, h3, h4⟩

end Sys2Proof.Machine
end

section
/-! Proofs: effects held at issue (R40, R206, R208, R209). -/
namespace Sys2Proof.Machine

open Sys2Proof.Safety

/-- A thread with one more effect in its hold queue. -/
def Thread.holding (h : Held) (t : Thread) : Thread := { t with hold := t.hold ++ [h] }

theorem holdFull_iff (s : State) (r : ThRef) : holdFull s r = true ↔ 64 ≤ (s.th r).hold.length := by
  unfold holdFull; exact decide_eq_true_iff

/-- The first fault of a list is its head's where that condition holds, else the rest's. -/
theorem firstFault_cons (b : Bool) (f : IFault) (l : List (Bool × IFault)) :
    firstFault ((b, f) :: l) = if b = true then some f else firstFault l := by
  cases b <;> rfl

theorem otherEvent_iff (split : Bool) (t : ThreadId) (e : EventId) :
    otherEvent split t e = true ↔ split = true ∧ ¬ (e.1 < 32 ↔ t = 0) := by
  simp [otherEvent]

/-- A span of at least one byte reaches the other lane's banks (R160, R133). -/
theorem otherLane_iff {n : Nat} (hn : 0 < n) (split : Bool) (t : ThreadId) (a : Nat) : otherLane split t [(a, n)] = true ↔
    split = true ∧ (if t = 0 then 0xC0000 < a + n ∧ a < 0x180000 else a < 0xC0000) := by
  by_cases ht : t = 0 <;> simp [otherLane, Config.laneB, Config.benchEnd, ht, hn]

theorem pastBench_iff {n : Nat} (hn : 0 < n) (a b : Nat) :
    pastBench [(a, n), (b, n)] = true ↔ 0x180000 < a + n ∨ 0x180000 < b + n := by
  simp [pastBench, Config.benchEnd, hn]

section
variable {s : State} {th : ThRef} {ix w : Nat}

/-- What faults a SEND of a span to a destination, in the order of Table 8.11 (R208). -/
theorem sendFault_eq {span : SpanW} {dest : DestW} (hs : spanWord ((s.th th).regs.get (fD w)) = span)
    (hd : destWord ((s.th th).regs.get (fA w)) = dest) : sendFault s ⟨th, ix, w⟩ =
      if span.len = 0 ∨ span.len % 64 ≠ 0 ∨ 1048576 < span.len then some .fieldRange
      else if otherLane (s.core th.core).split th.t [(span.base, span.len)] = true then some .benchLane
      else if pastBench [(span.base, span.len), (dest.addr, span.len)] = true then some .benchRange
      else if holdFull s th = true then some .passHoldFull else none := by
  simp only [sendFault, Ctx.regs, hs, hd, firstFault_cons, Bool.or_eq_true, decide_eq_true_eq, or_assoc]
  rfl

/-- SEND's own effect (R208). -/
def sendRun (s : State) (c : Ctx) : Exec :=
  match sendFault s c with
  | some f => .fault f
  | none => .done (holdEffect s c.th (.send c.ix (spanWord ((Ctx.regs s c).get (fD c.w))) (destWord ((Ctx.regs s c).get (fA c.w)))
      (fEvent35 c.w) (fSUB c.w)))

theorem exec_send (th : ThRef) (s : State) : exec (.send th) s = .next (issue (opRow 0x63 (fun _ => []) sendRun) th s) := rfl

theorem sendRun_fault {f : IFault} (h : sendFault s ⟨th, ix, w⟩ = some f) : sendRun s ⟨th, ix, w⟩ = .fault f := by
  simp only [sendRun, h]

theorem sendRun_holds (h : sendFault s ⟨th, ix, w⟩ = none) : sendRun s ⟨th, ix, w⟩ =
    .done (s.modTh th (Thread.holding (.send ix (spanWord ((s.th th).regs.get (fD w))) (destWord ((s.th th).regs.get (fA w)))
      (fEvent35 w) (fSUB w)))) := by
  simp only [sendRun, h]; rfl

/-- POST's own effect (R206). -/
def postRun (s : State) (c : Ctx) : Exec :=
  if holdFull s c.th then .fault .passHoldFull
  else .done (holdEffect s c.th (.post c.ix (destWord ((Ctx.regs s c).get (fA c.w))) (fEvent35 c.w)))

theorem exec_post (th : ThRef) (s : State) : exec (.post th) s = .next (issue (opRow 0x64 (fun _ => []) postRun) th s) := rfl

/-- GRDY's own effect (R209). -/
def grdyRun (s : State) (c : Ctx) : Exec :=
  match firstFault [(otherEvent (c.split s) c.th.t (fEvent35 c.w), .fieldRange), (holdFull s c.th, .passHoldFull)] with
  | some f => .fault f
  | none => .done (holdEffect (if bit c.w 34 then markVvx s else s) c.th
      (.grdy c.ix (spanWord ((Ctx.regs s c).get (fD c.w))) (fEvent35 c.w) (field c.w 24 8) (field c.w 0 24)
        (if bit c.w 34 then some ((Ctx.regs s c).get (fA c.w)) else none)))

theorem exec_grdy (th : ThRef) (s : State) : exec (.grdy th) s = .next (issue (opRow 0x67 (fun _ => []) grdyRun) th s) := rfl

/-- What a GRDY does where Table 8.11 has a fault for it (R209). -/
theorem grdyRun_otherEvent (ho : otherEvent (s.core th.core).split th.t (fEvent35 w) = true) :
    grdyRun s ⟨th, ix, w⟩ = .fault .fieldRange := by
  have h1 : otherEvent (Ctx.split s ⟨th, ix, w⟩) th.t (fEvent35 w) = true := ho
  simp only [grdyRun, firstFault_cons, if_pos h1]

theorem grdyRun_full (ho : ¬ otherEvent (s.core th.core).split th.t (fEvent35 w) = true) (hf : holdFull s th = true) :
    grdyRun s ⟨th, ix, w⟩ = .fault .passHoldFull := by
  have h1 : ¬ otherEvent (Ctx.split s ⟨th, ix, w⟩) th.t (fEvent35 w) = true := ho
  simp only [grdyRun, firstFault_cons, if_neg h1, if_pos hf]

/-- What a GRDY that breaks no rule does: with DL it marks the completion VVX and keeps its deadline (R209). -/
theorem grdyRun_holds (ho : ¬ otherEvent (s.core th.core).split th.t (fEvent35 w) = true) (hf : ¬ holdFull s th = true) :
    grdyRun s ⟨th, ix, w⟩ = .done ((if bit w 34 then markVvx s else s).modTh th (Thread.holding
      (.grdy ix (spanWord ((s.th th).regs.get (fD w))) (fEvent35 w) (field w 24 8) (field w 0 24)
        (if bit w 34 then some ((s.th th).regs.get (fA w)) else none)))) := by
  have h1 : ¬ otherEvent (Ctx.split s ⟨th, ix, w⟩) th.t (fEvent35 w) = true := ho
  simp only [grdyRun, firstFault_cons, if_neg h1, if_neg hf]
  rfl

end

section
variable {s : State} {th : ThRef} {w : Word}

/-- SEND by the order of Table 8.11 (R208). -/
theorem send_rules {span : SpanW} {dest : DestW} (hs : spanWord ((s.th th).regs.get (fD w.toNat)) = span)
    (hd : destWord ((s.th th).regs.get (fA w.toNat)) = dest) (h : executes s th w 0x63 []) :
    let badLen := span.len = 0 ∨ span.len % 64 ≠ 0 ∨ 1048576 < span.len
    let other := (s.core th.core).split = true ∧
      (if th.t = 0 then 0xC0000 < span.base + span.len ∧ span.base < 0x180000 else span.base < 0xC0000)
    let past := 0x180000 < span.base + span.len ∨ 0x180000 < dest.addr + span.len
    let raises (f : IFault) : Prop := exec (.send th) s = .next (raiseFault s th f (s.th th).pos w)
    (badLen → raises .fieldRange) ∧ (¬ badLen → other → raises .benchLane) ∧ (¬ badLen → ¬ other → past → raises .benchRange) ∧
      (¬ badLen → ¬ other → ¬ past → 64 ≤ (s.th th).hold.length → raises .passHoldFull) ∧
      (¬ badLen → ¬ other → ¬ past → ¬ 64 ≤ (s.th th).hold.length → ∃ t, exec (.send th) s = .next t ∧
        goesOn s t th ((s.th th).holding (.send (s.th th).pos span dest (fEvent35 w.toNat) (fSUB w.toNat))) ((s.th th).pos + 1)) := by
  intro badLen other past raises
  have hfault := sendFault_eq (ix := (s.th th).pos) hs hd
  have hraises : ∀ f, sendFault s ⟨th, (s.th th).pos, w.toNat⟩ = some f → raises f := fun f hf =>
    (exec_send th s).trans (congrArg _ (issue_fault h (sendRun_fault hf)))
  have hlane : ¬ badLen → (_ ↔ other) := fun hb => otherLane_iff (by omega) (s.core th.core).split th.t span.base
  have hpast : ¬ badLen → (_ ↔ past) := fun hb => pastBench_iff (by omega) span.base dest.addr
  have hfull := holdFull_iff s th
  refine ⟨fun hb => hraises _ ?_, fun hb ho => hraises _ ?_, fun hb ho hp => hraises _ ?_,
    fun hb ho hp hf => hraises _ ?_, fun hb ho hp hf => ⟨_, exec_send th s, ?_⟩⟩
  · rw [hfault, if_pos hb]
  · rw [hfault, if_neg hb, if_pos ((hlane hb).2 ho)]
  · rw [hfault, if_neg hb, if_neg (mt (hlane hb).1 ho), if_pos ((hpast hb).2 hp)]
  · rw [hfault, if_neg hb, if_neg (mt (hlane hb).1 ho), if_neg (mt (hpast hb).1 hp), if_pos (hfull.2 hf)]
  · rw [if_neg hb, if_neg (mt (hlane hb).1 ho), if_neg (mt (hpast hb).1 hp), if_neg (mt hfull.1 hf)] at hfault
    rw [← hs, ← hd]
    exact goesOn_done_th h (sendRun_holds hfault)

/-- Settles O27: each of the three holds its effect unless a rule of Table 8.11 stops it. -/
theorem heldPosts : Obligations.HeldPosts := by
  unfold Obligations.HeldPosts
  intro s th w
  dsimp only
  have hfull := holdFull_iff s th
  have hother := otherEvent_iff (s.core th.core).split th.t (fEvent35 w.toNat)
  refine ⟨fun h => send_rules rfl rfl h, fun h => ⟨fun hf => ?_, fun hf => ?_⟩, fun h => ⟨fun ho => ?_, fun ho hf => ?_, fun ho hf => ?_⟩⟩
  · exact (exec_post th s).trans (congrArg _ (issue_fault h (if_pos (hfull.2 hf))))
  · exact ⟨_, exec_post th s, goesOn_done_th (f := Thread.holding _) h (if_neg (mt hfull.1 hf))⟩
  · exact (exec_grdy th s).trans (congrArg _ (issue_fault h (grdyRun_otherEvent (hother.2 ho))))
  · exact (exec_grdy th s).trans (congrArg _ (issue_fault h (grdyRun_full (mt hother.1 ho) (hfull.2 hf))))
  · have hrun := grdyRun_holds (ix := (s.th th).pos) (mt hother.1 ho) (mt hfull.1 hf)
    have hc := counting_of_executes h
    by_cases hb : bit w.toNat 34 = true
    · rw [if_pos hb, if_pos hb] at hrun
      rw [if_pos (show w.toNat.testBit 34 = true from hb)]
      exact ⟨_, exec_grdy th s, goesOn_done_modTh (u := markVvx s) (us := fun _ => []) h hrun (counting_markVvx hc)⟩
    · rw [if_neg hb, if_neg hb] at hrun
      rw [if_neg (show ¬ w.toNat.testBit 34 = true from hb)]
      exact ⟨_, exec_grdy th s, goesOn_done_th h hrun⟩

end

end Sys2Proof.Machine
end

section
/-! Proofs: the number of an anchor and its header (R216, R217). -/
namespace Sys2Proof.Machine

/-- `n` little-endian bytes hold a number below 256^n. -/
theorem ofBytes_lt (bs : List Byte) : ofBytes bs < 256 ^ bs.length := by
  induction bs with
  | nil => simp [ofBytes]
  | cons b bs ih =>
    rw [ofBytes, List.length_cons, pow_succ]
    have := b.isLt
    omega

/-- The header's eight bytes hold no number from 2^64 on, so no record of such an anchor is complete (R217). -/
theorem anchorRec_incomplete {n : Nat} (h : 2 ^ 64 ≤ n) (s : State) : (anchorRec s n).complete = false := by
  refine decide_eq_false fun ⟨_, hn, _⟩ => ?_
  have hl : ((anchorRec s n).header.take 8).length ≤ 8 := List.length_take_le ..
  have hb := ofBytes_lt ((anchorRec s n).header.take 8)
  have hp : 256 ^ ((anchorRec s n).header.take 8).length ≤ 256 ^ 8 := Nat.pow_le_pow_right (by norm_num) hl
  have he : (anchorRec s n).number = n := rfl
  omega

/-- An active launch of no sections. -/
def bareLaunch : Launch :=
  { d := { image := 0, start := 0, arg := 0, rangeBase := 0, rangeBytes := 0, anchorBase := 0, anchorBytes := 0, multi := false,
           backlog := false, vvCap := 0, sections := [], windows := [], windowCount := 0 }
    h := { sq := 0, tag := 0, opc := 1, slot := 0, irq := false, word := 0 }
    item := 0, seq := 1, st := .active, exc := 0, vvx := false, level := 0, late := false, lateTicks := 0, depth := false, waited := false
    short := false, firstTick := none, halt := none, otherFaults := 0, faultTick := 0, sameCycle := [], vvLog := [], anchors := []
    anchorNo := 0, attempts := 0, replay := false, replayFrom := 0, journal := [], restoreReq := [], replayedFor := []
    replayedGather := [], peerWait := [], regather := 0 }

/-- A state whose one thread of a launch is held at anchor 2^64. -/
def farAnchor : State := { State.reset with launch := some bareLaunch }.setTh ⟨0, 0⟩ { thread0 with st := .atAnchor (2 ^ 64) 0 }

theorem farAnchor_heldAnchor : heldAnchor farAnchor = some (2 ^ 64) := by decide +kernel
theorem farAnchor_allHeld : allHeld farAnchor (2 ^ 64) = true := by decide +kernel

/-- Refutes O30: its last part takes every state, also one whose thread is held at an anchor number that the eight bytes of the header
(R217) do not hold, and whose record is then not complete. Anchors that programs reach have numbers of 16 bits. -/
theorem not_releasesAndSpills : ¬ Obligations.ReleasesAndSpills := by
  intro h
  obtain ⟨hspill, _⟩ := h.2 farAnchor bareLaunch rfl
  obtain ⟨t, l', _, _, _, _, _, _, _, _, _, _, hcomplete, _⟩ := hspill _ farAnchor_heldAnchor rfl farAnchor_allHeld
  rw [anchorRec_incomplete (le_refl _)] at hcomplete
  exact absurd hcomplete (by decide)

end Sys2Proof.Machine
end

section
/-! Proofs: records that rings keep or write, and descriptors that a dispatcher takes (R240, R241, R246, R247, R260). -/
namespace Sys2Proof.Machine

open Sys2Proof.Safety

/-- From the ring `q` to the ring `q'`, while the device has sent `out`: each waiting record waits still or has been written, and what is
discarded is counted (R241, R260). -/
structure RecordsKept (cq : RingId) (q q' : CompRing) (out : List Output) : Prop where
  active : q'.active = q.active
  dropped : q'.dropped = q.dropped ∨ (q'.dropped ≤ 0xFFFF ∧ min q.dropped 0xFFFF ≤ q'.dropped)
  waiting : ∀ r ∈ q.waiting, r ∈ q'.waiting ∨ ∃ a p, Output.record cq a r p ∈ out

/-- From `s` to `t` every record is kept, written or counted. -/
structure RecordsStand (s t : State) : Prop where
  out : s.out <+: t.out
  records : ∀ cq : RingId, RecordsKept cq s.comps[cq] t.comps[cq] (t.out.drop s.out.length)

/-- From `s` to `t` only rings have moved and every record stands; no open work item has been numbered, and the trace stands where it
is off. -/
structure RingsMove (s t : State) : Prop extends RecordsStand s t where
  only : ringsOnly s t
  nextItem : t.nextItem = s.nextItem
  quiet : s.trace.enabled = false → t.trace = s.trace

theorem RecordsKept.refl (cq : RingId) (q : CompRing) (out : List Output) : RecordsKept cq q q out :=
  ⟨rfl, .inl rfl, fun _ h => .inl h⟩

/-- The records stand where the completion rings do and the device has only sent. -/
theorem RecordsStand.of_comps {s t : State} (hc : t.comps = s.comps) (ho : s.out <+: t.out) : RecordsStand s t :=
  ⟨ho, fun cq => by rw [hc]; exact .refl ..⟩

theorem RingsMove.of_comps {s t : State} (h : ringsOnly s t) (ho : s.out <+: t.out) (hn : t.nextItem = s.nextItem)
    (hq : s.trace.enabled = false → t.trace = s.trace) (hc : t.comps = s.comps) : RingsMove s t :=
  ⟨.of_comps hc ho, h, hn, hq⟩

theorem RingsMove.refl (s : State) : RingsMove s s := .of_comps (ringsOnly_refl s) List.prefix_rfl rfl (fun _ => rfl) rfl

/-- What is sent in two parts is sent after the first state. -/
theorem mem_sent_trans {s t u : List Output} (h1 : s <+: t) (h2 : t <+: u) {o : Output}
    (h : o ∈ t.drop s.length ∨ o ∈ u.drop t.length) : o ∈ u.drop s.length := by
  obtain ⟨a, rfl⟩ := h1
  obtain ⟨b, rfl⟩ := h2
  rw [List.drop_left, List.drop_left] at h
  rw [List.append_assoc, List.drop_left]
  exact List.mem_append.2 h

theorem RecordsStand.trans {s t u : State} (h1 : RecordsStand s t) (h2 : RecordsStand t u) : RecordsStand s u := by
  refine ⟨h1.out.trans h2.out, fun cq => ⟨?_, ?_, fun r hr => ?_⟩⟩
  · exact (h2.records cq).active.trans (h1.records cq).active
  · have d1 := (h1.records cq).dropped
    have d2 := (h2.records cq).dropped
    omega
  · rcases (h1.records cq).waiting r hr with hw | ⟨a, p, ho⟩
    · exact ((h2.records cq).waiting r hw).imp_right fun ⟨a, p, ho⟩ => ⟨a, p, mem_sent_trans h1.out h2.out (.inr ho)⟩
    · exact .inr ⟨a, p, mem_sent_trans h1.out h2.out (.inl ho)⟩

theorem RingsMove.trans {s t u : State} (h1 : RingsMove s t) (h2 : RingsMove t u) : RingsMove s u :=
  ⟨h1.toRecordsStand.trans h2.toRecordsStand, ringsOnly_trans h1.only h2.only, h2.nextItem.trans h1.nextItem, fun hq =>
    (h2.quiet (h1.only.traceEnabled.trans hq)).trans (h1.quiet hq)⟩

/-- Steps of a fold that each move only rings move only rings together. -/
theorem RingsMove.foldl {α : Type} {f : State → α → State} (hf : ∀ s x, RingsMove s (f s x)) (l : List α) (s : State) :
    RingsMove s (l.foldl f s) := by
  induction l generalizing s with
  | nil => exact .refl s
  | cons x l ih => exact (hf s x).trans (ih (f s x))

/-! The operations. -/

theorem ringsMove_tracePush {s : State} (r : TraceRec) (he : s.trace.enabled = true) : RingsMove s (tracePush s r) := by
  have h := tracePush_rest s r
  refine .of_comps (ringsOnly_tracePush s r) ?_ (by rw [h]) (fun hq => absurd he (by simp [hq])) (by rw [h])
  rw [h]

theorem ringsMove_traceDispatch (s : State) (sq : RingId) (slot : Nat) (word : Word) : RingsMove s (traceDispatch s sq slot word) := by
  unfold traceDispatch
  split
  · next h => exact ringsMove_tracePush _ (by simp only [Bool.and_eq_true] at h; exact h.1)
  · exact .refl s

theorem ringsMove_raiseVector (s : State) (v : Fin 64) (holdoff : Nat) : RingsMove s (raiseVector s v holdoff) := by
  have hr := ringsOnly_raiseVector s v holdoff
  revert hr
  unfold raiseVector
  dsimp only
  split
  · exact fun hr => .of_comps hr List.prefix_rfl rfl (fun _ => rfl) rfl
  · split
    · exact fun hr => .of_comps hr List.prefix_rfl rfl (fun _ => rfl) rfl
    · exact fun hr => .of_comps hr (List.prefix_append ..) rfl (fun _ => rfl) rfl

/-- A record at its slot: TAIL moves on, its item closes and the device sends it (R247, R259). -/
def recordPut (s : State) (cq : RingId) (r : Rec) (a : Nat) (p : Bool) : State :=
  { s with comps := vset s.comps cq { s.comps[cq] with tailPos := (s.comps[cq].tailPos + 1) % 2 ^ 32 }
           items := s.items.filter fun i => decide (r.closes ≠ some i.id)
           out := s.out ++ [.record cq a r p] }

/-- A written record may call for a message (R267). -/
theorem putRecord_cases (s : State) (cq : RingId) (r : Rec) : ∃ a p, putRecord s cq r = recordPut s cq r a p ∨
    ∃ v h, putRecord s cq r = raiseVector (recordPut s cq r a p) v h := by
  unfold putRecord
  dsimp only
  split
  · exact ⟨_, _, .inr ⟨_, _, rfl⟩⟩
  · exact ⟨_, _, .inl rfl⟩

/-- A ring whose front record has been taken off, with the rest waiting. -/
def frontTaken (s : State) (cq : RingId) (rest : List Rec) (f : Bool) : State :=
  { s with comps := vset s.comps cq { s.comps[cq] with waiting := rest, full := f } }

/-- The record at a ring's front is written. -/
theorem ringsMove_recordPut {s : State} {cq : RingId} {r : Rec} {rest : List Rec} (h : s.comps[cq].waiting = r :: rest) (f : Bool)
    (a : Nat) (p : Bool) : RingsMove s (recordPut (frontTaken s cq rest f) cq r a p) := by
  refine ⟨⟨List.prefix_append .., fun m => ?_⟩, rfl, rfl, fun _ => rfl⟩
  have hc : (recordPut (frontTaken s cq rest f) cq r a p).comps = vset s.comps cq
      { s.comps[cq] with waiting := rest, full := f, tailPos := (s.comps[cq].tailPos + 1) % 2 ^ 32 } := by
    simp only [recordPut, frontTaken, vset_vset, vset_same]
  rw [hc, show (recordPut (frontTaken s cq rest f) cq r a p).out = s.out ++ [.record cq a r p] from rfl, List.drop_left]
  by_cases hm : m = cq
  · subst hm
    rw [vset_same]
    refine ⟨rfl, .inl rfl, fun x hx => ?_⟩
    rw [h] at hx
    rcases List.mem_cons.1 hx with rfl | hx
    · exact .inr ⟨a, p, List.mem_singleton_self _⟩
    · exact .inl hx
  · rw [vset_ne _ _ hm]
    exact .refl ..

theorem ringsMove_putFront {s : State} {cq : RingId} {r : Rec} {rest : List Rec} (h : s.comps[cq].waiting = r :: rest) (f : Bool) :
    RingsMove s (putRecord (frontTaken s cq rest f) cq r) := by
  obtain ⟨a, p, hp | ⟨v, d, hp⟩⟩ := putRecord_cases (frontTaken s cq rest f) cq r
  · rw [hp]; exact ringsMove_recordPut h f a p
  · rw [hp]; exact (ringsMove_recordPut h f a p).trans (ringsMove_raiseVector _ _ _)

/-- A ring's FULL changes no record. -/
theorem ringsMove_setFull (s : State) (cq : RingId) (f : Bool) :
    RingsMove s { s with comps := vset s.comps cq { s.comps[cq] with full := f } } := by
  refine ⟨⟨List.prefix_rfl, fun m => ?_⟩, rfl, rfl, fun _ => rfl⟩
  by_cases hm : m = cq
  · subst hm
    rw [show (vset s.comps m _)[m] = _ from vset_same ..]
    exact ⟨rfl, .inl rfl, fun _ h => .inl h⟩
  · rw [show (vset s.comps cq _)[m] = _ from vset_ne _ _ hm]
    exact .refl ..

/-- What draining a ring once does (R260): it stops, with FULL or WAKE# set at most, or writes the record at the front and goes on. -/
theorem drainRing_step (n : Nat) (s : State) (cq : RingId) :
    (∃ f, drainRing (n + 1) s cq = { s with comps := vset s.comps cq { s.comps[cq] with full := f } }) ∨
    (∃ b, drainRing (n + 1) s cq = { s with power := { s.power with wakeN := b } }) ∨
    ∃ r rest f, s.comps[cq].waiting = r :: rest ∧ drainRing (n + 1) s cq = drainRing n (putRecord (frontTaken s cq rest f) cq r) cq := by
  rw [drainRing]
  dsimp only
  split
  · exact .inl ⟨false, rfl⟩
  · rename_i r rest hw
    by_cases hl : s.power.linkL2 = true
    · rw [if_pos hl]
      split
      · exact .inr (.inl ⟨true, rfl⟩)
      · exact .inr (.inl ⟨s.power.wakeN, rfl⟩)
    · rw [if_neg hl]
      by_cases hi : (r.after.any fun i => s.items.any fun j => decide (j.id = i)) = true
      · rw [if_pos hi]
        exact .inr (.inl ⟨s.power.wakeN, rfl⟩)
      · rw [if_neg hi]
        by_cases hf : (if r.more = true then 2 else 1) ≤ ringFree s.comps[cq]
        · rw [if_pos hf]
          exact .inr (.inr ⟨r, rest, _, hw, rfl⟩)
        · rw [if_neg hf]
          exact .inl ⟨true, rfl⟩

theorem ringsMove_drainRing (n : Nat) (s : State) (cq : RingId) : RingsMove s (drainRing n s cq) := by
  induction n generalizing s with
  | zero => exact .refl s
  | succ n ih =>
    rcases drainRing_step n s cq with ⟨f, h⟩ | ⟨b, h⟩ | ⟨r, rest, f, hw, h⟩
    · rw [h]; exact ringsMove_setFull s cq f
    · rw [h]; exact .of_comps rfl List.prefix_rfl rfl (fun _ => rfl) rfl
    · rw [h]; exact (ringsMove_putFront hw f).trans (ih _)

/-- A record joins those that wait at its ring; the item it closes is closing (R247, R260). -/
def recordWaits (s : State) (cq : RingId) (r : Rec) : State :=
  { s with comps := vset s.comps cq { s.comps[cq] with waiting := s.comps[cq].waiting ++ [r] }
           items := s.items.map fun i => if r.closes = some i.id then { i with closing := true } else i }

/-- A record for a ring that is not ACTIVE is discarded and counted (R241). -/
def recordDropped (s : State) (cq : RingId) (r : Rec) : State :=
  { s with comps := vset s.comps cq { s.comps[cq] with dropped := min (s.comps[cq].dropped + 1) 0xFFFF }
           items := s.items.filter fun i => decide (r.closes ≠ some i.id) }

theorem writeRecord_active {s : State} {cq : RingId} (h : s.comps[cq].active = true) (r : Rec) :
    writeRecord s cq r = drainRing (s.comps[cq].waiting.length + 1) (recordWaits s cq r) cq := by
  unfold writeRecord
  dsimp only
  rw [if_neg (by simp only [h]; decide)]
  rfl

theorem writeRecord_inactive {s : State} {cq : RingId} (h : s.comps[cq].active = false) (r : Rec) :
    writeRecord s cq r = recordDropped s cq r := by
  unfold writeRecord
  dsimp only
  rw [if_pos (by simp only [h]; decide)]
  rfl

theorem recordWaits_comps (s : State) (cq : RingId) (r : Rec) :
    (recordWaits s cq r).comps[cq] = { s.comps[cq] with waiting := s.comps[cq].waiting ++ [r] } := vset_same _ _ _

theorem recordDropped_comps (s : State) (cq : RingId) (r : Rec) :
    (recordDropped s cq r).comps[cq] = { s.comps[cq] with dropped := min (s.comps[cq].dropped + 1) 0xFFFF } := vset_same _ _ _

theorem ringsMove_recordWaits (s : State) (cq : RingId) (r : Rec) : RingsMove s (recordWaits s cq r) := by
  refine ⟨⟨List.prefix_rfl, fun m => ?_⟩, rfl, rfl, fun _ => rfl⟩
  by_cases hm : m = cq
  · subst hm
    rw [recordWaits_comps]
    exact ⟨rfl, .inl rfl, fun x hx => .inl (List.mem_append_left _ hx)⟩
  · rw [show (recordWaits s cq r).comps[m] = _ from vset_ne _ _ hm]
    exact .refl ..

theorem ringsMove_recordDropped (s : State) (cq : RingId) (r : Rec) : RingsMove s (recordDropped s cq r) := by
  refine ⟨⟨List.prefix_rfl, fun m => ?_⟩, rfl, rfl, fun _ => rfl⟩
  by_cases hm : m = cq
  · subst hm
    rw [recordDropped_comps]
    exact ⟨rfl, .inr ⟨min_le_right _ _, by dsimp only; omega⟩, fun x hx => .inl hx⟩
  · rw [show (recordDropped s cq r).comps[m] = _ from vset_ne _ _ hm]
    exact .refl ..

theorem ringsMove_writeRecord (s : State) (cq : RingId) (r : Rec) : RingsMove s (writeRecord s cq r) := by
  cases h : s.comps[cq].active with
  | true => rw [writeRecord_active h]; exact (ringsMove_recordWaits s cq r).trans (ringsMove_drainRing _ _ _)
  | false => rw [writeRecord_inactive h]; exact ringsMove_recordDropped s cq r

theorem ringsMove_eventRecord (s : State) (ev status : Nat) (details : List (Nat × Nat × Nat)) :
    RingsMove s (eventRecord s ev status details) :=
  (RingsMove.of_comps (t := s.emit (.uart s.tally)) rfl (List.prefix_append ..) rfl (fun _ => rfl) rfl).trans (ringsMove_writeRecord _ _ _)

theorem ringsMove_completeDesc (s : State) (h : DHead) (status result : Nat) (closes : Option Nat) :
    RingsMove s (completeDesc s h status result closes) :=
  (ringsMove_traceDispatch s _ _ _).trans (ringsMove_writeRecord _ _ _)

theorem ringsMove_takeFront (s : State) (sq : RingId) : RingsMove s (takeFront s sq) :=
  .of_comps rfl List.prefix_rfl rfl (fun _ => rfl) rfl

theorem ringsMove_startFetch (s : State) (sq : RingId) : RingsMove s (startFetch s sq) := by
  unfold startFetch
  dsimp only
  split
  · exact .of_comps rfl (List.prefix_append ..) rfl (fun _ => rfl) rfl
  · exact .refl s

theorem ringsMove_skipUnknown (k : Nat) (s : State) (n : Fin 4) : RingsMove s (skipUnknown k s n) := by
  induction k generalizing s with
  | zero => exact .refl s
  | succ k ih =>
    unfold skipUnknown
    split
    · exact .refl s
    · split
      · exact .refl s
      · split
        · exact .refl s
        · exact (ringsMove_takeFront s _).trans ((ringsMove_completeDesc _ _ _ _ _).trans (ih _))

theorem ringsMove_pumpRings (s : State) : RingsMove s (pumpRings s) :=
  (RingsMove.foldl (ringsMove_skipUnknown _) _ s).trans (RingsMove.foldl ringsMove_startFetch _ _)

theorem ringsMove_completeItem (s : State) (i : Item) (status result : Nat) : RingsMove s (completeItem s i status result) :=
  ringsMove_completeDesc s _ _ _ _

theorem ringsMove_finishItem (s : State) (i : Item) (status result : Nat) : RingsMove s (finishItem s i status result) :=
  (ringsMove_completeItem s i status result).trans (ringsMove_pumpRings _)

/-! A record that is given. -/

/-- A record that has been written for a ring has been given, whatever the rings do before and after (R241, R260). -/
theorem recordGiven_of_moves {s t u : State} {cq : RingId} {r : Rec} (h1 : RecordsStand s t) (h2 : RecordsStand (writeRecord t cq r) u) :
    recordGiven s u cq r := by
  have hact := (h1.records cq).active
  unfold recordGiven
  cases ha : t.comps[cq].active with
  | true =>
    rw [if_pos (by rw [← hact]; exact ha)]
    rw [writeRecord_active ha] at h2
    have h3 := (ringsMove_drainRing _ (recordWaits t cq r) cq).toRecordsStand.trans h2
    have hr : r ∈ (recordWaits t cq r).comps[cq].waiting := by
      rw [recordWaits_comps]; exact List.mem_append_right _ (List.mem_singleton_self r)
    exact ((h3.records cq).waiting r hr).imp_right fun ⟨a, p, ho⟩ => ⟨a, p, mem_sent_trans h1.out h3.out (.inr ho)⟩
  | false =>
    rw [if_neg (by rw [← hact, ha]; decide)]
    rw [writeRecord_inactive ha] at h2
    have d1 := (h1.records cq).dropped
    have d2 := (h2.records cq).dropped
    rw [recordDropped_comps] at d2
    dsimp only at d2
    omega

end Sys2Proof.Machine
end

section
/-! Proofs: descriptors that are answered at once or accepted as open work items (R246, R247, R250). -/
namespace Sys2Proof.Machine

open Sys2Proof.Safety

/-- A dispatcher that picks a ring hands its front descriptor to the row it is of (R246). -/
theorem dispatch_offered {s : State} {sq : RingId} {d : Desc} {isRow : Desc → Bool} {k : State → Desc → DHead → State}
    (h : offered s sq d) (hr : isRow d = true) : dispatch s sq isRow k = pumpRings (k (takeFront s sq) d (headOf s sq d)) := by
  obtain ⟨hd, hk, hp⟩ := h
  obtain ⟨rest, hf⟩ : ∃ rest, (s.subs[sq]).fetched = d :: rest := by
    cases hf : (s.subs[sq]).fetched with
    | nil => rw [hf] at hd; exact absurd hd (by simp)
    | cons x rest =>
      rw [hf, List.head?_cons, Option.some.injEq] at hd
      exact ⟨rest, by rw [hd]⟩
  unfold dispatch
  simp only [hf]
  rw [if_pos (by simp only [hk, hr, hp, decide_true, Bool.and_self])]

/-- A descriptor that passes every check goes on (R250). -/
theorem checked_pass {s k : State} {h : DHead} {cs : List (Bool × Nat)} (hc : firstFail cs = none) : checked s h cs k = k := by
  have h1 : firstFail (cs.take 1) = none := by
    match cs with
    | [] => rfl
    | (ok, st) :: rest => cases ok with
      | true => rfl
      | false => simp [firstFail] at hc
  unfold checked
  simp only [h1, hc]

/-- A descriptor that passes check 2 and is locked is answered so (R250, R428). -/
theorem checked_locked {s k : State} {h : DHead} {cs : List (Bool × Nat)} (h1 : firstFail (cs.take 1) = none)
    (hc : firstFail cs = some stLocked) : checked s h cs k = completeDesc s h stLocked 0 none := by
  unfold checked
  simp only [h1, hc]
  rfl

theorem firstFail_cons_true {b : Bool} (h : b = true) (st : Nat) (cs : List (Bool × Nat)) :
    firstFail ((b, st) :: cs) = firstFail cs := by subst h; rfl

theorem firstFail_cons_false {b : Bool} (h : b = false) (st : Nat) (cs : List (Bool × Nat)) :
    firstFail ((b, st) :: cs) = some st := by subst h; rfl

/-! What a record does to the open work items (R247). -/

theorem drainRing_items (n : Nat) (s : State) (cq : RingId) : (drainRing n s cq).items.Sublist s.items := by
  induction n generalizing s with
  | zero => exact List.Sublist.refl _
  | succ n ih =>
    rcases drainRing_step n s cq with ⟨f, h⟩ | ⟨b, h⟩ | ⟨r, rest, f, _, h⟩
    · rw [h]
    · rw [h]
    · rw [h]
      refine (ih _).trans ?_
      obtain ⟨a, p, hp | ⟨v, g, hp⟩⟩ := putRecord_cases (frontTaken s cq rest f) cq r
      · rw [hp]; exact List.filter_sublist
      · obtain ⟨x, o, hv⟩ := raiseVector_eq (recordPut (frontTaken s cq rest f) cq r a p) v g
        rw [hp, hv]; exact List.filter_sublist

/-- Items that a record's writing leaves stand as they were, or are the one it closes, closing. -/
theorem mem_writeRecord_items {s : State} {cq : RingId} {r : Rec} {j : Item} (h : j ∈ (writeRecord s cq r).items) :
    j ∈ s.items ∨ (r.closes = some j.id ∧ j.closing = true) := by
  cases ha : s.comps[cq].active with
  | false => rw [writeRecord_inactive ha] at h; exact .inl (List.mem_of_mem_filter h)
  | true =>
    rw [writeRecord_active ha] at h
    obtain ⟨i, hi, he⟩ := List.mem_map.1 ((drainRing_items _ _ _).subset h)
    split at he
    · next hc => subst he; exact .inr ⟨hc, rfl⟩
    · subst he; exact .inl hi

theorem traceDispatch_items (s : State) (sq : RingId) (slot : Nat) (word : Word) : (traceDispatch s sq slot word).items = s.items := by
  unfold traceDispatch
  split
  · rw [tracePush_rest]
  · rfl

theorem traceDispatch_subs (s : State) (sq : RingId) (slot : Nat) (word : Word) : (traceDispatch s sq slot word).subs = s.subs := by
  unfold traceDispatch
  split
  · rw [tracePush_rest]
  · rfl

theorem completeDesc_subs (s : State) (h : DHead) (status result : Nat) (closes : Option Nat) :
    (completeDesc s h status result closes).subs = s.subs := (writeRecord_subs _ _ _).trans (traceDispatch_subs ..)

theorem mem_completeDesc_items {s : State} {h : DHead} {status result : Nat} {closes : Option Nat} {j : Item}
    (hj : j ∈ (completeDesc s h status result closes).items) : j ∈ s.items ∨ (closes = some j.id ∧ j.closing = true) := by
  have := mem_writeRecord_items hj
  rwa [traceDispatch_items] at this

/-! Answers. -/

theorem takeFront_cq (s : State) (sq : RingId) : ((takeFront s sq).subs[sq]).cq = (s.subs[sq]).cq := by
  rw [takeFront]; dsimp only; rw [vset_same]

/-- The record of a descriptor is given as it is completed, in whatever state the rings have come to since it was taken. -/
theorem recordGiven_completeDesc {s v : State} {sq : RingId} {d : Desc} {status result : Nat} {closes : Option Nat}
    (hs : v.subs = (takeFront s sq).subs) (hm : RecordsStand s v) :
    recordGiven s (completeDesc v (headOf s sq d) status result closes) (s.subs[sq]).cq (doneRec (headOf s sq d) status result closes) := by
  obtain ⟨x, hx⟩ : ∃ x, x = traceDispatch v sq (headOf s sq d).slot (headOf s sq d).word := ⟨_, rfl⟩
  have hcq : cqOf x sq = (s.subs[sq]).cq := by rw [cqOf, hx, traceDispatch_subs, hs, takeFront_cq]
  have hw : completeDesc v (headOf s sq d) status result closes = writeRecord x (cqOf x sq) (doneRec (headOf s sq d) status result closes) := by
    rw [hx]; rfl
  rw [hw, hcq]
  exact recordGiven_of_moves (hx ▸ hm.trans (ringsMove_traceDispatch v sq _ _).toRecordsStand) (.of_comps rfl List.prefix_rfl)

/-- A descriptor that is refused before its acceptance is answered, and no item is opened (R246, R247). -/
theorem completes_completeDesc {c : Instr} {s v : State} {sq : RingId} {d : Desc} {status result : Nat}
    (hx : exec c s = .next (pumpRings (completeDesc v (headOf s sq d) status result none))) (hs : v.subs = (takeFront s sq).subs)
    (hi : ∀ j ∈ v.items, j ∈ s.items) (hm : RecordsStand s v) :
    completes c s (completeDesc v (headOf s sq d) status result none) sq d status result := by
  refine ⟨hx, (completeDesc_subs ..).trans hs, fun j hj => ?_, none, .inl rfl, recordGiven_completeDesc hs hm⟩
  rcases mem_completeDesc_items hj with h | ⟨h, _⟩
  · exact .inl (hi j h)
  · exact absurd h (by simp)

/-- A descriptor that is done at once is answered: its item is closing until the record is written (R247). -/
theorem completes_answerDesc {c : Instr} {s v : State} {sq : RingId} {d : Desc} {status result : Nat}
    (hx : exec c s = .next (pumpRings (answerDesc v (headOf s sq d) status result))) (hs : v.subs = (takeFront s sq).subs)
    (hi : ∀ j ∈ v.items, j ∈ s.items) (hn : v.nextItem = s.nextItem) (hm : RecordsStand s v) :
    completes c s (answerDesc v (headOf s sq d) status result) sq d status result := by
  have hg := recordGiven_completeDesc (d := d) (status := status) (result := result) (closes := some v.nextItem)
    (v := { v with items := v.items ++ [{ id := v.nextItem, h := headOf s sq d, ordered := false, kind := .answered, closing := true }]
                   nextItem := v.nextItem + 1 }) hs (hm.trans (.of_comps rfl List.prefix_rfl))
  rw [hn] at hg
  refine ⟨hx, (completeDesc_subs ..).trans hs, fun j hj => ?_, some s.nextItem, .inr rfl, ?_⟩
  · rcases mem_completeDesc_items hj with h | ⟨h, hc⟩
    · rcases List.mem_append.1 h with h | h
      · exact .inl (hi j h)
      · rw [List.mem_singleton.1 h]; exact .inr ⟨hn, rfl⟩
    · exact .inr ⟨by rw [← hn]; exact (Option.some.inj h).symm, hc⟩
  · unfold answerDesc
    rw [hn]
    exact hg

theorem hostOnly_answerDesc (s : State) (h : DHead) (status result : Nat) : hostOnly s (answerDesc s h status result) :=
  hostOnly_trans (t := { s with
    items := s.items ++ [{ id := s.nextItem, h := h, ordered := false, kind := .answered, closing := true }]
    nextItem := s.nextItem + 1 }) rfl (ringsOnly_completeDesc ..).hostOnly

/-- Accepting a descriptor adds an open work item of the next number (R247). -/
theorem acceptItem_eq (s : State) (d : Desc) (h : DHead) (k : ItemKind) : ∃ t, RingsMove s t ∧ t.subs = s.subs ∧ t.items = s.items ∧
    acceptItem s d h k = { t with
      items := s.items ++ [{ id := s.nextItem, h := h, ordered := d.order, kind := k, closing := false }]
      nextItem := s.nextItem + 1 } := by
  refine ⟨_, ringsMove_traceDispatch s h.sq h.slot h.word, traceDispatch_subs .., traceDispatch_items .., ?_⟩
  unfold acceptItem
  dsimp only
  rw [traceDispatch_items, (ringsMove_traceDispatch s h.sq h.slot h.word).nextItem]

theorem hostOnly_acceptItem (s : State) (d : Desc) (h : DHead) (k : ItemKind) : hostOnly s (acceptItem s d h k) := by
  obtain ⟨t, hm, _, _, he⟩ := acceptItem_eq s d h k
  rw [he]
  exact hostOnly_trans hm.only.hostOnly rfl

theorem acceptItem_nextItem (s : State) (d : Desc) (h : DHead) (k : ItemKind) : (acceptItem s d h k).nextItem = s.nextItem + 1 := by
  obtain ⟨t, _, _, _, he⟩ := acceptItem_eq s d h k
  rw [he]

theorem acceptItem_items (s : State) (d : Desc) (h : DHead) (k : ItemKind) : (acceptItem s d h k).items =
    s.items ++ [{ id := s.nextItem, h := h, ordered := d.order, kind := k, closing := false }] := by
  obtain ⟨t, _, _, _, he⟩ := acceptItem_eq s d h k
  rw [he]

theorem acceptItem_subs (s : State) (d : Desc) (h : DHead) (k : ItemKind) : (acceptItem s d h k).subs = s.subs := by
  obtain ⟨t, _, hs, _, he⟩ := acceptItem_eq s d h k
  rw [he]; exact hs

end Sys2Proof.Machine
end

section
/-! Proofs: changes of the performance level (R382 to R385, R398). -/
namespace Sys2Proof.Machine

open Sys2Proof.Safety

/-- From `s` to `t` only the power stage and the host interface have moved. -/
def hostPower (s t : State) : Prop := hostOnly { s with power := t.power } t

theorem hostPower_trans {s t u : State} (h1 : hostPower s t) (h2 : hostPower t u) : hostPower s u := by
  unfold hostPower Safety.hostOnly at *; rw [h2, h1]

theorem hostPower_of_hostOnly {s t : State} (h : hostOnly s t) : hostPower s t := by
  unfold hostPower Safety.hostOnly at *; rw [h]

/-- What the rings move of the power stage is WAKE# (R505). -/
theorem ringsOnly_power {s t : State} (h : ringsOnly s t) : t.power = { s.power with wakeN := t.power.wakeN } := by
  unfold ringsOnly at h; rw [h]

theorem hostOnly_power {s t : State} (h : hostOnly s t) : ∃ b, t.power = { s.power with wakeN := b } := by
  unfold Safety.hostOnly at h; exact ⟨t.power.wakeN, by rw [h]⟩

theorem hostPower_launch {s t : State} (h : hostPower s t) : t.launch = s.launch := by
  unfold hostPower Safety.hostOnly at h; rw [h]

theorem launchActive_congr {s t : State} (h : t.launch = s.launch) : t.launchActive = s.launchActive := by
  unfold State.launchActive; rw [h]

/-- What the level cap reads of a domain (R374). -/
def capKey (d : Domain) : Bool × BitVec 7 := (d.lost, d.phases)

/-- Domains that a cap does not tell apart. -/
def sameCap (a b : Vector Domain 16) : Prop := a.toList.map capKey = b.toList.map capKey

theorem sameCap_vmod (v : Vector Domain 16) (c : Fin 16) {f : Domain → Domain} (hf : ∀ d, capKey (f d) = capKey d) :
    sameCap (vmod v c f) v := by
  unfold sameCap
  refine List.ext_getElem (by simp) fun i h1 h2 => ?_
  simp only [List.getElem_map, Vector.getElem_toList]
  by_cases hi : i = c.1
  · subst hi; simp [vmod, vset, hf]
  · have hne : c.1 ≠ i := fun e => hi e.symm
    simp [vmod, vset, hne]

/-- Settling the STR measures touches the measure and since when each domain owes (R395). -/
theorem settleStrs_eq (s : State) (roots : Nat) : ∃ c ds, sameCap ds s.power.domains ∧
    settleStrs s roots = { s with ctrs := c, power := { s.power with domains := ds } } := by
  have hfold : ∀ (l : List (Fin 16)) (s : State), ∃ c ds, sameCap ds s.power.domains ∧
      l.foldl (fun s c => settleStr s c roots) s = { s with ctrs := c, power := { s.power with domains := ds } } := by
    intro l
    induction l with
    | nil => exact fun s => ⟨s.ctrs, s.power.domains, rfl, rfl⟩
    | cons x l ih =>
      intro s
      obtain ⟨c, ds, hd, h⟩ := ih (settleStr s x roots)
      rw [settleStr_eq] at hd
      exact ⟨c, ds, hd.trans (sameCap_vmod _ _ fun _ => rfl), by rw [List.foldl_cons, h, settleStr_eq]⟩
  exact hfold _ s

theorem capLevel_congr {s t : State} (h : sameCap t.power.domains s.power.domains) : capLevel t = capLevel s := by
  have hkey : ∀ l : List Domain, l.foldl (fun m d => if d.lost then m else slower m (capOf (phaseCount d.phases))) (0 : Fin 5) =
      (l.map capKey).foldl (fun m k => if k.1 then m else slower m (capOf (phaseCount k.2))) 0 := fun l => by rw [List.foldl_map]; rfl
  unfold capLevel
  rw [hkey, hkey, h]

/-- The level to be in force depends on the launch, the requested level, the cap and the throttle (R385, R398). -/
theorem targetLevel_congr {s t : State} (hl : t.launch = s.launch) (hr : t.power.requested = s.power.requested)
    (hd : sameCap t.power.domains s.power.domains) (ht : t.power.throttle = s.power.throttle) : targetLevel t = targetLevel s := by
  have ha : t.launchActive = s.launchActive := by unfold State.launchActive; rw [hl]
  unfold targetLevel baseLevel askedLevel
  rw [hl, ha, hr, ht, capLevel_congr hd]

/-- The divider of a level, and since when each domain owes its STR measure (R384, R395). -/
theorem stepDivider_eq (s : State) (l : Fin 5) : ∃ c ds, sameCap ds s.power.domains ∧
    stepDivider s l = { s with ctrs := c, power := { s.power with domains := ds, level := l } } := by
  obtain ⟨c, ds, hd, h⟩ := settleStrs_eq s 0
  exact ⟨c, ds, hd, by rw [stepDivider, h]⟩

/-- A change to the level to be in force begins unless one is under way, a lower level's divider first (R384). -/
theorem startChange_eq (s : State) : ∃ c ds, sameCap ds s.power.domains ∧ startChange s = { s with
    ctrs := c
    power := { s.power with
      domains := ds
      level := if s.power.changing = none then slower s.power.level (targetLevel s) else s.power.level
      changing := if s.power.changing = none ∧ s.power.level ≠ targetLevel s then some (targetLevel s) else s.power.changing } } := by
  by_cases hc : s.power.changing = none
  · by_cases hl : s.power.level = targetLevel s
    · refine ⟨s.ctrs, s.power.domains, rfl, ?_⟩
      rw [if_pos hc, if_neg (by simp [hl]), ← hl, show slower s.power.level s.power.level = s.power.level by simp [slower]]
      exact if_neg (by simp [hl])
    · obtain ⟨c, ds, hd, h⟩ := stepDivider_eq s (targetLevel s)
      have hb : startChange s = { (if s.power.level < targetLevel s then stepDivider s (targetLevel s) else s) with
          power := { (if s.power.level < targetLevel s then stepDivider s (targetLevel s) else s).power with
            changing := some (targetLevel s) } } := if_pos (by simp [hc, hl])
      rw [if_pos hc, if_pos ⟨hc, hl⟩, hb]
      by_cases hlt : s.power.level < targetLevel s
      · refine ⟨c, ds, hd, ?_⟩
        rw [if_pos hlt, h, slower, if_pos hlt.le]
      · refine ⟨s.ctrs, s.power.domains, rfl, ?_⟩
        rw [if_neg hlt, slower, if_neg fun hle => hl (by omega)]
  · refine ⟨s.ctrs, s.power.domains, rfl, ?_⟩
    rw [if_neg hc, if_neg fun h => hc h.1]
    exact if_neg (by simp [hc])

theorem hostPower_startChange (s : State) : hostPower s (startChange s) := by
  obtain ⟨c, ds, _, h⟩ := startChange_eq s
  rw [h]; rfl

theorem ringsMove_settleLevel (s : State) : RingsMove s (settleLevel s) := by
  unfold settleLevel
  split
  · exact RingsMove.foldl (fun s i => ringsMove_finishItem s i _ _) _ s
  · exact .refl s

theorem applyLevel_active {s : State} (h : s.launchActive = true) : applyLevel s = s := if_pos h

/-- With no launch active a waiting SET_LEVEL takes effect: its timers, its level, the guard band and the trims (R383, R385, R389). -/
def levelPower (s : State) : Power :=
  { s.power with
    trims := Vector.ofFn fun c : Fin 16 => trimOf s c.1
    guardBand := min 4 (s.power.guardBand + s.power.guardOwed), guardOwed := 0
    timers := s.power.pendingTimers.getD s.power.timers, pendingTimers := none }

theorem applyLevel_stays {s : State} (h : s.launchActive = false) (hp : s.power.pendingLevel = none) :
    applyLevel s = { s with power := levelPower s } := by
  unfold applyLevel
  simp only [h, applyTrims, hp]
  cases ht : s.power.pendingTimers <;> simp [levelPower, ht, hp]

/-- The state in which a waiting SET_LEVEL's change begins. -/
def levelTaken (s : State) (l : Fin 5) : State :=
  { s with power := { levelPower s with requested := l, pendingLevel := none }
           items := s.items.map fun i => if i.kind = .setLevel true then { i with kind := .setLevel false } else i }

theorem applyLevel_takes {s : State} {l : Fin 5} (h : s.launchActive = false) (hp : s.power.pendingLevel = some l) :
    applyLevel s = settleLevel (startChange (levelTaken s l)) := by
  unfold applyLevel
  simp only [h, applyTrims, hp]
  cases ht : s.power.pendingTimers <;> simp [levelTaken, levelPower, ht, hp]

theorem startChange_nextItem (s : State) : (startChange s).nextItem = s.nextItem := by
  obtain ⟨c, ds, _, h⟩ := startChange_eq s
  rw [h]

theorem startChange_settings (s : State) : (startChange s).power.settings = s.power.settings := by
  obtain ⟨c, ds, _, h⟩ := startChange_eq s
  rw [h]

theorem applyLevel_moves (s : State) : hostPower s (applyLevel s) ∧ (applyLevel s).nextItem = s.nextItem ∧
    (applyLevel s).power.settings = s.power.settings := by
  cases ha : s.launchActive with
  | true => rw [applyLevel_active ha]; exact ⟨rfl, rfl, rfl⟩
  | false =>
    cases hp : s.power.pendingLevel with
    | none => rw [applyLevel_stays ha hp]; exact ⟨rfl, rfl, rfl⟩
    | some l =>
      have hm := ringsMove_settleLevel (startChange (levelTaken s l))
      rw [applyLevel_takes ha hp]
      refine ⟨?_, hm.nextItem.trans (startChange_nextItem _), ?_⟩
      · exact hostPower_trans (t := levelTaken s l) rfl
          (hostPower_trans (hostPower_startChange _) (hostPower_of_hostOnly hm.only.hostOnly))
      · rw [ringsOnly_power hm.only]; exact startChange_settings _

end Sys2Proof.Machine
end

section
/-! Proofs: SET_LEVEL and the changes it asks for (R384, R385, R389). -/
namespace Sys2Proof.Machine

open Sys2Proof.Safety

/-- The idle timers that a SET_LEVEL asks for (R389). -/
def askedTimers (s : State) (d : Desc) : Nat × Nat × Nat :=
  let now := s.power.pendingTimers.getD s.power.timers
  (newTimer now.1 (d.word 1), newTimer now.2.1 (d.word 2), newTimer now.2.2 (d.word 3))

/-- The idle timers set, at the end of the active launch if there is one (R389). -/
def timersSet (s : State) (t : Nat × Nat × Nat) : State :=
  { s with power := if s.launchActive then { s.power with pendingTimers := some t } else { s.power with timers := t, pendingTimers := none } }

theorem timersSet_eq (s : State) (t : Nat × Nat × Nat) : timersSet s t =
    if s.launchActive then { s with power := { s.power with pendingTimers := some t } }
    else { s with power := { s.power with timers := t, pendingTimers := none } } := by
  unfold timersSet; split <;> rfl

/-- A SET_LEVEL in good form, in a state that admits it (R250, R385, R389). -/
structure LevelAsked (s : State) (sq : RingId) (d : Desc) : Prop where
  front : offered s sq d
  row : d.opc = 0xA
  form : headOk d 4 = true ∧ d.param % 8 ≤ 4 ∧ d.zeroFrom 4 = true
  state : inStates s [3, 4, 5, 6] = true
  timers : timerOk 525 (d.word 1) = true ∧ timerOk 105000 (d.word 2) = true ∧ timerOk 52500000 (d.word 3) = true
  order : (askedTimers s d).1 = 2 ^ 64 - 1 ∨ (askedTimers s d).2.1 = 2 ^ 64 - 1 ∨ (askedTimers s d).1 < (askedTimers s d).2.1

/-- The level that an unlocked SET_LEVEL names waits, and earlier SET_LEVELs that waited are done (R385). -/
def levelWaits (s : State) (d : Desc) (h : DHead) : State :=
  let s := (s.items.filter fun i => decide (i.kind = .setLevel true ∧ i.closing = false)).foldl (fun s i => finishItem s i stOK 0) s
  let s := acceptItem s d h (.setLevel true)
  { s with power := { s.power with pendingLevel := some (Fin.ofNat 5 (field d.param 0 3)) } }

section
variable {s : State} {sq : RingId} {d : Desc} (h : LevelAsked s sq d)
include h

theorem LevelAsked.formOk : (headOk d 4 && decide (field d.param 0 3 ≤ 4) && d.zeroFrom 4) = true := by
  obtain ⟨h1, h2, h3⟩ := h.form
  rw [h1, h3, field_eq]
  simpa using h2

theorem LevelAsked.timersOk : (timerOk 525 (d.word 1) && timerOk 105000 (d.word 2) && timerOk 52500000 (d.word 3) &&
    decide ((askedTimers s d).1 = 2 ^ 64 - 1 ∨ (askedTimers s d).2.1 = 2 ^ 64 - 1 ∨ (askedTimers s d).1 < (askedTimers s d).2.1)) = true := by
  obtain ⟨h1, h2, h3⟩ := h.timers
  rw [h1, h2, h3, decide_eq_true h.order]
  rfl

theorem exec_setLevel_keep (hk : bit d.param 3 = true) : exec (.setLevel sq) s =
    .next (pumpRings (answerDesc (timersSet (takeFront s sq) (askedTimers s d)) (headOf s sq d) stOK 0)) := by
  show Host.Outcome.next (dispatch s sq _ _) = _
  rw [dispatch_offered h.front (decide_eq_true h.row)]
  dsimp only
  rw [checked_pass, if_pos hk, timersSet_eq]
  · rfl
  · exact (firstFail_cons_true h.formOk ..).trans ((firstFail_cons_true h.state ..).trans
      ((firstFail_cons_true (by rw [hk]; rfl) ..).trans (firstFail_cons_true h.timersOk ..)))

theorem exec_setLevel_locked (hk : bit d.param 3 = false) (hl : s.life.locks.getLsbD 2 = true) : exec (.setLevel sq) s =
    .next (pumpRings (completeDesc (takeFront s sq) (headOf s sq d) stLocked 0 none)) := by
  have hlock : (bit d.param 3 || !(takeFront s sq).life.locks.getLsbD 2) = false := by
    rw [hk, show (takeFront s sq).life = s.life from rfl, hl]; rfl
  show Host.Outcome.next (dispatch s sq _ _) = _
  rw [dispatch_offered h.front (decide_eq_true h.row)]
  dsimp only
  rw [checked_locked]
  · exact firstFail_cons_true h.formOk ..
  · exact (firstFail_cons_true h.formOk ..).trans ((firstFail_cons_true h.state ..).trans (firstFail_cons_false hlock ..))

theorem exec_setLevel_level (hk : bit d.param 3 = false) (hl : s.life.locks.getLsbD 2 = false) : exec (.setLevel sq) s =
    .next (pumpRings (applyLevel (levelWaits (timersSet (takeFront s sq) (askedTimers s d)) d (headOf s sq d)))) := by
  have hlock : (bit d.param 3 || !(takeFront s sq).life.locks.getLsbD 2) = true := by
    rw [hk, show (takeFront s sq).life = s.life from rfl, hl]; rfl
  show Host.Outcome.next (dispatch s sq _ _) = _
  rw [dispatch_offered h.front (decide_eq_true h.row)]
  dsimp only
  rw [checked_pass, if_neg (by rw [hk]; decide), levelWaits, timersSet_eq]
  · rfl
  · exact (firstFail_cons_true h.formOk ..).trans ((firstFail_cons_true h.state ..).trans
      ((firstFail_cons_true hlock ..).trans (firstFail_cons_true h.timersOk ..)))

end

/-! What the state after a SET_LEVEL is. -/

theorem timersSet_power (s : State) (t : Nat × Nat × Nat) : (timersSet s t).power = { s.power with
    timers := if s.launchActive then s.power.timers else t
    pendingTimers := if s.launchActive then some t else none } := by
  unfold timersSet; cases s.launchActive <;> rfl

/-- The state of `levelWaits` is what the rings have come to, with the level that waits. -/
theorem levelWaits_facts (s : State) (d : Desc) (h : DHead) : hostPower s (levelWaits s d h) ∧
    (levelWaits s d h).nextItem = s.nextItem + 1 ∧ ∃ b,
      (levelWaits s d h).power = { s.power with wakeN := b, pendingLevel := some (Fin.ofNat 5 (field d.param 0 3)) } := by
  obtain ⟨t, ht⟩ : ∃ t, t = (s.items.filter fun i => decide (i.kind = .setLevel true ∧ i.closing = false)).foldl
      (fun s i => finishItem s i stOK 0) s := ⟨_, rfl⟩
  have h1 : RingsMove s t := ht ▸ RingsMove.foldl (fun s i => ringsMove_finishItem s i _ _) _ s
  obtain ⟨u, h2, _, _, hu⟩ := acceptItem_eq t d h (.setLevel true)
  have hw : levelWaits s d h = { acceptItem t d h (.setLevel true) with
      power := { (acceptItem t d h (.setLevel true)).power with pendingLevel := some (Fin.ofNat 5 (field d.param 0 3)) } } := by
    rw [ht]; rfl
  have hp : u.power = { s.power with wakeN := u.power.wakeN } := ringsOnly_power (h1.trans h2).only
  rw [hw, hu]
  refine ⟨?_, by rw [h1.nextItem], u.power.wakeN, ?_⟩
  · exact hostPower_trans (hostPower_of_hostOnly (h1.trans h2).only.hostOnly) rfl
  · dsimp only; rw [hp]

section
variable {s : State} {sq : RingId} {d : Desc}

/-- The state between a SET_LEVEL's checks and its level (R385). -/
def levelAccepted (s : State) (sq : RingId) (d : Desc) : State :=
  levelWaits (timersSet (takeFront s sq) (askedTimers s d)) d (headOf s sq d)

theorem levelAccepted_facts (s : State) (sq : RingId) (d : Desc) : hostPower s (levelAccepted s sq d) ∧
    (levelAccepted s sq d).nextItem = s.nextItem + 1 ∧ ∃ b, (levelAccepted s sq d).power = { s.power with
      timers := if s.launchActive then s.power.timers else askedTimers s d
      pendingTimers := if s.launchActive then some (askedTimers s d) else none
      wakeN := b, pendingLevel := some (Fin.ofNat 5 (field d.param 0 3)) } := by
  obtain ⟨h1, h2, b, h3⟩ := levelWaits_facts (timersSet (takeFront s sq) (askedTimers s d)) d (headOf s sq d)
  refine ⟨hostPower_trans (t := timersSet (takeFront s sq) (askedTimers s d)) rfl h1, h2, b, ?_⟩
  rw [levelAccepted, h3, timersSet_power]
  rfl

/-- With a launch active the level of a SET_LEVEL waits for its end (R47, R385). -/
theorem applyLevel_accepted_active (ha : s.launchActive = true) : ∃ b, (pumpRings (applyLevel (levelAccepted s sq d))).power =
    { s.power with pendingTimers := some (askedTimers s d), wakeN := b, pendingLevel := some (Fin.ofNat 5 (field d.param 0 3)) } := by
  obtain ⟨h1, _, b, h3⟩ := levelAccepted_facts s sq d
  rw [applyLevel_active ((launchActive_congr (hostPower_launch h1)).trans ha), ringsOnly_power (ringsOnly_pumpRings _), h3]
  simp only [ha, if_true]
  exact ⟨_, rfl⟩

/-- With no launch active it is requested at once, and a change to the level to be in force begins unless one is under way (R384,
R385). -/
theorem applyLevel_accepted_idle (ha : s.launchActive = false) : ∃ p : Power,
    (pumpRings (applyLevel (levelAccepted s sq d))).power = p ∧ p.timers = askedTimers s d ∧ p.pendingLevel = none ∧
      p.requested = Fin.ofNat 5 (field d.param 0 3) ∧
      (let level := targetLevel { s with power := { s.power with requested := Fin.ofNat 5 (field d.param 0 3) } }
       p.level = (if s.power.changing = none then slower s.power.level level else s.power.level) ∧
       p.changing = if s.power.changing = none ∧ s.power.level ≠ level then some level else s.power.changing) := by
  obtain ⟨h1, _, b, h3⟩ := levelAccepted_facts s sq d
  have hl := hostPower_launch h1
  obtain ⟨x, hx⟩ : ∃ x, x = levelTaken (levelAccepted s sq d) (Fin.ofNat 5 (field d.param 0 3)) := ⟨_, rfl⟩
  have happ : applyLevel (levelAccepted s sq d) = settleLevel (startChange x) := by
    rw [hx]; exact applyLevel_takes ((launchActive_congr hl).trans ha) (by rw [h3])
  have htarget : targetLevel x = targetLevel { s with power := { s.power with requested := Fin.ofNat 5 (field d.param 0 3) } } := by
    refine targetLevel_congr ?_ ?_ ?_ ?_ <;> rw [hx]
    · exact hl
    · rfl
    · show sameCap (levelAccepted s sq d).power.domains _
      rw [h3]; rfl
    · show (levelAccepted s sq d).power.throttle = _
      rw [h3]
  obtain ⟨c, ds, _, hs⟩ := startChange_eq x
  have hp := ringsOnly_power (ringsOnly_trans (ringsMove_settleLevel (startChange x)).only (ringsOnly_pumpRings _))
  rw [htarget] at hs
  rw [happ]
  refine ⟨_, rfl, ?_⟩
  rw [hp, hs]
  have hxp : x.power = { levelPower (levelAccepted s sq d) with requested := Fin.ofNat 5 (field d.param 0 3), pendingLevel := none } := by
    rw [hx]; rfl
  dsimp only
  rw [hxp]
  unfold levelPower
  rw [h3]
  simp [ha]

end

end Sys2Proof.Machine
end

section
/-! Proofs: SET_LEVEL as a host sees it, the Tally's role, the trace's end and QUIESCE (R257, R305, R308, R385, R409, R465). -/
namespace Sys2Proof.Machine

open Sys2Proof.Safety

theorem inStates_of_mem {s : State} {l : List Nat} (h : stateCode s ∈ l) : inStates s l = true := by simpa [inStates] using h

theorem headOk_of_lt {d : Desc} {n : Nat} (hf : d.flagsOk = true) (h : d.param < 2 ^ n) : headOk d n = true := by
  rw [headOk, hf, decide_eq_true h]; rfl

/-! SET_LEVEL (R385, R389). -/

section
variable {s : State} {sq : RingId} {d : Desc} (h : LevelAsked s sq d)
include h

theorem setLevel_keep (hk : bit d.param 3 = true) :
    ∃ u, completes (.setLevel sq) s u sq d 0 0 ∧ hostOnly { s with power := u.power } u ∧ u.power.level = s.power.level ∧
      u.power.requested = s.power.requested ∧
      (if s.launchActive then u.power.pendingTimers = some (askedTimers s d) ∧ u.power.timers = s.power.timers
       else u.power.timers = askedTimers s d) := by
  obtain ⟨v, hv⟩ : ∃ v, v = timersSet (takeFront s sq) (askedTimers s d) := ⟨_, rfl⟩
  have hx := exec_setLevel_keep h hk
  obtain ⟨b, hp⟩ := hostOnly_power (hostOnly_answerDesc v (headOf s sq d) 0 0)
  rw [← hv] at hx
  refine ⟨_, completes_answerDesc hx (by rw [hv]; rfl) (fun j hj => by rw [hv] at hj; exact hj) (by rw [hv]; rfl)
    (.of_comps (by rw [hv]; rfl) (by rw [hv]; exact List.prefix_rfl)), ?_, ?_⟩
  · exact hostPower_trans (t := v) (by rw [hv]; rfl) (hostPower_of_hostOnly (hostOnly_answerDesc ..))
  · have hact : (takeFront s sq).launchActive = s.launchActive := rfl
    have hpow : (takeFront s sq).power = s.power := rfl
    rw [hp, hv, timersSet_power, hact, hpow]
    cases s.launchActive <;> exact ⟨rfl, rfl, by simp⟩

theorem setLevel_locked (hk : bit d.param 3 = false) (hl : s.life.locks.getLsbD 2 = true) :
    ∃ u, completes (.setLevel sq) s u sq d 0x22 0 ∧ hostOnly s u :=
  ⟨_, completes_completeDesc (exec_setLevel_locked h hk hl) rfl (fun _ hj => hj) (ringsMove_takeFront s sq).toRecordsStand,
    hostOnly_trans (ringsMove_takeFront s sq).only.hostOnly (ringsOnly_completeDesc ..).hostOnly⟩

/-- An unlocked SET_LEVEL's level waits for the active launch, else it is requested at once (R385). -/
theorem setLevel_level (hk : d.param < 8) (hl : s.life.locks.getLsbD 2 = false) :
    ∃ t, exec (.setLevel sq) s = .next t ∧ hostOnly { s with power := t.power } t ∧ t.nextItem = s.nextItem + 1 ∧
      (s.launchActive = true → t.power.level = s.power.level ∧ t.power.changing = s.power.changing ∧
        t.power.pendingLevel = some (Fin.ofNat 5 d.param) ∧ t.power.requested = s.power.requested ∧
        t.power.pendingTimers = some (askedTimers s d)) ∧
      (s.launchActive = false → t.power.timers = askedTimers s d ∧ t.power.pendingLevel = none ∧ t.power.requested = Fin.ofNat 5 d.param ∧
        (s.power.changing ≠ none → t.power.changing = s.power.changing ∧ t.power.level = s.power.level) ∧
        (s.power.changing = none →
          let level := targetLevel { s with power := { s.power with requested := Fin.ofNat 5 d.param } }
          t.power.changing = (if s.power.level = level then none else some level) ∧ t.power.level = slower s.power.level level)) := by
  have hfield : field d.param 0 3 = d.param := by rw [field_eq]; omega
  have hbit : bit d.param 3 = false := Nat.testBit_lt_two_pow hk
  obtain ⟨h1, h2, _⟩ := levelAccepted_facts s sq d
  obtain ⟨h3, h4, _⟩ := applyLevel_moves (levelAccepted s sq d)
  have h5 := ringsMove_pumpRings (applyLevel (levelAccepted s sq d))
  have hexec : exec (.setLevel sq) s = .next (pumpRings (applyLevel (levelAccepted s sq d))) := exec_setLevel_level h hbit hl
  refine ⟨_, hexec, hostPower_trans h1 (hostPower_trans h3 (hostPower_of_hostOnly h5.only.hostOnly)),
    h5.nextItem.trans (h4.trans h2), fun ha => ?_, fun ha => ?_⟩
  · obtain ⟨b, hp⟩ := applyLevel_accepted_active (sq := sq) (d := d) ha
    rw [hfield] at hp
    rw [hp]
    exact ⟨rfl, rfl, rfl, rfl, rfl⟩
  · obtain ⟨p, hp, ht, hn, hr, hlev, hch⟩ := applyLevel_accepted_idle (sq := sq) (d := d) ha
    rw [hfield] at hr hlev hch
    rw [hp]
    refine ⟨ht, hn, hr, fun hc => ?_, fun hc => ?_⟩
    · rw [if_neg fun hh => hc hh.1] at hch
      rw [if_neg hc] at hlev
      exact ⟨hch, hlev⟩
    · rw [if_pos hc] at hlev
      refine ⟨hch.trans ?_, hlev⟩
      rw [hc]
      simp only [true_and, ne_eq, ite_not]

end

/-! A change that completes (R384). -/

/-- A change that completes puts its level in force, and a further one may begin (R384). -/
theorem levelChangeComplete {s : State} {l : Fin 5} (h : s.power.changing = some l) :
    ∃ t, exec .levelChangeComplete s = .next t ∧ t.power.settings = l ∧ hostPower s t ∧
      (s.power.pendingLevel = none ∨ s.launchActive = true →
        t.power.level = slower l (targetLevel s) ∧ t.power.changing = if l = targetLevel s then none else some (targetLevel s)) := by
  obtain ⟨c, ds, hd, hs⟩ : ∃ c ds, sameCap ds s.power.domains ∧ (if s.power.level = l then s else stepDivider s l) =
      { s with ctrs := c, power := { s.power with domains := ds, level := l } } := by
    by_cases hl : s.power.level = l
    · exact ⟨s.ctrs, s.power.domains, rfl, by rw [if_pos hl, ← hl]⟩
    · rw [if_neg hl]; exact stepDivider_eq s l
  obtain ⟨x, hx⟩ : ∃ x : State, x = { s with
    ctrs := c, power := { s.power with domains := ds, level := l, settings := l, changing := none } } := ⟨_, rfl⟩
  have htarget : targetLevel x = targetLevel s := by
    refine targetLevel_congr ?_ ?_ ?_ ?_ <;> rw [hx]
    exact hd
  obtain ⟨z, hz⟩ : ∃ z, z = settleLevel (startChange x) := ⟨_, rfl⟩
  have hexec : exec .levelChangeComplete s = .next (applyLevel z) := by
    show Host.Outcome.next _ = _
    simp only [h]
    rw [hs, hz, hx]
  have hm : RingsMove (startChange x) z := hz ▸ ringsMove_settleLevel _
  have hxz : hostPower x z := hostPower_trans (hostPower_startChange x) (hostPower_of_hostOnly hm.only.hostOnly)
  have hsz : hostPower s z := hostPower_trans (t := x) (by rw [hx]; rfl) hxz
  obtain ⟨ha, _, hset⟩ := applyLevel_moves z
  have hzp := ringsOnly_power hm.only
  obtain ⟨c', ds', _, hy⟩ := startChange_eq x
  refine ⟨_, hexec, hset.trans ?_, hostPower_trans hsz ha, fun hp => ?_⟩
  · rw [hzp]
    show (startChange x).power.settings = l
    rw [startChange_settings, hx]
  · have hpend : z.power.pendingLevel = s.power.pendingLevel := by rw [hzp, hy, hx]
    have hlev : (applyLevel z).power.level = z.power.level ∧ (applyLevel z).power.changing = z.power.changing := by
      cases hza : z.launchActive with
      | true => rw [applyLevel_active hza]; exact ⟨rfl, rfl⟩
      | false =>
        have hsa : s.launchActive = false := (launchActive_congr (hostPower_launch hsz)).symm.trans hza
        rw [applyLevel_stays hza (hpend.trans (hp.resolve_right (by rw [hsa]; decide)))]
        exact ⟨rfl, rfl⟩
    have hxl : x.power.level = l ∧ x.power.changing = none := by rw [hx]; exact ⟨rfl, rfl⟩
    rw [hlev.1, hlev.2, hzp, hy, htarget, hxl.1, hxl.2]
    simp only [true_and, ne_eq, ite_not, if_true]

end Sys2Proof.Machine
end

section
/-! Proofs: the Tally's role, the trace's end and QUIESCE (R257, R305, R308, R402, R409, R465). -/
namespace Sys2Proof.Machine

open Sys2Proof.Safety

/-! A new state of the device (R402). -/

/-- A new state is set and reported (R266, R402). -/
theorem ringsMove_setState (s : State) (d : DevState) :
    RingsMove { s with life := { s.life with state := some d } } (setState s d) := by
  unfold setState
  split
  · next h =>
    rw [show ({ s with life := { s.life with state := some d } } : State) = s by rw [← h]]
    exact .refl s
  · exact ringsMove_eventRecord _ _ _ _

theorem setState_subs (s : State) (d : DevState) : (setState s d).subs = s.subs := by
  unfold setState
  split
  · rfl
  · exact eventRecord_subs _ _ _ _

/-- Reporting a new state opens no item. -/
theorem mem_setState_items {s : State} {d : DevState} {j : Item} (h : j ∈ (setState s d).items) : j ∈ s.items := by
  unfold setState at h
  split at h
  · exact h
  · exact (mem_writeRecord_items h).resolve_right fun h => absurd h.1 (by simp)

theorem tryReady_moves (s : State) : ∃ x, RingsMove { s with life := { s.life with state := x } } (tryReady s) := by
  unfold tryReady
  split
  · exact ⟨_, ringsMove_setState s _⟩
  · exact ⟨s.life.state, .refl s⟩

/-! TALLY_ALIGN (R305, R308). -/

theorem refreshParent_parent (s : State) : ∃ p, refreshParent s = { s with align := { s.align with parent := p } } := by
  unfold refreshParent
  extract_lets keep
  split
  · exact ⟨s.align.parent, rfl⟩
  · split
    · exact ⟨s.align.parent, rfl⟩
    · extract_lets code
      split
      · exact ⟨_, rfl⟩
      · exact ⟨s.align.parent, rfl⟩

/-- The role, the grand chip and INITIAL of a TALLY_ALIGN, not aligned yet (R305, R308). -/
def roleTaken (s : State) (d : Desc) (h : DHead) : State :=
  let s := acceptItem s d h .tallyAlign
  { s with align := { s.align with
      begun := s.align.ticks, role := some (Fin.ofNat 3 d.param), grand := d.word 1, initial := BitVec.ofNat 64 (d.word 2), parent := none
      stepped := false, good := 0, bad := 0, aligned := false, okDone := false, refOut := decide ((Fin.ofNat 3 d.param : Fin 3) = 1) } }

/-- The Tally loaded with INITIAL, its phase at rest (R305, R307). -/
def tallyLoaded (s : State) (v : Word) : State :=
  { setTally s v with align := { (setTally s v).align with integ := 0, rate := 0, acc := 0 } }

theorem exec_tallyAlign {s : State} {sq : RingId} {d : Desc} (ho : offered s sq d) (hop : d.opc = 0xF) (hf : headOk d 2 = true)
    (hp : d.param < 3) (hw : d.word 1 < 2 ^ 15) (hz : d.zeroFrom 3 = true) (hs : stateCode s ∈ [3, 4, 5]) (hl : launchOpen s = false) :
    exec (.tallyAlign sq) s = .next (pumpRings
      (let s := roleTaken (takeFront s sq) d (headOf s sq d)
       if (Fin.ofNat 3 d.param : Fin 3) = 0 then refreshParent s
       else if (Fin.ofNat 3 d.param : Fin 3) = 1 then alignDone (tallyLoaded s (BitVec.ofNat 64 (d.word 2)))
       else tallyLoaded s (BitVec.ofNat 64 (d.word 2)))) := by
  have hform : (headOk d 2 && decide (d.param < 3) && decide (d.word 1 < 2 ^ 15) && d.zeroFrom 3) = true := by
    rw [hf, hz, decide_eq_true hp, decide_eq_true hw]; rfl
  have hadmit : (inStates s [3, 4, 5] && !launchOpen s) = true := by rw [inStates_of_mem hs, hl]; rfl
  show Host.Outcome.next (dispatch s sq _ _) = _
  rw [dispatch_offered ho (decide_eq_true hop)]
  dsimp only
  rw [checked_pass]
  · rfl
  · exact (firstFail_cons_true hform ..).trans (firstFail_cons_true hadmit ..)

/-- Once aligned, TALLY_ALIGN completes, and the device may be READY (R308, R409). -/
theorem alignDone_moves (s : State) : ∃ t x, RingsMove { s with align := { s.align with aligned := true, okDone := true } } t ∧
    RingsMove { t with life := { t.life with state := x } } (alignDone s) := by
  obtain ⟨x, hx⟩ := tryReady_moves _
  exact ⟨_, x, RingsMove.foldl (fun s i => ringsMove_finishItem s i _ _) _ _, hx⟩

theorem ringsOnly_tally {s t : State} (h : ringsOnly s t) : t.tally = s.tally := by unfold ringsOnly at h; rw [h]

/-- From `s` to `t` the Tally's count and its alignment have become these, and cores, memories and links stand. -/
structure TallySet (s t : State) (v : Word) (a : Align) : Prop where
  tally : t.tally = v
  align : t.align = a
  nextItem : t.nextItem = s.nextItem
  cores : t.cores = s.cores
  hbm : t.hbm = s.hbm
  sites : t.sites = s.sites
  fabric : t.fabric = s.fabric

theorem TallySet.moves {s t u : State} {v : Word} {a : Align} (h : TallySet s t v a) (hm : RingsMove t u) : TallySet s u v a :=
  ⟨(ringsOnly_tally hm.only).trans h.tally, (hostOnly_align hm.only.hostOnly).trans h.align, hm.nextItem.trans h.nextItem,
    (hostOnly_cores hm.only.hostOnly).trans h.cores, (hostOnly_hbm hm.only.hostOnly).trans h.hbm,
    (hostOnly_sites hm.only.hostOnly).trans h.sites, (hostOnly_fabric hm.only.hostOnly).trans h.fabric⟩

theorem tallySet_refreshParent (s : State) : ∃ p, TallySet s (refreshParent s) s.tally { s.align with parent := p } := by
  obtain ⟨p, h⟩ := refreshParent_parent s
  rw [h]
  exact ⟨p, rfl, rfl, rfl, rfl, rfl, rfl, rfl⟩

theorem tallySet_alignDone (s : State) : TallySet s (alignDone s) s.tally { s.align with aligned := true, okDone := true } := by
  obtain ⟨t, x, h1, h2⟩ := alignDone_moves s
  have h3 : TallySet s t s.tally { s.align with aligned := true, okDone := true } :=
    TallySet.moves (t := { s with align := { s.align with aligned := true, okDone := true } }) ⟨rfl, rfl, rfl, rfl, rfl, rfl, rfl⟩ h1
  exact TallySet.moves (t := { t with life := { t.life with state := x } })
    ⟨h3.tally, h3.align, h3.nextItem, h3.cores, h3.hbm, h3.sites, h3.fabric⟩ h2

/-- The state once a TALLY_ALIGN has taken its role (R305, R308). -/
theorem roleTaken_facts (s : State) (sq : RingId) (d : Desc) : let u := roleTaken (takeFront s sq) d (headOf s sq d)
    u.tally = s.tally ∧ u.nextItem = s.nextItem + 1 ∧ u.cores = s.cores ∧ u.hbm = s.hbm ∧ u.sites = s.sites ∧ u.fabric = s.fabric ∧
      u.align = { s.align with
        begun := s.align.ticks, role := some (Fin.ofNat 3 d.param), grand := d.word 1, initial := BitVec.ofNat 64 (d.word 2), parent := none
        stepped := false, good := 0, bad := 0, aligned := false, okDone := false, refOut := decide ((Fin.ofNat 3 d.param : Fin 3) = 1) } := by
  obtain ⟨t, hm, _, _, ht⟩ := acceptItem_eq (takeFront s sq) d (headOf s sq d) .tallyAlign
  have h := hm.only.hostOnly
  dsimp only [roleTaken]
  rw [ht]
  refine ⟨(ringsOnly_tally hm.only :), rfl, (hostOnly_cores h :), (hostOnly_hbm h :), (hostOnly_sites h :), (hostOnly_fabric h :), ?_⟩
  dsimp only
  rw [hostOnly_align h]
  rfl

/-- TALLY_ALIGN by its role (R305, R308). -/
theorem tallyAlign_roles {s : State} {sq : RingId} {d : Desc} (ho : offered s sq d) (hop : d.opc = 0xF) (hf : headOk d 2 = true)
    (hp : d.param < 3) (hw : d.word 1 < 2 ^ 15) (hz : d.zeroFrom 3 = true) (hs : stateCode s ∈ [3, 4, 5]) (hl : launchOpen s = false) :
    ∃ t, exec (.tallyAlign sq) s = .next t ∧ t.align.role = some (Fin.ofNat 3 d.param) ∧ t.align.grand = d.word 1 ∧
      t.align.initial = BitVec.ofNat 64 (d.word 2) ∧ t.align.begun = s.align.ticks ∧ t.align.refOut = decide (d.param = 1) ∧
      t.nextItem = s.nextItem + 1 ∧ t.align.aligned = decide (d.param = 1) ∧ t.align.okDone = decide (d.param = 1) ∧
      t.tally = (if d.param = 0 then s.tally else BitVec.ofNat 64 (d.word 2)) ∧
      t.cores = s.cores ∧ t.hbm = s.hbm ∧ t.sites = s.sites ∧ t.fabric = s.fabric := by
  have hexec := exec_tallyAlign ho hop hf hp hw hz hs hl
  obtain ⟨htally, hnext, hcores, hhbm, hsites, hfabric, halign⟩ := roleTaken_facts s sq d
  obtain ⟨u, hu⟩ : ∃ u, u = roleTaken (takeFront s sq) d (headOf s sq d) := ⟨_, rfl⟩
  rw [← hu] at hexec htally hnext hcores hhbm hsites hfabric halign
  have finish : ∀ t v a, TallySet u t v a → exec (.tallyAlign sq) s = .next (pumpRings t) → ∃ t, exec (.tallyAlign sq) s = .next t ∧
      t.tally = v ∧ t.align = a ∧ t.nextItem = s.nextItem + 1 ∧ t.cores = s.cores ∧ t.hbm = s.hbm ∧ t.sites = s.sites ∧
      t.fabric = s.fabric := fun t v a h hx => by
    have h := h.moves (ringsMove_pumpRings t)
    exact ⟨_, hx, h.tally, h.align, h.nextItem.trans hnext, h.cores.trans hcores, h.hbm.trans hhbm, h.sites.trans hsites,
      h.fabric.trans hfabric⟩
  obtain hp | hp | hp : d.param = 0 ∨ d.param = 1 ∨ d.param = 2 := by omega
  · obtain ⟨p, h⟩ := tallySet_refreshParent u
    obtain ⟨t, hx, h1, h2, h3, h4, h5, h6, h7⟩ := finish _ _ _ h (by rw [hexec, hp]; rfl)
    rw [halign] at h2
    rw [hp] at h2 ⊢
    exact ⟨t, hx, by rw [h2], by rw [h2], by rw [h2], by rw [h2], by rw [h2]; rfl, h3, by rw [h2]; rfl, by rw [h2]; rfl,
      h1.trans htally, h4, h5, h6, h7⟩
  · have h : TallySet u (alignDone (tallyLoaded u (BitVec.ofNat 64 (d.word 2)))) _ _ :=
      ⟨(tallySet_alignDone _).tally, (tallySet_alignDone _).align, (tallySet_alignDone _).nextItem, (tallySet_alignDone _).cores,
        (tallySet_alignDone _).hbm, (tallySet_alignDone _).sites, (tallySet_alignDone _).fabric⟩
    obtain ⟨t, hx, h1, h2, h3, h4, h5, h6, h7⟩ := finish _ _ _ h (by rw [hexec, hp]; rfl)
    have hload : (tallyLoaded u (BitVec.ofNat 64 (d.word 2))).align = { u.align with
      runs := [((BitVec.ofNat 64 (d.word 2)).toNat, u.align.ticks)], integ := 0, rate := 0, acc := 0 } := rfl
    rw [hload, halign] at h2
    rw [hp] at h2 ⊢
    exact ⟨t, hx, by rw [h2], by rw [h2], by rw [h2], by rw [h2], by rw [h2]; rfl, h3, by rw [h2]; rfl, by rw [h2]; rfl,
      h1, h4, h5, h6, h7⟩
  · have h : TallySet u (tallyLoaded u (BitVec.ofNat 64 (d.word 2))) (BitVec.ofNat 64 (d.word 2)) { u.align with
      runs := [((BitVec.ofNat 64 (d.word 2)).toNat, u.align.ticks)], integ := 0, rate := 0, acc := 0 } := ⟨rfl, rfl, rfl, rfl, rfl, rfl, rfl⟩
    obtain ⟨t, hx, h1, h2, h3, h4, h5, h6, h7⟩ := finish _ _ _ h (by rw [hexec, hp]; rfl)
    rw [halign] at h2
    rw [hp] at h2 ⊢
    exact ⟨t, hx, by rw [h2], by rw [h2], by rw [h2], by rw [h2], by rw [h2]; rfl, h3, by rw [h2]; rfl, by rw [h2]; rfl,
      h1, h4, h5, h6, h7⟩

/-! The trace's end (R465). -/

/-- Once the staged records are written, the TRACE_CTLs that wait complete (R465). -/
theorem traceDrained_moves (s : State) : ∃ b, RingsMove { s with trace := { s.trace with draining := b } } (traceDrained s) := by
  unfold traceDrained
  split
  · exact ⟨false, RingsMove.foldl (fun s i => ringsMove_finishItem s i _ _) _ _⟩
  · exact ⟨s.trace.draining, .refl s⟩

/-- Writing all staged records empties the queue and touches HBM, the trace's count and what is sent (R463). -/
theorem traceDrain_all (q : List (Nat × TraceRec)) (s : State) (h : s.trace.queue = q) : (traceDrain q.length s).cores = s.cores ∧
    (traceDrain q.length s).sites = s.sites ∧
    ∃ n, (traceDrain q.length s).trace = { s.trace with queue := [], written := n } := by
  induction q generalizing s with
  | nil => exact ⟨rfl, rfl, s.trace.written, by show s.trace = _; rw [← h]⟩
  | cons x q ih =>
    obtain ⟨k, r⟩ := x
    rw [List.length_cons, traceDrain]
    simp only [h]
    generalize hX : State.emit _ _ = X
    obtain ⟨h1, h2, n, h3⟩ := ih X (by rw [← hX]; rfl)
    rw [h1, h2, h3, ← hX]
    exact ⟨rfl, rfl, n, rfl⟩

theorem traceDrainDone_empties {s : State} (he : s.trace.enabled = false) (hd : s.trace.draining = true) :
    ∃ t, exec .traceDrainDone s = .next t ∧ t.trace.queue = [] ∧ t.trace.draining = false ∧ t.trace.enabled = false ∧
      t.cores = s.cores ∧ t.sites = s.sites := by
  obtain ⟨h1, h2, n, h3⟩ := traceDrain_all _ s rfl
  obtain ⟨u, hu⟩ : ∃ u, u = traceDrain s.trace.queue.length s := ⟨_, rfl⟩
  rw [← hu] at h1 h2 h3
  have hm : RingsMove { u with trace := { u.trace with draining := false } } (traceDrained u) := by
    unfold traceDrained
    rw [if_pos (by rw [h3])]
    exact RingsMove.foldl (fun s i => ringsMove_finishItem s i _ _) _ _
  have ht := hm.quiet (by dsimp only; rw [h3]; exact he)
  refine ⟨traceDrained u, ?_, ?_, ?_, ?_, (hostOnly_cores hm.only.hostOnly).trans h1, (hostOnly_sites hm.only.hostOnly).trans h2⟩
  · show Host.Outcome.next (if s.trace.enabled || !s.trace.draining then s else traceDrained (traceDrain s.trace.queue.length s)) = _
    rw [he, hd, hu]
    rfl
  · rw [ht]; dsimp only; rw [h3]
  · rw [ht]
  · rw [ht]; dsimp only; rw [h3]; exact he

theorem traceCtlDisable_stops {s : State} {sq : RingId} {d : Desc} (ho : offered s sq d) (hop : d.opc = 0x10) (hf : d.flagsOk = true)
    (hp : d.param = 0) (hw : d.word 3 < 2 ^ 29) (hz : d.zeroFrom 4 = true) (ha : d.word 1 < 2 ^ 38) (hs : stateCode s ∈ [3, 4, 5, 6]) :
    ∃ t, exec (.traceCtlDisable sq) s = .next t ∧ t.trace.enabled = false ∧ t.trace.sink = s.trace.sink ∧
      t.trace.written = s.trace.written ∧ t.nextItem = s.nextItem + 1 ∧ hostOnly s t := by
  have hform : (headOk d 1 && decide (d.word 3 < 2 ^ 29) && d.zeroFrom 4 && devAddr (d.word 1)) = true := by
    rw [headOk_of_lt hf (by rw [hp]; decide), hz, decide_eq_true hw, devAddr, decide_eq_true ha]; rfl
  obtain ⟨u, hm, _, _, hu⟩ := acceptItem_eq (takeFront s sq) d (headOf s sq d) .traceStop
  obtain ⟨v, hv⟩ : ∃ v, v = traceStop (acceptItem (takeFront s sq) d (headOf s sq d) .traceStop) := ⟨_, rfl⟩
  have hexec : exec (.traceCtlDisable sq) s = .next (pumpRings (traceDrained v)) := by
    show Host.Outcome.next (dispatch s sq _ _) = _
    rw [dispatch_offered ho (by rw [hop, hp]; rfl), hv, checked_pass]
    exact (firstFail_cons_true hform ..).trans (firstFail_cons_true (inStates_of_mem hs) ..)
  obtain ⟨b, hb⟩ := traceDrained_moves v
  have hend := hb.trans (ringsMove_pumpRings _)
  have hsu := ringsOnly_trans (ringsOnly_takeFront s sq) hm.only
  have huv : hostOnly u v := by rw [hv, hu]; rfl
  have htrace : v.trace.enabled = false ∧ v.trace.sink = s.trace.sink ∧ v.trace.written = s.trace.written := by
    have h := hsu
    unfold ringsOnly at h
    rw [hv, hu, h]
    exact ⟨rfl, rfl, rfl⟩
  have hkeep : ∀ t, ringsOnly { v with trace := { v.trace with draining := b } } t →
      t.trace.enabled = v.trace.enabled ∧ t.trace.sink = v.trace.sink ∧ t.trace.written = v.trace.written := fun t h => by
    unfold ringsOnly at h; rw [h]; exact ⟨rfl, rfl, rfl⟩
  obtain ⟨k1, k2, k3⟩ := hkeep _ hend.only
  obtain ⟨h1, h2, h3⟩ := htrace
  refine ⟨_, hexec, k1.trans h1, k2.trans h2, k3.trans h3, hend.nextItem.trans (by rw [hv, hu]; rfl), ?_⟩
  exact hostOnly_trans (hostOnly_trans hsu.hostOnly huv)
    (hostOnly_trans (t := { v with trace := { v.trace with draining := b } }) rfl hend.only.hostOnly)

end Sys2Proof.Machine
end

section
/-! Proofs: QUIESCE (R257), with the statement on levels, roles and the trace's end. -/
namespace Sys2Proof.Machine

open Sys2Proof.Safety

theorem stateCode_congr {s t : State} (h : t.life.state = s.life.state) : stateCode t = stateCode s := by
  unfold stateCode; rw [h]

/-- A QUIESCE that waits with a launch open waits on (R257). -/
theorem finishQuiesce_open {s : State} (h : launchOpen s = true) : finishQuiesce s = s := if_neg (by simp [h])

/-- Without one the device becomes QUIESCED (R257). -/
theorem finishQuiesce_closed {s : State} (hq : s.life.quiescePending = true) (ho : launchOpen s = false) (hs : stateCode s ∈ [3, 4, 6])
    (hi : ∃ i ∈ s.items, i.kind = .quiesce ∧ i.closing = false) :
    RingsMove { s with life := { s.life with quiescePending := false, state := some .quiesced } } (finishQuiesce s) := by
  obtain ⟨j, hj, hk⟩ := hi
  obtain ⟨i, hfind⟩ : ∃ i, (s.items.find? fun i => decide (i.kind = .quiesce ∧ i.closing = false)) = some i :=
    Option.isSome_iff_exists.1 (List.find?_isSome.2 ⟨j, hj, decide_eq_true hk⟩)
  unfold finishQuiesce
  rw [if_pos (by rw [hq, ho, decide_eq_true hs]; rfl)]
  simp only [hfind]
  exact (ringsMove_setState { s with life := { s.life with quiescePending := false } } .quiesced).trans (ringsMove_finishItem _ _ _ _)

section
variable {s : State} {sq : RingId} {d : Desc}

/-- The state of an accepted QUIESCE that waits (R257). -/
def quiesceAsked (s : State) (sq : RingId) (d : Desc) : State :=
  { acceptItem (takeFront s sq) d (headOf s sq d) .quiesce with
    life := { (acceptItem (takeFront s sq) d (headOf s sq d) .quiesce).life with quiescePending := true } }

theorem quiesceAsked_life : (quiesceAsked s sq d).life = { s.life with quiescePending := true } := by
  have h := hostOnly_life (hostOnly_acceptItem (takeFront s sq) d (headOf s sq d) .quiesce)
  rw [quiesceAsked, h]
  rfl

theorem quiesceAsked_items : (quiesceAsked s sq d).items = s.items ++
    [{ id := s.nextItem, h := headOf s sq d, ordered := d.order, kind := .quiesce, closing := false }] :=
  acceptItem_items (takeFront s sq) d (headOf s sq d) .quiesce

theorem quiesceAsked_launchOpen : launchOpen (quiesceAsked s sq d) = launchOpen s := by
  simp [launchOpen, launchItems, quiesceAsked_items]

theorem hostOnly_quiesceAsked : hostOnly { s with life := { s.life with quiescePending := true } } (quiesceAsked s sq d) := by
  have h := hostOnly_trans (ringsOnly_takeFront s sq).hostOnly (hostOnly_acceptItem (takeFront s sq) d (headOf s sq d) .quiesce)
  rw [quiesceAsked]
  unfold Safety.hostOnly at h ⊢
  rw [h]

theorem quiesce_enters (ho : offered s sq d) (hop : d.opc = 0x12) (hf : d.flagsOk = true) (hp : d.param = 0)
    (hz : d.zeroFrom 1 = true) (hs : stateCode s ∈ [3, 4, 6]) (hq : s.life.quiescePending = false) :
    ∃ t, exec (.quiesce sq) s = .next t ∧ hostOnly { s with life := t.life } t ∧
      t.life = (if launchOpen s then { s.life with quiescePending := true } else { s.life with state := some .quiesced }) := by
  have hform : (headOk d 1 && d.zeroFrom 1) = true := by rw [headOk_of_lt hf (by rw [hp]; decide), hz]; rfl
  have hadmit : (inStates s [3, 4, 6] && !s.life.quiescePending) = true := by rw [inStates_of_mem hs, hq]; rfl
  obtain ⟨u, hu⟩ : ∃ u, u = quiesceAsked s sq d := ⟨_, rfl⟩
  have hexec : exec (.quiesce sq) s = .next (pumpRings (finishQuiesce u)) := by
    rw [hu]
    show Host.Outcome.next (dispatch s sq _ _) = _
    rw [dispatch_offered ho (by rw [hop, hp]; rfl), checked_pass]
    · rfl
    · exact (firstFail_cons_true hform ..).trans (firstFail_cons_true hadmit ..)
  have hlife : u.life = { s.life with quiescePending := true } := hu ▸ quiesceAsked_life
  have hopen : launchOpen u = launchOpen s := hu ▸ quiesceAsked_launchOpen
  have hhost : hostOnly { s with life := { s.life with quiescePending := true } } u := hu ▸ hostOnly_quiesceAsked
  cases hl : launchOpen s with
  | true =>
    rw [finishQuiesce_open (hopen.trans hl)] at hexec
    have h := hostOnly_trans hhost (hostOnly_pumpRings u)
    have ht := hostOnly_life h
    exact ⟨_, hexec, by rw [ht]; exact h, by rw [ht]; rfl⟩
  | false =>
    have hm := finishQuiesce_closed (by rw [hlife]) (hopen.trans hl) (by rwa [stateCode_congr (s := s) (by rw [hlife])])
      ⟨_, by rw [hu, quiesceAsked_items]; exact List.mem_append_right _ (List.mem_singleton_self _), rfl, rfl⟩
    have h := (hm.trans (ringsMove_pumpRings _)).only.hostOnly
    rw [hlife] at h
    have ht := hostOnly_life h
    have hs' : hostOnly { s with life := { s.life with quiescePending := false, state := some .quiesced } }
        { u with life := { s.life with quiescePending := false, state := some .quiesced } } := by
      unfold Safety.hostOnly at hhost ⊢; rw [hhost]
    refine ⟨_, hexec, ?_, ?_⟩
    · rw [ht]; exact hostOnly_trans hs' h
    · rw [ht]
      show ({ s.life with quiescePending := false, state := some .quiesced } : Life) = { s.life with state := some .quiesced }
      rw [← hq]

/-- The state to which a QUIESCE with LEAVE returns (R257, R368, R409). -/
theorem quiesceLeave_returns (ho : offered s sq d) (hop : d.opc = 0x12) (hf : d.flagsOk = true) (hp : d.param = 1)
    (hz : d.zeroFrom 1 = true) (hs : s.life.state = some .quiesced) :
    ∃ u, completes (.quiesceLeave sq) s u sq d 0 0 ∧ hostOnly { s with life := u.life } u ∧
      u.life.state = some (if anyExhausted s then .degraded else if readyConditions s then .ready else .compute) := by
  have hform : (headOk d 1 && d.zeroFrom 1) = true := by rw [headOk_of_lt hf (by rw [hp]; decide), hz]; rfl
  have hadmit : inStates s [5] = true := inStates_of_mem (by unfold stateCode; rw [hs]; decide)
  obtain ⟨base, hbase⟩ : ∃ b : DevState, b = if readyConditions s then .ready else .compute := ⟨_, rfl⟩
  obtain ⟨x, y, hx, hy⟩ : ∃ (x : State) (y : DevState), (x = takeFront s sq ∨
      x = { takeFront s sq with life := { (takeFront s sq).life with before := base } }) ∧
      exec (.quiesceLeave sq) s = .next (pumpRings (answerDesc (setState x y) (headOf s sq d) 0 0)) ∧
      y = if anyExhausted s then .degraded else base := by
    have hexec : exec (.quiesceLeave sq) s = .next (pumpRings (answerDesc (if anyExhausted s then
        setState { takeFront s sq with life := { (takeFront s sq).life with before := base } } .degraded
        else setState (takeFront s sq) base) (headOf s sq d) 0 0)) := by
      show Host.Outcome.next (dispatch s sq _ _) = _
      rw [dispatch_offered ho (by rw [hop, hp]; rfl), checked_pass]
      · rw [hbase]; rfl
      · exact (firstFail_cons_true hform ..).trans (firstFail_cons_true hadmit ..)
    cases he : anyExhausted s with
    | true => rw [he] at hexec; exact ⟨_, _, .inr rfl, hexec, rfl⟩
    | false => rw [he] at hexec; exact ⟨_, _, .inl rfl, hexec, rfl⟩
  obtain ⟨hexec, hy⟩ := hy
  have hxf : x.subs = (takeFront s sq).subs ∧ x.items = s.items ∧ x.nextItem = s.nextItem ∧ x.comps = s.comps ∧ x.out = s.out ∧
      hostOnly { s with life := x.life } x := by
    rcases hx with rfl | rfl <;> exact ⟨rfl, rfl, rfl, rfl, rfl, rfl⟩
  obtain ⟨h1, h2, h3, h4, h5, h6⟩ := hxf
  have hm := ringsMove_setState x y
  have ha := hostOnly_answerDesc (setState x y) (headOf s sq d) 0 0
  have hxs : RecordsStand s { x with life := { x.life with state := some y } } := .of_comps h4 (by rw [← h5])
  have hall := hostOnly_trans hm.only.hostOnly ha
  have hlife := hostOnly_life hall
  refine ⟨_, completes_answerDesc hexec ((setState_subs x y).trans h1) (fun j hj => h2 ▸ mem_setState_items hj) (hm.nextItem.trans h3)
    (hxs.trans hm.toRecordsStand), ?_, ?_⟩
  · rw [hlife]
    have h7 : hostOnly { s with life := { x.life with state := some y } } { x with life := { x.life with state := some y } } := by
      unfold Safety.hostOnly at h6 ⊢; rw [h6]
    exact hostOnly_trans h7 hall
  · rw [hlife, hy, hbase]

end

/-- TALLY_ALIGN's timeout completes what is open, with its start code (R308, R409). -/
theorem tallyAlignTimeout_late {s : State} {i : Item} (hi : i ∈ s.items) (hk : i.kind = .tallyAlign) (hc : i.closing = false)
    (ht : s.align.begun + 1312500000 ≤ s.align.ticks) :
    ∃ t, exec .tallyAlignTimeout s = .next t ∧ hostOnly { s with life := { s.life with failCode := 0x30 } } t := by
  have hne : (s.items.filter fun i => decide (i.kind = .tallyAlign ∧ i.closing = false)).isEmpty = false :=
    List.isEmpty_eq_false_iff.2 (List.ne_nil_of_mem (List.mem_filter.2 ⟨hi, decide_eq_true ⟨hk, hc⟩⟩))
  refine ⟨_, congrArg Host.Outcome.next (if_neg ?_), (RingsMove.foldl (fun s i => ringsMove_finishItem s i _ _) _ _).only.hostOnly⟩
  rw [hne, decide_eq_false (by omega)]
  decide

theorem tallyAlignTimeout_early {s : State} (h : s.align.ticks < s.align.begun + 1312500000) :
    exec .tallyAlignTimeout s = .next s := congrArg Host.Outcome.next (if_pos (by rw [decide_eq_true h, Bool.or_true]))

/-- Settles O41: each descriptor passes its checks and does what its row says; the rest are the device's own steps. -/
theorem levelsRolesAndQuiesce : Obligations.LevelsRolesAndQuiesce := by
  unfold Obligations.LevelsRolesAndQuiesce
  intro s sq d
  dsimp only
  refine ⟨fun ho hf => ⟨fun hop hp hlev hz hs h1 h2 h3 hord => ?level, fun hop hp hw hz hs hl => ?role, fun hop hp hw hz ha hs => ?trace,
      fun hop hp hz hs hq => quiesce_enters ho hop hf hp hz hs hq, fun hop hp hz hs => quiesceLeave_returns ho hop hf hp hz hs⟩,
    fun l hl => ?change, fun hc => ?still, fun i hi hk hc ht => tallyAlignTimeout_late hi hk hc ht, tallyAlignTimeout_early,
    traceDrainDone_empties⟩
  case level =>
    have h : LevelAsked s sq d := ⟨ho, hop, ⟨headOk_of_lt hf hp, hlev, hz⟩, inStates_of_mem hs, ⟨h1, h2, h3⟩, hord⟩
    have hbit : d.param < 8 → bit d.param 3 = false := fun hk => Nat.testBit_lt_two_pow hk
    refine ⟨fun hk => setLevel_keep h ?_, fun hk hl => setLevel_locked h (hbit hk) hl, fun hk hl => setLevel_level h hk hl⟩
    exact Nat.testBit_of_two_pow_le_and_two_pow_add_one_gt hk hp
  case role => exact tallyAlign_roles ho hop (headOk_of_lt hf (by omega)) hp hw hz hs hl
  case trace => exact traceCtlDisable_stops ho hop hf hp hw hz ha hs
  case change =>
    obtain ⟨t, hx, hset, hpow, hlev⟩ := levelChangeComplete hl
    unfold hostPower at hpow
    exact ⟨t, hx, hset, (hostOnly_cores hpow :), (hostOnly_hbm hpow :), hostPower_launch hpow, (hostOnly_life hpow :), hlev⟩
  case still =>
    show Host.Outcome.next _ = _
    simp only [hc]

end Sys2Proof.Machine
end

section
/-! Proofs: the acceptance of a LAUNCH and of a backlog item (R29, R228, R247, R391). -/
namespace Sys2Proof.Machine

open Sys2Proof.Safety

/-- A core that a wake event has reached (R390). -/
def wokenCore (k : Core) : Core := { k with idleSince := none, sleep := k.sleep.woken }

theorem wokenCore_wokenCore (k : Core) : wokenCore (wokenCore k) = wokenCore k := by
  have h : k.sleep.woken.woken = k.sleep.woken := by cases k.sleep <;> rfl
  simp only [wokenCore, h]

/-- Every core that a section names is woken, and nothing else changes (R391). -/
theorem wakeCores_core (xs : List Section) (s : State) (c : CoreId) :
    (xs.foldl (fun s y => wakeCore s y.th.core) s).core c =
      if ∃ x ∈ xs, x.th.core = c then wokenCore (s.core c) else s.core c := by
  induction xs generalizing s with
  | nil => simp
  | cons y ys ih =>
    rw [List.foldl_cons, ih]
    by_cases hy : y.th.core = c
    · subst hy
      have hw : (wakeCore s y.th.core).core y.th.core = wokenCore (s.core y.th.core) := State.core_modCore ..
      simp [hw, wokenCore_wokenCore]
    · have hw : (wakeCore s y.th.core).core c = s.core c := State.core_modCore_ne _ _ (Ne.symm hy)
      simp [hw, hy]

theorem wakeCores_eq (xs : List Section) (s : State) : ∃ cs, xs.foldl (fun s y => wakeCore s y.th.core) s = { s with cores := cs } := by
  induction xs generalizing s with
  | nil => exact ⟨_, rfl⟩
  | cons y ys ih =>
    obtain ⟨cs, h⟩ := ih (wakeCore s y.th.core)
    exact ⟨cs, h⟩

/-- What an accepted descriptor leaves before the rings continue. -/
theorem accepts_acceptItem {c : Instr} {s u : State} {sq : RingId} {d : Desc} {k : ItemKind}
    (hx : exec c s = .next (pumpRings u)) (hs : u.subs = (acceptItem (takeFront s sq) d (headOf s sq d) k).subs)
    (hn : u.nextItem = (acceptItem (takeFront s sq) d (headOf s sq d) k).nextItem)
    (hi : u.items = (acceptItem (takeFront s sq) d (headOf s sq d) k).items) : accepts c s u sq d k :=
  ⟨hx, hs.trans (acceptItem_subs ..), hn.trans (acceptItem_nextItem ..), hi.trans (acceptItem_items ..)⟩

theorem hostOnly_accepted (s : State) (sq : RingId) (d : Desc) (k : ItemKind) :
    hostOnly s (acceptItem (takeFront s sq) d (headOf s sq d) k) :=
  hostOnly_trans (ringsOnly_takeFront s sq).hostOnly (hostOnly_acceptItem ..)

/-- A LAUNCH that passes its checks is accepted, and wakes the cores it names (R29, R391). -/
theorem launch_accepts {s : State} {sq : RingId} {d : Desc} (ho : offered s sq d) (hop : d.opc = 1) (hty : (s.subs[sq]).ty = 0)
    (hh : launchHeld s d = false) (hc : firstFail (launchChecks s d) = none) :
    ∃ u, accepts (.launch sq) s u sq d (.launch (launchOf s d)) ∧ hostOnly { s with cores := u.cores } u ∧
      ∀ c, u.core c = if ∃ x ∈ (launchOf s d).sections, x.th.core = c then
        { s.core c with idleSince := none, sleep := (s.core c).sleep.woken } else s.core c := by
  have hc' : firstFail (launchChecks (takeFront s sq) d) = none := hc
  obtain ⟨a, ha⟩ : ∃ a, a = acceptItem (takeFront s sq) d (headOf s sq d) (.launch (launchOf s d)) := ⟨_, rfl⟩
  have hexec : exec (.launch sq) s =
      .next (pumpRings ((launchOf s d).sections.foldl (fun s y => wakeCore s y.th.core) a)) := by
    show Host.Outcome.next (dispatch s sq _ _) = _
    rw [dispatch_offered ho (by rw [hop, hty, hh]; rfl), checked_pass hc', ha]
    rfl
  have hhost : hostOnly s a := ha ▸ hostOnly_accepted s sq d _
  have hcore : ∀ c, a.core c = s.core c := State.core_congr (hostOnly_cores hhost)
  obtain ⟨cs, he⟩ := wakeCores_eq (launchOf s d).sections a
  refine ⟨_, accepts_acceptItem hexec ?_ ?_ ?_, ?_, fun c => ?_⟩
  · rw [he, ← ha]
  · rw [he, ← ha]
  · rw [he, ← ha]
  · rw [he]
    unfold Safety.hostOnly at hhost ⊢
    rw [hhost]
  · rw [wakeCores_core, hcore]
    rfl

/-- A backlog item that passes its checks is accepted and bound to its window (R228). -/
theorem backlogItem_accepts {s : State} {sq : RingId} {d : Desc} (ho : offered s sq d) (hop : d.opc = 1) (hty : (s.subs[sq]).ty = 1)
    (hh : itemHeld s d = false) (hc : firstFail (itemChecks s d) = none) :
    ∃ u, accepts (.backlogItem sq) s u sq d (.backlog d.param) ∧ hostOnly { s with bound := u.bound } u ∧
      ∃ b, u.bound = s.bound ++ [b] ∧ b.window = d.param ∧ b.arg = BitVec.ofNat 64 (d.word 2) ∧ b.h = headOf s sq d ∧
        (b.sections = none ↔ d.word 1 = 0) := by
  have hc' : firstFail (itemChecks (takeFront s sq) d) = none := hc
  obtain ⟨a, ha⟩ : ∃ a, a = acceptItem (takeFront s sq) d (headOf s sq d) (.backlog d.param) := ⟨_, rfl⟩
  obtain ⟨b, hb⟩ : ∃ b : BoundItem, b = ⟨d.param, if d.word 1 = 0 then none else
    some ((readSections s (d.word 1) (readHeader s (d.word 1))).map (·.section_ (d.word 1))), BitVec.ofNat 64 (d.word 2),
    headOf s sq d⟩ := ⟨_, rfl⟩
  have hexec : exec (.backlogItem sq) s = .next (pumpRings { a with bound := a.bound ++ [b] }) := by
    show Host.Outcome.next (dispatch s sq _ _) = _
    rw [dispatch_offered ho (by rw [hop, hty, hh]; rfl), checked_pass hc', ha, hb]
    rfl
  have hhost : hostOnly s a := ha ▸ hostOnly_accepted s sq d _
  have hbound : a.bound = s.bound := by unfold Safety.hostOnly at hhost; rw [hhost]
  refine ⟨_, accepts_acceptItem hexec (by rw [← ha]) (by rw [← ha]) (by rw [← ha]), ?_, b, by rw [← hbound], ?_⟩
  · unfold Safety.hostOnly at hhost ⊢
    rw [hhost]
  · rw [hb]
    refine ⟨rfl, rfl, rfl, ?_⟩
    show (if d.word 1 = 0 then none else some _) = none ↔ _
    split <;> simp_all

end Sys2Proof.Machine
end

section
/-! Proofs: the start of a launch (R189, R248, R249). -/
namespace Sys2Proof.Machine

open Sys2Proof.Safety

section
variable {s : State} {i : Item} {d : LaunchDesc}

/-- The launch that starts (R248). -/
def startedLaunch (s : State) (i : Item) (d : LaunchDesc) : Launch :=
  { d := d, h := i.h, item := i.id, seq := (s.seq + 1) % 2 ^ 32, st := .starting, exc := 0, vvx := false, level := askedLevel s,
    late := false, lateTicks := 0, depth := false, waited := false, short := false, firstTick := none, halt := none,
    otherFaults := 0, faultTick := 0, sameCycle := [], vvLog := [], anchors := [], anchorNo := 0, attempts := 0, replay := false,
    replayFrom := 0, journal := [], restoreReq := [], replayedFor := [], replayedGather := [], peerWait := [], regather := 0 }

/-- The chip at the start of the launch, before its level is asked for: its cores and its tables. -/
def startTables (s : State) (i : Item) (d : LaunchDesc) : State :=
  { s with
    seq := (startedLaunch s i d).seq, cores := Vector.ofFn (startCore s d), bufs := Vector.replicate 256 bufEntry0
    fabric := { s.fabric with accepted := [], assembly := [], localAccepted := [] } }

/-- With the launch, and the device area agreeing with the tables (R249). -/
def startAsked (s : State) (i : Item) (d : LaunchDesc) : State :=
  { startTables s i d with
    launch := some (startedLaunch s i d)
    hbm := { s.hbm with dev := s.hbm.dev.map fun a => devTables (startTables s i d) a.image } }

theorem launchStart_starts (hn : nextLaunch s = some (i, d)) (ha : isAwake s = true) (hl : s.life.state ≠ some .halted) :
    exec .launchStart s = .next (startChange (startAsked s i d)) := by
  show Host.Outcome.next _ = _
  have hg : (!isAwake s || s.life.state = some .halted) = false := by rw [ha, decide_eq_false hl]; rfl
  simp only [hn, hg, Bool.false_eq_true, if_false]
  simp only [startAsked, startTables, startedLaunch]

theorem launchStart_waits (hn : nextLaunch s = none) : exec .launchStart s = .next s := by
  show Host.Outcome.next _ = _
  simp only [hn]

/-! The start state of the cores (R122, R132, R150, R189). -/

theorem startTables_core (c : CoreId) : (startTables s i d).core c = startCore s d c := Vector.getElem_ofFn c.2

theorem startTables_th (r : ThRef) : (startTables s i d).th r = startThread s d r := by
  unfold State.th
  rw [startTables_core]
  exact Vector.getElem_ofFn r.t.2

theorem startRegs_get (r : ThRef) (arg : Word) : (startRegs s r arg).get 1 = arg ∧
    (startRegs s r arg).get 2 = BitVec.ofNat 64 s.chipId ∧
    (startRegs s r arg).get 3 = BitVec.ofNat 64 (coreRow r.core * 256 + (coreCol r.core).1) ∧
    (startRegs s r arg).get 4 = BitVec.ofNat 64 r.t.1 := by
  simp [startRegs, Regs.get, Regs.set, vset]

theorem startThread_named {r : ThRef} {x : Section} (h : d.sections.find? (fun y => decide (y.th = r)) = some x) :
    startThread s d r = { thread0 with
      st := .loading, stream := some x.stream, regs := startRegs s r d.arg, ckpt := ⟨startRegs s r d.arg, 0, 0, 0, 0, false, 0⟩ } := by
  unfold startThread
  simp only [h]

theorem startThread_absent {r : ThRef} (h : ∀ x ∈ d.sections, x.th ≠ r) : startThread s d r = thread0 := by
  have hf : d.sections.find? (fun y => decide (y.th = r)) = none := List.find?_eq_none.2 fun x hx => by simp [h x hx]
  unfold startThread
  simp only [hf]

theorem devTables_startAsked (image : List Byte) : devTables (startAsked s i d) image = devTables (startTables s i d) image := by
  simp only [devTables, startAsked]

/-- LAUNCH_START gives the launch its number, every core its start state, and the device area the tables (R248, R249). -/
theorem launchStart_state (hn : nextLaunch s = some (i, d)) (ha : isAwake s = true) (hl : s.life.state ≠ some .halted) :
    ∃ t l, exec .launchStart s = .next t ∧ t.launch = some l ∧ l.d = d ∧ l.h = i.h ∧ l.st = .starting ∧ l.exc = 0 ∧ l.halt = none ∧
      l.level = askedLevel s ∧ l.seq = (s.seq + 1) % 2 ^ 32 ∧ t.seq = l.seq ∧ t.hbm = { s.hbm with dev := t.hbm.dev } ∧
      (∀ k : Fin 2, t.hbm.dev[k] = devTables t (s.hbm.dev[k]).image) ∧ t.sites = s.sites ∧ t.red = s.red ∧
      (∀ b : Fin 256, t.bufs[b] = bufEntry0) ∧
      (∀ c, (t.core c).sendIx = 0 ∧ (∀ e : EventId, (t.core c).ev[e] = 0) ∧ (∀ q : Fin 32, (t.core c).tiles[q] = tile0) ∧
        (t.core c).fault = (s.core c).fault ∧ (t.core c).sleep = (s.core c).sleep) ∧
      (∀ x, d.sections.find? (fun y => decide (y.th = x.th)) = some x → (t.th x.th).st = .loading ∧
        (t.th x.th).stream = some x.stream ∧ (t.th x.th).pos = 0 ∧ (t.th x.th).regs.get 1 = d.arg ∧
        (t.th x.th).regs.get 2 = BitVec.ofNat 64 s.chipId ∧
        (t.th x.th).regs.get 3 = BitVec.ofNat 64 (coreRow x.th.core * 256 + (coreCol x.th.core).1) ∧
        (t.th x.th).regs.get 4 = BitVec.ofNat 64 x.th.t.1) ∧
      ∀ r, (∀ x ∈ d.sections, x.th ≠ r) → (t.th r).st = .absent := by
  obtain ⟨c, ds, _, h⟩ := startChange_eq (startAsked s i d)
  obtain ⟨t, ht⟩ : ∃ t, t = startChange (startAsked s i d) := ⟨_, rfl⟩
  rw [← ht] at h
  have hcores : t.cores = (startTables s i d).cores := by rw [h]; rfl
  have hcore : ∀ c, t.core c = startCore s d c := fun c => (State.core_congr hcores c).trans (startTables_core c)
  have hth : ∀ r, t.th r = startThread s d r := fun r => (State.th_congr hcores r).trans (startTables_th r)
  have hbufs : t.bufs = Vector.replicate 256 bufEntry0 := by rw [h]; rfl
  have htables : ∀ image, devTables t image = devTables (startTables s i d) image := fun image => by
    rw [← devTables_startAsked, h]
    simp only [devTables]
  refine ⟨t, startedLaunch s i d, by rw [ht]; exact launchStart_starts hn ha hl, by rw [h, startAsked], rfl, rfl, rfl, rfl, rfl, rfl, rfl,
    by rw [h, startAsked, startTables], by rw [h, startAsked, startTables], fun k => ?_, by rw [h, startAsked, startTables],
    by rw [h, startAsked, startTables], fun b => ?_, fun c => ?_, fun x hx => ?_, fun r hr => ?_⟩
  · rw [htables, show t.hbm.dev = s.hbm.dev.map fun a => devTables (startTables s i d) a.image by rw [h]; rfl]
    exact Vector.getElem_map (fun a : DevArea => devTables (startTables s i d) a.image) k.2
  · rw [hbufs]
    exact Vector.getElem_replicate b.2
  · rw [hcore]
    exact ⟨rfl, fun e => Vector.getElem_replicate e.2, fun q => Vector.getElem_replicate q.2, rfl, rfl⟩
  · rw [hth, startThread_named hx]
    exact ⟨rfl, rfl, rfl, startRegs_get x.th d.arg⟩
  · rw [hth, startThread_absent hr]
    rfl

end

end Sys2Proof.Machine
end

section
/-! Proofs: a launch's first issue (R44 to R47). -/
namespace Sys2Proof.Machine

open Sys2Proof.Safety

section
variable {s : State} {l : Launch}

/-! What is done with the counters, the launch and the flags. -/

/-- A core whose counters have been closed (R457). -/
def closedCore (k : Core) : Core := { k with shadow := k.live, live := coreCtrs0 }

theorem closeCounters_core (s : State) (seq : Nat) (c : CoreId) : (closeCounters s seq).core c = closedCore (s.core c) :=
  Vector.getElem_map closedCore c.2

theorem closeCounters_th (s : State) (seq : Nat) (r : ThRef) : (closeCounters s seq).th r = s.th r := by
  unfold State.th
  rw [closeCounters_core, closedCore]

/-- The first issue of all opens the counters (R455, R457). -/
def issueOpened (s : State) (l : Launch) : State := if decide (l.st = .starting) then settleStrs (closeCounters s l.seq) 0 else s

theorem issueOpened_keeps (s : State) (l : Launch) : (issueOpened s l).launch = s.launch ∧ (issueOpened s l).hbm = s.hbm ∧
    (issueOpened s l).sites = s.sites ∧ ∀ r, (issueOpened s l).th r = s.th r := by
  unfold issueOpened
  split
  · obtain ⟨c, ds, _, h⟩ := settleStrs_eq (closeCounters s l.seq) 0
    rw [h]
    exact ⟨rfl, rfl, rfl, closeCounters_th s l.seq⟩
  · exact ⟨rfl, rfl, rfl, fun _ => rfl⟩

/-- How long after S a launch issues first; with S zero no launch is late (R45). -/
def issueAfter (s : State) (l : Launch) : Nat := if l.d.start = 0 then 0 else ticksSince s l.d.start

/-- The launch from an issue on (R44, R45). -/
def issuedLaunch (s : State) (l : Launch) : Launch :=
  { l with
    st := .active, firstTick := some (l.firstTick.getD s.tally.toNat), late := l.late || decide (0 < issueAfter s l)
    lateTicks := if 0 < issueAfter s l then min (max l.lateTicks (issueAfter s l)) (2 ^ 32 - 1) else l.lateTicks }

/-- The exception flags of the level and of the stretched domains (R47, R50). -/
def issueFlags (s : State) (l : Launch) : State :=
  let s := if (List.finRange 16).any fun c => clockSlow s c then s.flagExc excSTR else s
  if l.level < s.power.level ∨ l.level < s.power.throttle then s.flagExc excTHR else s

theorem flagExc_exc {m : Launch} (h : s.launch = some m) (b : BitVec 8) :
    ∃ e, s.flagExc b = { s with launch := some { m with exc := e } } := by
  rw [State.flagExc_eq, h]
  split
  · exact ⟨_, rfl⟩
  · exact ⟨m.exc, rfl⟩

theorem ite_flagExc_exc {m : Launch} {p : Prop} [Decidable p] (h : s.launch = some m) (b : BitVec 8) :
    ∃ e, (if p then s.flagExc b else s) = { s with launch := some { m with exc := e } } := by
  split
  · exact flagExc_exc h b
  · exact ⟨m.exc, by rw [← h]⟩

theorem issueFlags_exc {m : Launch} (h : s.launch = some m) (l : Launch) :
    ∃ e, issueFlags s l = { s with launch := some { m with exc := e } } := by
  obtain ⟨e, he⟩ := ite_flagExc_exc (p := ((List.finRange 16).any fun c => clockSlow s c) = true) h excSTR
  unfold issueFlags
  dsimp only
  rw [he]
  obtain ⟨e', he'⟩ := ite_flagExc_exc (s := { s with launch := some { m with exc := e } })
    (p := l.level < s.power.level ∨ l.level < s.power.throttle) rfl excTHR
  exact ⟨e', he'⟩

/-! The threads that begin. -/

/-- A thread begins to issue, with the planes of its first pass kept (R44, R131). -/
def beginThread (s : State) (r : ThRef) : State := openPass (s.modTh r fun t => { t with st := .running }) r

theorem beginThread_th (s : State) (r q : ThRef) :
    ((beginThread s r).th q).st = (if q = r then .running else (s.th q).st) ∧ ((beginThread s r).th q).regs = (s.th q).regs ∧
      ((beginThread s r).th q).pos = (s.th q).pos := by
  unfold beginThread openPass
  by_cases h : q = r
  · subst h
    simp only [State.th_modTh, if_true, and_self]
  · simp only [State.th_modTh_ne _ _ h, h, if_false, and_self]

theorem beginThreads_th (rs : List ThRef) (s : State) (q : ThRef) :
    ((rs.foldl beginThread s).th q).st = (if q ∈ rs then .running else (s.th q).st) ∧
      ((rs.foldl beginThread s).th q).regs = (s.th q).regs ∧ ((rs.foldl beginThread s).th q).pos = (s.th q).pos := by
  induction rs generalizing s with
  | nil => exact ⟨(if_neg List.not_mem_nil).symm, rfl, rfl⟩
  | cons r rs ih =>
    obtain ⟨hst, hregs, hpos⟩ := ih (beginThread s r)
    obtain ⟨bst, bregs, bpos⟩ := beginThread_th s r q
    rw [List.foldl_cons]
    refine ⟨?_, hregs.trans bregs, hpos.trans bpos⟩
    rw [hst, bst]
    by_cases hq : q ∈ rs <;> by_cases hr : q = r <;> simp [hq, hr]

theorem beginThreads_eq (rs : List ThRef) (s : State) : ∃ cs, rs.foldl beginThread s = { s with cores := cs } := by
  induction rs generalizing s with
  | nil => exact ⟨_, rfl⟩
  | cons r rs ih =>
    obtain ⟨cs, h⟩ := ih (beginThread s r)
    exact ⟨cs, h⟩

theorem mem_allThreads (r : ThRef) : r ∈ allThreads := by
  obtain ⟨c, t⟩ := r
  refine List.mem_flatMap.2 ⟨c, List.mem_finRange c, ?_⟩
  match t with
  | 0 => simp
  | 1 => simp

/-! The instruction. -/

/-- The launch's start is its anchor 0 (log entry 22). -/
def anchoredStart (s : State) (l : Launch) : State :=
  if decide (l.st = .starting) then s.modLaunch fun l => { l with anchors := [anchorRec s 0] } else s

/-- The chip after a first issue (R44 to R47). -/
def firstIssued (s : State) (l : Launch) : State :=
  anchoredStart ((allThreads.filter (threadReady s)).foldl beginThread
    (issueFlags { issueOpened s l with launch := some (issuedLaunch s l) } l)) l

/-- The launch as an issue marks it: `ticks` after S, late or not (R45). -/
def issueMark (now ticks : Nat) (late : Bool) (l : Launch) : Launch :=
  { l with st := .active, firstTick := some (l.firstTick.getD now), late := l.late || late,
           lateTicks := if late then min (max l.lateTicks ticks) (2 ^ 32 - 1) else l.lateTicks }

theorem issueMark_eq (s : State) (l : Launch) :
    issueMark s.tally.toNat (ticksSince s l.d.start) (l.d.start ≠ 0 && decide (0 < ticksSince s l.d.start)) l = issuedLaunch s l := by
  unfold issueMark issuedLaunch issueAfter
  by_cases h : l.d.start = 0 <;> simp [h]

theorem State.modLaunch_some (h : s.launch = some l) (f : Launch → Launch) : s.modLaunch f = { s with launch := some (f l) } := by
  unfold State.modLaunch
  rw [h]
  rfl

theorem launchFirstIssue_early (hl : s.launch = some l) (ht : s.tally.toNat < l.d.start) : exec .launchFirstIssue s = .next s := by
  show Host.Outcome.next _ = _
  simp only [hl]
  rw [if_pos (by rw [decide_eq_true ht, Bool.or_true, Bool.true_or, Bool.true_or])]

theorem launchFirstIssue_issues (hl : s.launch = some l) (hst : l.st = .starting ∨ l.st = .active) (hc : s.power.changing = none)
    (ha : isAwake s = true) (ht : l.d.start ≤ s.tally.toNat) (hr : ∃ r, threadReady s r = true) :
    exec .launchFirstIssue s = .next (firstIssued s l) := by
  obtain ⟨r, hr⟩ := hr
  have hne : (allThreads.filter (threadReady s)).isEmpty = false :=
    List.isEmpty_eq_false_iff.2 (List.ne_nil_of_mem (List.mem_filter.2 ⟨mem_allThreads r, hr⟩))
  have hg : (!(l.st = .starting || l.st = .active) || (allThreads.filter (threadReady s)).isEmpty || s.tally.toNat < l.d.start ||
      s.power.changing.isSome || !isAwake s) = false := by
    rw [hne, hc, ha, decide_eq_false (Nat.not_lt.2 ht)]
    rcases hst with h | h <;> rw [h] <;> rfl
  have hm : issueMark s.tally.toNat (ticksSince s l.d.start) (l.d.start ≠ 0 && decide (0 < ticksSince s l.d.start)) l = _ :=
    issueMark_eq s l
  unfold firstIssued
  rw [← hm, ← State.modLaunch_some ((issueOpened_keeps s l).1.trans hl) (issueMark _ _ _)]
  show Host.Outcome.next _ = _
  simp only [hl, hg, Bool.false_eq_true, if_false]
  rfl

/-- A first issue sets the ready threads running and marks the launch, and touches no memory (R44, R45). -/
theorem firstIssued_state (s : State) (l : Launch) : ∃ l', (firstIssued s l).launch = some l' ∧ l'.st = .active ∧
    l'.firstTick = some (l.firstTick.getD s.tally.toNat) ∧ l'.late = (l.late || decide (0 < issueAfter s l)) ∧
    l'.lateTicks = (if 0 < issueAfter s l then min (max l.lateTicks (issueAfter s l)) (2 ^ 32 - 1) else l.lateTicks) ∧
    (∀ r, ((firstIssued s l).th r).st = (if threadReady s r then .running else (s.th r).st) ∧
      ((firstIssued s l).th r).regs = (s.th r).regs ∧ ((firstIssued s l).th r).pos = (s.th r).pos) ∧
    (firstIssued s l).hbm = s.hbm ∧ (firstIssued s l).sites = s.sites := by
  obtain ⟨-, hhbm, hsites, hth⟩ := issueOpened_keeps s l
  obtain ⟨e, he⟩ := issueFlags_exc (s := { issueOpened s l with launch := some (issuedLaunch s l) }) rfl l
  obtain ⟨u, hu⟩ : ∃ u, u = issueFlags { issueOpened s l with launch := some (issuedLaunch s l) } l := ⟨_, rfl⟩
  rw [← hu] at he
  obtain ⟨cs, hcs⟩ := beginThreads_eq (allThreads.filter (threadReady s)) u
  have hthreads : ∀ r, ((((allThreads.filter (threadReady s)).foldl beginThread u).th r).st =
      if threadReady s r then .running else (s.th r).st) ∧
      (((allThreads.filter (threadReady s)).foldl beginThread u).th r).regs = (s.th r).regs ∧
      (((allThreads.filter (threadReady s)).foldl beginThread u).th r).pos = (s.th r).pos := fun r => by
    have h := beginThreads_th (allThreads.filter (threadReady s)) u r
    have hu' : u.th r = s.th r := (State.th_congr (by rw [he]) r).trans (hth r)
    simpa only [List.mem_filter, mem_allThreads, true_and, hu'] using h
  unfold firstIssued anchoredStart
  rw [← hu]
  split
  · refine ⟨{ issuedLaunch s l with
      exc := e, anchors := [anchorRec ((allThreads.filter (threadReady s)).foldl beginThread u) 0] }, ?_, rfl, rfl, rfl, rfl, hthreads, ?_, ?_⟩
    · rw [State.modLaunch_launch, hcs, he]; rfl
    · rw [State.modLaunch_hbm, hcs, he]; exact hhbm
    · rw [State.modLaunch_sites, hcs, he]; exact hsites
  · refine ⟨{ issuedLaunch s l with exc := e }, ?_, rfl, rfl, rfl, rfl, hthreads, ?_, ?_⟩
    · rw [hcs, he]
    · rw [hcs, he]; exact hhbm
    · rw [hcs, he]; exact hsites

end

end Sys2Proof.Machine
end

section
/-! Proofs: the completion of a launch (R218, R230, R261, R345), with the statement on launches. -/
namespace Sys2Proof.Machine

open Sys2Proof.Safety

/-- From `s` to `t` the memories, the cores, the launch with its items and its number, the sites and the buffers stand. -/
structure LaunchStands (s t : State) : Prop where
  hbm : t.hbm = s.hbm
  sites : t.sites = s.sites
  seq : t.seq = s.seq
  bound : t.bound = s.bound
  cores : t.cores = s.cores
  launch : t.launch = s.launch
  bufs : t.bufs = s.bufs

theorem LaunchStands.refl (s : State) : LaunchStands s s := ⟨rfl, rfl, rfl, rfl, rfl, rfl, rfl⟩

theorem LaunchStands.trans {s t u : State} (h1 : LaunchStands s t) (h2 : LaunchStands t u) : LaunchStands s u :=
  ⟨h2.hbm.trans h1.hbm, h2.sites.trans h1.sites, h2.seq.trans h1.seq, h2.bound.trans h1.bound, h2.cores.trans h1.cores,
    h2.launch.trans h1.launch, h2.bufs.trans h1.bufs⟩

theorem LaunchStands.foldl {α : Type} {f : State → α → State} (hf : ∀ s x, LaunchStands s (f s x)) (l : List α) (s : State) :
    LaunchStands s (l.foldl f s) := by
  induction l generalizing s with
  | nil => exact .refl s
  | cons x l ih => exact (hf s x).trans (ih (f s x))

theorem launchStands_of_hostPower {s t : State} (h : hostPower s t) : LaunchStands s t := by
  unfold hostPower Safety.hostOnly at h
  exact ⟨by rw [h], by rw [h], by rw [h], by rw [h], by rw [h], by rw [h], by rw [h]⟩

theorem RingsMove.launchStands {s t : State} (h : RingsMove s t) : LaunchStands s t :=
  launchStands_of_hostPower (hostPower_of_hostOnly h.only.hostOnly)

/-! What follows the end of a launch. -/

theorem finishQuiesce_moves (s : State) :
    finishQuiesce s = s ∨ ∃ life, RingsMove { s with life := life } (finishQuiesce s) := by
  unfold finishQuiesce
  split
  · split
    · exact .inr ⟨_, (ringsMove_setState { s with life := { s.life with quiescePending := false } } .quiesced).trans
        (ringsMove_finishItem _ _ _ _)⟩
    · exact .inl rfl
  · exact .inl rfl

theorem finishQuiesce_stands (s : State) : LaunchStands s (finishQuiesce s) ∧ RecordsStand s (finishQuiesce s) := by
  rcases finishQuiesce_moves s with h | ⟨life, h⟩
  · rw [h]; exact ⟨.refl s, .of_comps rfl List.prefix_rfl⟩
  · exact ⟨(⟨rfl, rfl, rfl, rfl, rfl, rfl, rfl⟩ : LaunchStands s { s with life := life }).trans h.launchStands,
      (RecordsStand.of_comps (s := s) (t := { s with life := life }) rfl List.prefix_rfl).trans h.toRecordsStand⟩

theorem startChange_recordsStand (s : State) : RecordsStand s (startChange s) := by
  obtain ⟨c, ds, _, h⟩ := startChange_eq s
  rw [h]
  exact .of_comps rfl List.prefix_rfl

theorem applyLevel_recordsStand (s : State) : RecordsStand s (applyLevel s) := by
  cases ha : s.launchActive with
  | true => rw [applyLevel_active ha]; exact .of_comps rfl List.prefix_rfl
  | false =>
    cases hp : s.power.pendingLevel with
    | none => rw [applyLevel_stays ha hp]; exact .of_comps rfl List.prefix_rfl
    | some l =>
      rw [applyLevel_takes ha hp]
      exact (RecordsStand.of_comps (s := s) (t := levelTaken s l) rfl List.prefix_rfl).trans
        ((startChange_recordsStand _).trans (ringsMove_settleLevel _).toRecordsStand)

/-- What waited for the end of the launch happens, and the rings continue (R47, R257). -/
def afterLaunch (s : State) : State := pumpRings (finishQuiesce (applyLevel s))

theorem afterLaunch_stands (s : State) : LaunchStands s (afterLaunch s) ∧ RecordsStand s (afterLaunch s) := by
  obtain ⟨hq, hr⟩ := finishQuiesce_stands (applyLevel s)
  have hp := ringsMove_pumpRings (finishQuiesce (applyLevel s))
  exact ⟨((launchStands_of_hostPower (applyLevel_moves s).1).trans hq).trans hp.launchStands,
    ((applyLevel_recordsStand s).trans hr).trans hp.toRecordsStand⟩

/-! The cores and the buffers become free (R218, R232, R387). -/

theorem emitAll_eq {α : Type} (f : α → Output) (xs : List α) (s : State) :
    xs.foldl (fun s x => s.emit (f x)) s = { s with out := s.out ++ xs.map f } := by
  induction xs generalizing s with
  | nil => simp
  | cons x xs ih => rw [List.foldl_cons, ih]; simp [State.emit]

/-- The launch is over; its cores and buffers are free (R218). -/
def launchFreed (s : State) : State := releaseCores { s with launch := none, bufs := Vector.replicate 256 bufEntry0 }

theorem launchFreed_eq (s : State) : ∃ p cs o, launchFreed s = { s with
    launch := none, bufs := Vector.replicate 256 bufEntry0, power := p, cores := cs, out := s.out ++ o } := by
  unfold launchFreed releaseCores shedAll
  dsimp only
  rw [emitAll_eq]
  exact ⟨_, _, _, rfl⟩

theorem launchFreed_th (s : State) (r : ThRef) : (launchFreed s).th r = thread0 := by
  unfold launchFreed releaseCores State.th State.core
  dsimp only
  rw [show ∀ f : CoreId → Core, (Vector.ofFn f)[r.core] = f r.core from fun f => Vector.getElem_ofFn r.core.2]
  exact Vector.getElem_replicate r.t.2

theorem launchFreed_recordsStand (s : State) : RecordsStand s (launchFreed s) := by
  obtain ⟨p, cs, o, h⟩ := launchFreed_eq s
  rw [h]
  exact .of_comps rfl (List.prefix_append ..)

/-! The launch's rounds and records (R230, R261, R262, R345). -/

theorem finishClose_stands (s : State) (g : Nat) : LaunchStands s (finishClose s g) := by
  unfold finishClose
  split
  · exact .refl s
  · split
    · dsimp only
      split
      · refine .trans ?_ (ringsMove_finishItem _ _ _ _).launchStands
        exact ⟨rfl, rfl, rfl, rfl, rfl, rfl, rfl⟩
      · exact ⟨rfl, rfl, rfl, rfl, rfl, rfl, rfl⟩
    · exact .refl s

theorem abandonRounds_stands (s : State) : LaunchStands s (abandonRounds s) := by
  unfold abandonRounds
  refine .trans ?_ (LaunchStands.foldl finishClose_stands _ _)
  exact ⟨rfl, rfl, rfl, rfl, rfl, rfl, rfl⟩

theorem stopComp_stands (s : State) (cq : RingId) (err : Nat) : LaunchStands s (stopComp s cq err) := by
  unfold stopComp
  refine .trans ?_ (ringsMove_eventRecord _ _ _ _).launchStands
  exact ⟨rfl, rfl, rfl, rfl, rfl, rfl, rfl⟩

/-- A halted launch abandons what goes on (R345). -/
def roundsEnded (s : State) (l : Launch) : State :=
  if l.halt.isSome then abandonRounds { s with fabric := { s.fabric with tracked := [], reads := [] } } else s

theorem roundsEnded_stands (s : State) (l : Launch) : LaunchStands s (roundsEnded s l) := by
  unfold roundsEnded
  split
  · refine .trans ?_ (abandonRounds_stands _)
    exact ⟨rfl, rfl, rfl, rfl, rfl, rfl, rfl⟩
  · exact .refl s

/-- The records of the bound items are written (R230). -/
def itemsRecorded (s : State) (l : Launch) : State :=
  if l.d.backlog then s.bound.foldl (fun s b => writeRecord s (cqOf s b.h.sq) (itemRecord s l b)) s else s

theorem itemsRecorded_stands (s : State) (l : Launch) : LaunchStands s (itemsRecorded s l) := by
  unfold itemsRecorded
  split
  · exact LaunchStands.foldl (fun s b => (ringsMove_writeRecord s _ _).launchStands) _ _
  · exact .refl s

/-- The bound items leave with the launch (R228). -/
def itemsUnbound (s : State) (l : Launch) : State := if l.d.backlog then { s with bound := [] } else s

theorem itemsUnbound_stands (s : State) (l : Launch) : LaunchStands { s with bound := (itemsUnbound s l).bound } (itemsUnbound s l) ∧
    (l.d.backlog = true → (itemsUnbound s l).bound = []) := by
  unfold itemsUnbound
  split
  · exact ⟨.refl _, fun _ => rfl⟩
  · next hb => exact ⟨.refl s, fun h => absurd h hb⟩

/-- The launch's own records, behind those of its items; a ring that cannot be written stops (R243, R261, R262). -/
def launchRecorded (writeOk : Bool) (s : State) (l : Launch) (items : List Nat) : State :=
  if writeOk then
    match faultRecord l with
    | some f => writeRecord (writeRecord s (cqOf s l.h.sq) { launchRecord s l with after := items }) (cqOf s l.h.sq) f
    | none => writeRecord s (cqOf s l.h.sq) { launchRecord s l with after := items }
  else
    { stopComp s (cqOf s l.h.sq) 3 with items := (stopComp s (cqOf s l.h.sq) 3).items.filter fun i => decide (i.id ≠ l.item) }

theorem launchRecorded_stands (writeOk : Bool) (s : State) (l : Launch) (items : List Nat) :
    LaunchStands s (launchRecorded writeOk s l items) := by
  unfold launchRecorded
  split
  · split
    · exact ((ringsMove_writeRecord ..).trans (ringsMove_writeRecord ..)).launchStands
    · exact (ringsMove_writeRecord ..).launchStands
  · exact (stopComp_stands s (cqOf s l.h.sq) 3).trans ⟨rfl, rfl, rfl, rfl, rfl, rfl, rfl⟩

/-! The instruction. -/

section
variable {s : State} {l : Launch}

/-- The chip before the launch's own records are written. -/
def launchSettled (s : State) (l : Launch) : State :=
  roundsEnded (traceDispatch (itemsUnbound (itemsRecorded (settleStrs s 0) l) l) l.h.sq l.h.slot l.h.word) l

theorem settleStrs_stands (s : State) (roots : Nat) : LaunchStands s (settleStrs s roots) ∧ RecordsStand s (settleStrs s roots) := by
  obtain ⟨c, ds, _, h⟩ := settleStrs_eq s roots
  rw [h]
  exact ⟨⟨rfl, rfl, rfl, rfl, rfl, rfl, rfl⟩, .of_comps rfl List.prefix_rfl⟩

theorem launchSettled_state (s : State) (l : Launch) : (launchSettled s l).hbm = s.hbm ∧ (launchSettled s l).sites = s.sites ∧
    (launchSettled s l).seq = s.seq ∧ (l.d.backlog = true → (launchSettled s l).bound = []) := by
  have h1 := (settleStrs_stands s 0).1
  have h2 := h1.trans (itemsRecorded_stands (settleStrs s 0) l)
  obtain ⟨h4, hb⟩ := itemsUnbound_stands (itemsRecorded (settleStrs s 0) l) l
  have h3 := (ringsMove_traceDispatch (itemsUnbound (itemsRecorded (settleStrs s 0) l) l) l.h.sq l.h.slot l.h.word).launchStands.trans
    (roundsEnded_stands _ l)
  exact ⟨h3.hbm.trans (h4.hbm.trans h2.hbm), h3.sites.trans (h4.sites.trans h2.sites), h3.seq.trans (h4.seq.trans h2.seq),
    fun h => h3.bound.trans (hb h)⟩

/-- The items whose records come before the launch's (R230). -/
def itemsClosed (s : State) (l : Launch) : List Nat := if l.d.backlog then s.bound.filterMap (boundItemId s) else []

/-- LAUNCH_COMPLETE by its steps (R218). -/
theorem exec_launchComplete (writeOk : Bool) (s : State) : exec (.launchComplete writeOk) s = .next (match s.launch with
    | none => s
    | some l =>
      if !launchFinished s l then s
      else afterLaunch (launchFreed (launchRecorded writeOk (launchSettled s l) l (itemsClosed (settleStrs s 0) l)))) := rfl

theorem launchComplete_waits (writeOk : Bool) (hl : s.launch = some l) (hf : launchFinished s l = false) :
    exec (.launchComplete writeOk) s = .next s := by
  rw [exec_launchComplete]
  simp only [hl, hf]
  rfl

theorem launchComplete_completes (writeOk : Bool) (hl : s.launch = some l) (hf : launchFinished s l = true) :
    exec (.launchComplete writeOk) s =
      .next (afterLaunch (launchFreed (launchRecorded writeOk (launchSettled s l) l (itemsClosed (settleStrs s 0) l)))) := by
  rw [exec_launchComplete]
  simp only [hl, hf, Bool.not_true, Bool.false_eq_true, if_false]

/-- A finished launch ends, and its cores and buffers are free; no byte of memory has changed (R218, R228, R232). -/
theorem launchComplete_ends (writeOk : Bool) (hl : s.launch = some l) (hf : launchFinished s l = true) :
    ∃ t, exec (.launchComplete writeOk) s = .next t ∧ t.launch = none ∧ t.hbm.mem = s.hbm.mem ∧ t.sites = s.sites ∧
      (∀ b : Fin 256, t.bufs[b] = bufEntry0) ∧ (l.d.backlog = true → t.bound = []) ∧ t.seq = s.seq ∧ ∀ r, (t.th r).st = .absent := by
  refine ⟨_, launchComplete_completes writeOk hl hf, ?_⟩
  obtain ⟨x, hx⟩ : ∃ x, x = launchRecorded writeOk (launchSettled s l) l (itemsClosed (settleStrs s 0) l) := ⟨_, rfl⟩
  obtain ⟨hhbm, hsites, hseq, hbound⟩ := launchSettled_state s l
  have hr := launchRecorded_stands writeOk (launchSettled s l) l (itemsClosed (settleStrs s 0) l)
  rw [← hx] at hr ⊢
  obtain ⟨p, cs, o, hfr⟩ := launchFreed_eq x
  have ha := (afterLaunch_stands (launchFreed x)).1
  have hfree : (launchFreed x).launch = none ∧ (launchFreed x).hbm = x.hbm ∧ (launchFreed x).sites = x.sites ∧
      (launchFreed x).bufs = Vector.replicate 256 bufEntry0 ∧ (launchFreed x).bound = x.bound ∧ (launchFreed x).seq = x.seq := by
    rw [hfr]; exact ⟨rfl, rfl, rfl, rfl, rfl, rfl⟩
  obtain ⟨f1, f2, f3, f4, f5, f6⟩ := hfree
  refine ⟨ha.launch.trans f1, ?_, ?_, fun b => ?_, fun h => ?_, ?_, fun r => ?_⟩
  · rw [ha.hbm, f2, hr.hbm, hhbm]
  · rw [ha.sites, f3, hr.sites, hsites]
  · rw [ha.bufs, f4]
    exact Vector.getElem_replicate b.2
  · rw [ha.bound, f5, hr.bound, hbound h]
  · rw [ha.seq, f6, hr.seq, hseq]
  · rw [State.th_congr ha.cores r, launchFreed_th]
    rfl

/-- The launch's record reads the buffer table and the Tally (Table 10.12). -/
theorem launchRecord_congr {t : State} (hb : t.bufs = s.bufs) (ht : t.tally = s.tally) : launchRecord t l = launchRecord s l := by
  unfold launchRecord bufsHeld
  rw [hb, ht]

/-- A launch without a backlog that has not halted leaves its one record (R261). -/
theorem launchComplete_record (hl : s.launch = some l) (hf : launchFinished s l = true) (hb : l.d.backlog = false) (hh : l.halt = none) :
    ∃ t, exec (.launchComplete true) s = .next t ∧ recordGiven s t (s.subs[l.h.sq]).cq (launchRecord s l) := by
  refine ⟨_, launchComplete_completes true hl hf, ?_⟩
  obtain ⟨x, hx⟩ : ∃ x, x = traceDispatch (settleStrs s 0) l.h.sq l.h.slot l.h.word := ⟨_, rfl⟩
  have hsettled : launchSettled s l = x := by
    unfold launchSettled itemsUnbound itemsRecorded roundsEnded
    rw [hx, hb, hh]
    rfl
  obtain ⟨c, ds, _, hst⟩ := settleStrs_eq s 0
  have hm := ringsMove_traceDispatch (settleStrs s 0) l.h.sq l.h.slot l.h.word
  rw [← hx] at hm
  have htally : x.tally = s.tally := by
    have h := hm.only
    unfold ringsOnly at h
    rw [h, hst]
  have hsubs : x.subs = s.subs := by rw [hx, traceDispatch_subs, hst]
  have hbufs : x.bufs = s.bufs := hm.launchStands.bufs.trans (settleStrs_stands s 0).1.bufs
  have hrec : launchRecorded true x l (itemsClosed (settleStrs s 0) l) = writeRecord x (s.subs[l.h.sq]).cq (launchRecord s l) := by
    have hfault : faultRecord l = none := by unfold faultRecord; rw [hh]
    have hitems : itemsClosed (settleStrs s 0) l = [] := by unfold itemsClosed; rw [hb]; rfl
    unfold launchRecorded cqOf
    simp only [hfault, hitems, hsubs, launchRecord_congr hbufs htally, if_true]
    rfl
  rw [hsettled, hrec]
  exact recordGiven_of_moves ((settleStrs_stands s 0).2.trans hm.toRecordsStand)
    ((launchFreed_recordsStand _).trans (afterLaunch_stands _).2)

end

/-- Settles O42: each part of a launch by its own lemma, from its descriptor to its record. -/
theorem launchesRun : Obligations.LaunchesRun := by
  unfold Obligations.LaunchesRun
  refine fun s => ⟨fun sq d ho hop => ⟨launch_accepts ho hop, backlogItem_accepts ho hop⟩, fun i d hn ha hh => launchStart_state hn ha hh,
    launchStart_waits, fun l hl hst hc ha => ⟨launchFirstIssue_early hl, fun ht hr => ?_⟩,
    fun l ok hl hf => launchComplete_waits ok hl hf,
    fun l hl hf => ⟨fun ok => launchComplete_ends ok hl hf, launchComplete_record hl hf⟩⟩
  obtain ⟨l', hl', hact, htick, hlate, hticks, hrest⟩ := firstIssued_state s l
  exact ⟨_, l', launchFirstIssue_issues hl hst hc ha ht hr, hl', hact, htick, ⟨hlate, hticks⟩, hrest⟩

end Sys2Proof.Machine
end

section
/-! Proofs: the tiles of a core, their elements and their status words (R100, R120, R131). -/
namespace Sys2Proof.Machine

open Sys2Proof.Safety

/-- No condition of a list that raises no fault holds. -/
theorem firstFault_none {l : List (Bool × IFault)} (h : firstFault l = none) {b : Bool} {f : IFault} (hm : (b, f) ∈ l) : b = false := by
  simpa using List.find?_eq_none.1 (Option.map_eq_none_iff.1 h) _ hm

/-! Elements. -/

theorem tileNo_ne {p q : Nat} (hp : p < 32) (hq : q < 32) (h : p ≠ q) : Fin.ofNat 32 p ≠ Fin.ofNat 32 q := by
  simpa [Fin.ext_iff, Nat.mod_eq_of_lt hp, Nat.mod_eq_of_lt hq] using h

theorem tileNo_ne_succ (t : Nat) : Fin.ofNat 32 t ≠ Fin.ofNat 32 (t + 1) := by
  simp only [ne_eq, Fin.ext_iff, Fin.val_ofNat]
  omega

theorem mem_withPartners {pair : Bool} {t y : Nat} : y ∈ withPartners pair [t] ↔ y = t ∨ (pair = true ∧ y = t + 1) := by
  cases pair <;> simp [withPartners]

theorem tileGet_congr {k m : Core} {y : Nat} (h : k.tiles[Fin.ofNat 32 y] = m.tiles[Fin.ofNat 32 y]) (i j : Nat) :
    tileGet k y i j = tileGet m y i j := by
  simp only [tileGet, h]

theorem accGet_congr {k m : Core} (h : k.tiles = m.tiles) (acc : Acc) (t i j : Nat) : accGet k acc t i j = accGet m acc t i j := by
  simp only [accGet, tileGet, h]

theorem tiles_mapTile_ne (k : Core) (t : Nat) (f : Fin 32 → Fin 32 → W32) {p : Fin 32} (h : p ≠ Fin.ofNat 32 t) :
    (mapTile k t f).tiles[p] = k.tiles[p] := vset_ne _ _ h

theorem tileGet_mapTile (k : Core) (t : Nat) (f : Fin 32 → Fin 32 → W32) (i j : Nat) :
    tileGet (mapTile k t f) t i j = f (Fin.ofNat 32 i) (Fin.ofNat 32 j) := by
  rw [tileGet, mapTile, vset_same]
  simp only [Fin.getElem_fin, Vector.getElem_ofFn]

section
variable (k : Core) (acc : Acc) (t : Nat) (f : Fin 32 → Fin 32 → AccVal)

/-- Replacing a tile's elements moves the tiles of a core only. -/
theorem putAcc_eq : putAcc k acc t f = { k with tiles := (putAcc k acc t f).tiles } := by
  unfold putAcc mapTile; split <;> rfl

/-- Every tile but the named one and, for a pair, its partner stays. -/
theorem tiles_putAcc_ne {p : Fin 32} (h : ∀ y ∈ withPartners (acc = .fp32p) [t], p ≠ Fin.ofNat 32 y) :
    (putAcc k acc t f).tiles[p] = k.tiles[p] := by
  have hhi := tiles_mapTile_ne k t (fun i j => (f i j).hi) (h t (mem_withPartners.2 (.inl rfl)))
  unfold putAcc
  split
  · next ha => exact (tiles_mapTile_ne _ _ _ (h (t + 1) (mem_withPartners.2 (.inr ⟨decide_eq_true ha, rfl⟩)))).trans hhi
  · exact hhi

theorem tileGet_putAcc_hi (i j : Nat) : tileGet (putAcc k acc t f) t i j = (f (Fin.ofNat 32 i) (Fin.ofNat 32 j)).hi := by
  have hhi := tileGet_mapTile k t (fun i j => (f i j).hi) i j
  unfold putAcc
  split
  · exact (tileGet_congr (tiles_mapTile_ne _ _ _ (tileNo_ne_succ t)) i j).trans hhi
  · exact hhi

theorem tileGet_putAcc_lo (ha : acc = .fp32p) (i j : Nat) :
    tileGet (putAcc k acc t f) (t + 1) i j = (f (Fin.ofNat 32 i) (Fin.ofNat 32 j)).lo := by
  unfold putAcc
  rw [if_pos ha]
  exact tileGet_mapTile ..

/-- What an accumulator reads back of a tile it has replaced: an accumulator without a second tile keeps no lo. -/
theorem accGet_putAcc (i j : Nat) : accGet (putAcc k acc t f) acc t i j =
    if acc = .fp32p then f (Fin.ofNat 32 i) (Fin.ofNat 32 j) else ⟨(f (Fin.ofNat 32 i) (Fin.ofNat 32 j)).hi, 0⟩ := by
  unfold accGet
  rw [tileGet_putAcc_hi]
  split
  · next ha => rw [tileGet_putAcc_lo k acc t f ha]
  · rfl

/-- An element replaced by what it was stays, its partner too. -/
theorem tileGet_putAcc_old {i j : Nat} (h : f (Fin.ofNat 32 i) (Fin.ofNat 32 j) = accGet k acc t i j) {y : Nat}
    (hy : y ∈ withPartners (acc = .fp32p) [t]) : tileGet (putAcc k acc t f) y i j = tileGet k y i j := by
  rcases mem_withPartners.1 hy with rfl | ⟨ha, rfl⟩
  · rw [tileGet_putAcc_hi, h]; rfl
  · have ha' := of_decide_eq_true ha
    rw [tileGet_putAcc_lo k acc t f ha', h]
    exact if_pos ha'

end

/-! What an array operation may move of the state. -/

/-- From `s` to `t` nothing moves but the tiles and status words of one core, its thread's notes of what its pass has written (R131)
and, in the launch, no more than marks: it counts as before. -/
structure TilesOnly (s t : State) (r : ThRef) : Prop where
  state : t = { s with cores := t.cores, launch := t.launch }
  counting : t.counting = s.counting
  others : ∀ c, c ≠ r.core → t.core c = s.core c
  core : t.core r.core =
    { s.core r.core with threads := (t.core r.core).threads, tiles := (t.core r.core).tiles, status := (t.core r.core).status }
  thread : t.th r = { s.th r with written := (t.th r).written, touched := (t.th r).touched, statusSn := (t.th r).statusSn }

namespace TilesOnly

variable {s t u : State} {r : ThRef}

theorem refl (s : State) (r : ThRef) : TilesOnly s s r := ⟨rfl, rfl, fun _ _ => rfl, rfl, rfl⟩

theorem trans (h1 : TilesOnly s t r) (h2 : TilesOnly t u r) : TilesOnly s u r where
  state := by rw [h2.state, h1.state]
  counting := h2.counting.trans h1.counting
  others c hc := (h2.others c hc).trans (h1.others c hc)
  core := by rw [h2.core, h1.core]
  thread := by rw [h2.thread, h1.thread]

theorem hbm (h : TilesOnly s t r) : t.hbm = s.hbm := by rw [h.state]
theorem sites (h : TilesOnly s t r) : t.sites = s.sites := by rw [h.state]
theorem bufs (h : TilesOnly s t r) : t.bufs = s.bufs := by rw [h.state]

end TilesOnly

theorem touchTile_tilesOnly (s : State) (r : ThRef) (t : Nat) (rows cols : BitVec 32) : TilesOnly s (touchTile s r t rows cols) r :=
  ⟨rfl, rfl, fun _ hc => State.core_modTh_ne _ _ _ hc, by simp [touchTile], by simp [touchTile]⟩

theorem putAcc_tilesOnly (s : State) (r : ThRef) (acc : Acc) (t : Nat) (f : Fin 32 → Fin 32 → AccVal) :
    TilesOnly s (s.modCore r.core fun k => putAcc k acc t f) r := by
  have hc : (s.modCore r.core fun k => putAcc k acc t f).core r.core =
      { s.core r.core with tiles := (putAcc (s.core r.core) acc t f).tiles } :=
    (State.core_modCore ..).trans (putAcc_eq ..)
  exact ⟨rfl, rfl, fun _ hc => State.core_modCore_ne _ _ hc, by rw [hc], by simp only [State.th, hc]⟩

/-- Noting tiles in the open pass moves the thread's notes only. -/
theorem touchTiles_keeps (s : State) (r : ThRef) (rows cols : BitVec 32) (l : List Nat) :
    let u := l.foldl (fun s t => touchTile s r t rows cols) s
    TilesOnly s u r ∧ (u.core r.core).tiles = (s.core r.core).tiles ∧ (u.core r.core).status = (s.core r.core).status := by
  refine List.foldlRecOn l _ (motive := fun u => TilesOnly s u r ∧ (u.core r.core).tiles = (s.core r.core).tiles ∧
    (u.core r.core).status = (s.core r.core).status) ⟨.refl s r, rfl, rfl⟩ fun u ⟨h, ht, hs⟩ t _ => ?_
  exact ⟨h.trans (touchTile_tilesOnly u r t rows cols), by simpa [touchTile] using ht, by simpa [touchTile] using hs⟩

/-- A core's status words with the tile's and, for a pair, its partner's replaced (R100). -/
def statusPut (v : Vector TileStatus 32) (t : Nat) (pair : Bool) (st : TileStatus) : Vector TileStatus 32 :=
  if pair then vset (vset v (Fin.ofNat 32 t) st) (Fin.ofNat 32 (t + 1)) st else vset v (Fin.ofNat 32 t) st

theorem statusPut_same (v : Vector TileStatus 32) (t : Nat) (pair : Bool) (st : TileStatus) :
    (statusPut v t pair st)[Fin.ofNat 32 t] = st := by
  cases pair
  · exact vset_same ..
  · exact (vset_ne _ _ (tileNo_ne_succ t)).trans (vset_same ..)

theorem statusPut_ne (v : Vector TileStatus 32) {t : Nat} {pair : Bool} (st : TileStatus) {p : Fin 32}
    (h : ∀ y ∈ withPartners pair [t], p ≠ Fin.ofNat 32 y) : (statusPut v t pair st)[p] = v[p] := by
  have ht := h t (mem_withPartners.2 (.inl rfl))
  cases pair
  · exact vset_ne _ _ ht
  · exact (vset_ne _ _ (h (t + 1) (mem_withPartners.2 (.inr ⟨rfl, rfl⟩)))).trans (vset_ne _ _ ht)

/-- Writing a status word moves the core's status words and the launch's mark (R102) only. -/
theorem putStatus_eq (s : State) (c : CoreId) (t : Nat) (pair : Bool) (st : TileStatus) : putStatus s c t pair st =
    { s.modCore c (fun k => { k with status := statusPut k.status t pair st }) with
      launch := if st.depth then s.launch.map fun l => { l with depth := true } else s.launch } := by
  obtain ⟨nb, depth, flags⟩ := st
  cases depth <;> cases pair <;> rfl

theorem putStatus_cores (s : State) (c : CoreId) (t : Nat) (pair : Bool) (st : TileStatus) :
    (putStatus s c t pair st).cores = (s.modCore c fun k => { k with status := statusPut k.status t pair st }).cores := by
  rw [putStatus_eq]

theorem putStatus_core (s : State) (c : CoreId) (t : Nat) (pair : Bool) (st : TileStatus) :
    (putStatus s c t pair st).core c = { s.core c with status := statusPut (s.core c).status t pair st } :=
  (State.core_congr (putStatus_cores ..) c).trans (State.core_modCore ..)

theorem putStatus_counting (s : State) (c : CoreId) (t : Nat) (pair : Bool) (st : TileStatus) :
    (putStatus s c t pair st).counting = s.counting := by
  rw [putStatus_eq]
  unfold State.counting
  cases st.depth <;> cases s.launch <;> rfl

theorem putStatus_tilesOnly (s : State) (r : ThRef) (t : Nat) (pair : Bool) (st : TileStatus) :
    TilesOnly s (putStatus s r.core t pair st) r where
  state := by rw [putStatus_eq]; rfl
  counting := putStatus_counting ..
  others c hc := (State.core_congr (putStatus_cores ..) c).trans (State.core_modCore_ne _ _ hc)
  core := by rw [putStatus_core]
  thread := by simp only [State.th, putStatus_core]

theorem tileGet_modTh (s : State) (r : ThRef) (f : Thread → Thread) (y i j : Nat) :
    tileGet ((s.modTh r f).core r.core) y i j = tileGet (s.core r.core) y i j := by
  rw [State.core_modTh]
  rfl

theorem statusOf_modTh (s : State) (r : ThRef) (f : Thread → Thread) (q : Nat) :
    statusOf (s.modTh r f) r.core q = statusOf s r.core q := by
  simp only [statusOf, State.core_modTh]

/-! A tile replaced, as array operations and joins do it. -/

/-- A tile, or a pair tile, is noted in the open pass and its elements replaced. -/
def fillTile (s : State) (r : ThRef) (acc : Acc) (t : Nat) (rows cols : BitVec 32) (f : Fin 32 → Fin 32 → AccVal) : State :=
  ((withPartners (acc = .fp32p) [t]).foldl (fun s t => touchTile s r t rows cols) s).modCore r.core fun k => putAcc k acc t f

/-- The same, and its status word is written. -/
def storeTile (s : State) (r : ThRef) (acc : Acc) (t : Nat) (rows cols : BitVec 32)
    (f : Fin 32 → Fin 32 → AccVal) (st : TileStatus) : State :=
  putStatus (fillTile s r acc t rows cols f) r.core t (acc = .fp32p) st

section
variable (s : State) (r : ThRef) (acc : Acc) (t : Nat) (rows cols : BitVec 32) (f : Fin 32 → Fin 32 → AccVal) (st : TileStatus)

theorem fillTile_tiles : ((fillTile s r acc t rows cols f).core r.core).tiles = (putAcc (s.core r.core) acc t f).tiles := by
  have hput : ∀ k m : Core, k.tiles = m.tiles → (putAcc k acc t f).tiles = (putAcc m acc t f).tiles := fun k m h => by
    simp only [putAcc, mapTile, apply_ite Core.tiles, h]
  obtain ⟨-, htiles, -⟩ := touchTiles_keeps s r rows cols (withPartners (acc = .fp32p) [t])
  rw [fillTile, State.core_modCore]
  exact hput _ _ htiles

theorem fillTile_status : ((fillTile s r acc t rows cols f).core r.core).status = (s.core r.core).status := by
  obtain ⟨-, -, hstatus⟩ := touchTiles_keeps s r rows cols (withPartners (acc = .fp32p) [t])
  rw [fillTile, State.core_modCore, putAcc_eq]
  exact hstatus

theorem statusOf_fillTile (q : Nat) : statusOf (fillTile s r acc t rows cols f) r.core q = statusOf s r.core q := by
  simp only [statusOf, fillTile_status]

theorem storeTile_tilesOnly : TilesOnly s (storeTile s r acc t rows cols f st) r := by
  obtain ⟨htouch, -, -⟩ := touchTiles_keeps s r rows cols (withPartners (acc = .fp32p) [t])
  exact (htouch.trans (putAcc_tilesOnly _ r acc t f)).trans (putStatus_tilesOnly ..)

/-- The tiles are those of the core with the elements replaced. -/
theorem storeTile_tiles : ((storeTile s r acc t rows cols f st).core r.core).tiles = (putAcc (s.core r.core) acc t f).tiles := by
  rw [storeTile, putStatus_core]
  exact fillTile_tiles ..

theorem statusOf_storeTile : statusOf (storeTile s r acc t rows cols f st) r.core t = st := by
  simp only [statusOf, storeTile, putStatus_core]
  exact statusPut_same ..

theorem tileGet_storeTile (y i j : Nat) :
    tileGet ((storeTile s r acc t rows cols f st).core r.core) y i j = tileGet (putAcc (s.core r.core) acc t f) y i j :=
  tileGet_congr (by simp only [storeTile_tiles]) i j

theorem accGet_storeTile (i j : Nat) : accGet ((storeTile s r acc t rows cols f st).core r.core) acc t i j =
    if acc = .fp32p then f (Fin.ofNat 32 i) (Fin.ofNat 32 j) else ⟨(f (Fin.ofNat 32 i) (Fin.ofNat 32 j)).hi, 0⟩ :=
  (accGet_congr (storeTile_tiles ..) ..).trans (accGet_putAcc ..)

/-- A tile that is neither the one replaced nor its partner keeps its elements and its status word. -/
theorem storeTile_ne {q : Nat} (hq : q < 32) (ht : ∀ y ∈ withPartners (acc = .fp32p) [t], y < 32)
    (h : q ∉ withPartners (acc = .fp32p) [t]) :
    ((storeTile s r acc t rows cols f st).core r.core).tiles[Fin.ofNat 32 q] = (s.core r.core).tiles[Fin.ofNat 32 q] ∧
      statusOf (storeTile s r acc t rows cols f st) r.core q = statusOf s r.core q := by
  have hne : ∀ y ∈ withPartners (acc = .fp32p) [t], Fin.ofNat 32 q ≠ Fin.ofNat 32 y := fun y hy =>
    tileNo_ne hq (ht y hy) fun e => h (e ▸ hy)
  constructor
  · simp only [storeTile_tiles]
    exact tiles_putAcc_ne _ _ _ _ hne
  · simp only [statusOf, storeTile, putStatus_core, fillTile_status]
    exact statusPut_ne _ _ hne

end

/-! An executed array operation. -/

/-- A thread with one more scoreboard entry. -/
def Thread.entered (e : SbEntry) (x : Thread) : Thread := { x with sb := x.sb ++ [e] }

/-- What holds of `t` when an instruction of thread `th` has taken an entry in `s` and, with no more than tiles moved, left `u`. -/
structure ArrayDone (s u t : State) (th : ThRef) (e : SbEntry) (p : Nat) : Prop where
  hbm : t.hbm = s.hbm
  sites : t.sites = s.sites
  bufs : t.bufs = s.bufs
  others : ∀ c, c ≠ th.core → t.core c = s.core c
  planes : (t.core th.core).planes = (s.core th.core).planes
  slots : (t.core th.core).slots = (s.core th.core).slots
  ev : (t.core th.core).ev = (s.core th.core).ev
  regs : (t.th th).regs = (s.th th).regs
  sb : (t.th th).sb = (s.th th).sb ++ [e]
  pos : (t.th th).pos = p
  tiles : (t.core th.core).tiles = (u.core th.core).tiles
  status : ∀ q, statusOf t th.core q = statusOf u th.core q

/-- An instruction goes on from a state in which, after its entry, no more than tiles have moved. -/
theorem arrayDone_of_goesOn {s u t : State} {th : ThRef} {e : SbEntry} {p : Nat} (hu : TilesOnly (s.modTh th (Thread.entered e)) u th)
    (ht : goesOn u t th (u.th th) p) : ArrayDone s u t th e p := by
  obtain ⟨⟨hstate, hother, -, hcore⟩, hth, -⟩ := ht
  have hk := hu.core
  have hx := hu.thread
  rw [State.core_modTh] at hk
  rw [State.th_modTh] at hx
  have hbm : t.hbm = u.hbm := by rw [hstate]
  have hsites : t.sites = u.sites := by rw [hstate]
  have hbufs : t.bufs = u.bufs := by rw [hstate]
  have hstatus : (t.core th.core).status = (u.core th.core).status := by rw [hcore]
  exact {
    hbm := hbm.trans hu.hbm
    sites := hsites.trans hu.sites
    bufs := hbufs.trans hu.bufs
    others := fun c hc => (hother c hc).trans ((hu.others c hc).trans (State.core_modTh_ne s _ _ hc))
    planes := by rw [hcore, hk]
    slots := by rw [hcore, hk]
    ev := by rw [hcore, hk]
    regs := by rw [hth, hx]; rfl
    sb := by rw [hth, hx]; rfl
    pos := by rw [hth]; rfl
    tiles := by rw [hcore]
    status := fun q => by simp only [statusOf, hstatus] }

theorem ArrayDone.element {s u t : State} {th : ThRef} {e : SbEntry} {p : Nat} (h : ArrayDone s u t th e p) (y i j : Nat) :
    tileGet (t.core th.core) y i j = tileGet (u.core th.core) y i j := by
  simp only [tileGet, h.tiles]

end Sys2Proof.Machine
end

section
/-! Proofs: read-outs and joins (R103, R123, R124). -/
namespace Sys2Proof.Machine

open Sys2Proof.Safety

/-! Flags of many elements. -/

/-- A flag stands in the OR of many words where it stood before or stands in one of them. -/
theorem getLsbD_foldl_or {α : Type} (g : α → FlagWord) (l : List α) (v : FlagWord) (b : Nat) :
    (l.foldl (fun f x => f ||| g x) v).getLsbD b = true ↔ v.getLsbD b = true ∨ ∃ x ∈ l, (g x).getLsbD b = true := by
  induction l generalizing v with
  | nil => simp
  | cons x l ih => simp [ih, or_assoc]

/-- The words beside the elements of many rows, in one. -/
def rowsFlags {α : Type} (rows : List (List (α × FlagWord))) (v : FlagWord) : FlagWord :=
  rows.foldl (fun f row => row.foldl (fun g x => g ||| x.2) f) v

theorem getLsbD_rowsFlags {α : Type} (rows : List (List (α × FlagWord))) (v : FlagWord) (b : Nat) :
    (rowsFlags rows v).getLsbD b = true ↔
      v.getLsbD b = true ∨ ∃ row ∈ rows, ∃ x ∈ row, x.2.getLsbD b = true := by
  induction rows generalizing v with
  | nil => simp [rowsFlags]
  | cons row rows ih =>
    refine (ih _).trans ?_
    simp [getLsbD_foldl_or (fun x : α × FlagWord => x.2), or_assoc]

/-- The elements of a tile, row by row. -/
def tileTable {α : Type} (g : Nat → Nat → α) : List (List α) := (List.range 32).map fun i => (List.range 32).map (g i)

theorem tileTable_getD {α : Type} (g : Nat → Nat → α) {i j : Nat} (hi : i < 32) (hj : j < 32) (d : α) :
    ((tileTable g).getD i []).getD j d = g i j := by
  simp [tileTable, List.getD_eq_getElem?_getD, hi, hj]

theorem tileTable_flags {α : Type} (g : Nat → Nat → α × FlagWord) (b : Nat) :
    (rowsFlags (tileTable g) 0).getLsbD b = true ↔
      ∃ i j, i < 32 ∧ j < 32 ∧ (g i j).2.getLsbD b = true := by
  rw [getLsbD_rowsFlags]
  constructor
  · rintro (h | ⟨row, hrow, x, hx, h⟩)
    · simp at h
    · obtain ⟨i, hi, rfl⟩ := List.mem_map.1 hrow
      obtain ⟨j, hj, rfl⟩ := List.mem_map.1 hx
      exact ⟨i, j, List.mem_range.1 hi, List.mem_range.1 hj, h⟩
  · rintro ⟨i, j, hi, hj, h⟩
    exact .inr ⟨_, List.mem_map.2 ⟨i, List.mem_range.2 hi, rfl⟩, _, List.mem_map.2 ⟨j, List.mem_range.2 hj, rfl⟩, h⟩

/-! Read-outs. -/

/-- A read-out's element, converted, with the conversion's flags (R123). -/
def trdCell (k : Core) (g : Regs) (w : Nat) (fmt : Fmt) (i j : Nat) : Nat × FlagWord :=
  trdElem (accOf (field w 29 2)) fmt (rmodeOf (field w 23 2)) (bit w 22)
    (if rmodeOf (field w 23 2) = .sr then
      srRandom (g.get (fA w)) (streamWord (g.get (fB w))).1 ((streamWord (g.get (fB w))).2 + i * (stridedWord (g.get (fD w))).third + j)
    else 0)
    (accGet k (accOf (field w 29 2)) (tileIx (field w 34 2) (field w 31 3)) i j)

/-- The flags of a row's conversions. -/
def trdFlags (k : Core) (g : Regs) (w : Nat) (fmt : Fmt) (i : Nat) : FlagWord :=
  ((List.range 32).map (trdCell k g w fmt i)).foldl (fun f x => f ||| x.2) 0

/-- A row put in the bench. -/
def trdRow (k : Core) (g : Regs) (w : Nat) (fmt : Fmt) (c : CoreId) (u : State) (i : Nat) : State :=
  benchWrite u c ((stridedWord (g.get (fD w))).base + i * (stridedWord (g.get (fD w))).stride)
    (packElems fmt.bits ((List.range 32).map fun j => (trdCell k g w fmt i j).1))

theorem exec_trd (th : ThRef) (s : State) : exec (.trd th) s = .next (issue (opRow 0x42 trdUnits runTrd) th s) := rfl

section
variable {s : State} {th : ThRef} {ix w : Nat} {fmt : Fmt} (hf : Fmt.ofCode (field w 25 4) = some fmt)
include hf

theorem runTrd_held
    (hh : benchHeld s th.core [] (trdSpans fmt (field w 17 5 + 1) (stridedWord ((s.th th).regs.get (fD w)))) = true) :
    runTrd s ⟨th, ix, w⟩ = .stay s := by
  simp only [runTrd, hf, guardBench, Ctx.regs, hh, if_true]

variable (hh : benchHeld s th.core [] (trdSpans fmt (field w 17 5 + 1) (stridedWord ((s.th th).regs.get (fD w)))) = false)
include hh

theorem runTrd_fault {f : IFault} (hx : trdFault s ⟨th, ix, w⟩ fmt = some f) : runTrd s ⟨th, ix, w⟩ = .fault f := by
  simp only [runTrd, hf, guardBench, Ctx.regs, hh, hx]
  rfl

theorem runTrd_rows (hx : trdFault s ⟨th, ix, w⟩ fmt = none) : runTrd s ⟨th, ix, w⟩ = .done ((List.range (field w 17 5 + 1)).foldl
    (fun u i => orFlags (trdRow (s.core th.core) (s.th th).regs w fmt th.core u i) th (trdFlags (s.core th.core) (s.th th).regs w fmt i))
    (s.modTh th (Thread.entered ⟨trdUnits w, .readout, ix⟩))) := by
  simp only [runTrd, hf, guardBench, Ctx.regs, hh, hx, trdRow, trdFlags, List.map_map]
  rfl

end

/-- A thread with more flags in its vector flag word (R142). -/
def Thread.flagged (fl : FlagWord) (x : Thread) : Thread := { x with regs := { x.regs with vfl := x.regs.vfl ||| fl } }

theorem Thread.flagged_zero (f : Thread → Thread) : Thread.flagged 0 ∘ f = f := by
  funext x
  simp [Thread.flagged]

/-- Rows go to the bench, and their flags to the thread: of many rows, all the bytes and then all the flags. -/
theorem trdRows_flags (k : Core) (g : Regs) (w : Nat) (fmt : Fmt) (c : CoreId) (r : ThRef) (fl : Nat → FlagWord) (l : List Nat) :
    ∀ (u : State) (f : Thread → Thread) (v : FlagWord),
      l.foldl (fun u i => orFlags (trdRow k g w fmt c u i) r (fl i)) (u.modTh r (Thread.flagged v ∘ f)) =
        (l.foldl (trdRow k g w fmt c) u).modTh r (Thread.flagged (l.foldl (fun v i => v ||| fl i) v) ∘ f) := by
  induction l with
  | nil => exact fun _ _ _ => rfl
  | cons i l ih =>
    intro u f v
    have hstep : orFlags (trdRow k g w fmt c (u.modTh r (Thread.flagged v ∘ f)) i) r (fl i) =
        (trdRow k g w fmt c u i).modTh r (Thread.flagged (v ||| fl i) ∘ f) := by
      refine (State.modTh_modTh (trdRow k g w fmt c u i) r (Thread.flagged v ∘ f) (Thread.flagged (fl i))).trans
        (congrArg _ (funext fun x => ?_))
      simp [Thread.flagged, BitVec.or_assoc]
    simp only [List.foldl_cons, hstep, ih]

/-- Rows put in the bench move the sites only. -/
theorem trdRows_eq (k : Core) (g : Regs) (w : Nat) (fmt : Fmt) (c : CoreId) (l : List Nat) (s : State) :
    l.foldl (trdRow k g w fmt c) s = { s with sites := (l.foldl (trdRow k g w fmt c) s).sites } := by
  refine List.foldlRecOn l _ (motive := fun u : State => u = { s with sites := u.sites }) rfl fun u h i _ => ?_
  rw [h]
  rfl

/-- The flags of all conversions of a read-out. -/
def trdAllFlags (k : Core) (g : Regs) (w : Nat) (fmt : Fmt) : FlagWord :=
  (List.range (field w 17 5 + 1)).foldl (fun v i => v ||| trdFlags k g w fmt i) 0

theorem trdAllFlags_iff (k : Core) (g : Regs) (w : Nat) (fmt : Fmt) (b : Nat) : (trdAllFlags k g w fmt).getLsbD b = true ↔
    ∃ i j, i < field w 17 5 + 1 ∧ j < 32 ∧ (trdCell k g w fmt i j).2.getLsbD b = true := by
  have hrow : ∀ i, (trdFlags k g w fmt i).getLsbD b = true ↔ ∃ j, j < 32 ∧ (trdCell k g w fmt i j).2.getLsbD b = true := fun i => by
    rw [trdFlags, getLsbD_foldl_or (fun x : Nat × FlagWord => x.2)]
    simp
  rw [trdAllFlags, getLsbD_foldl_or]
  simp [hrow]

/-- A read-out that breaks no rule puts its rows in the bench, takes its entry, keeps its flags and goes on. -/
theorem goesOn_trd {s : State} {th : ThRef} {w : Word} {fmt : Fmt} (h : executes s th w 0x42 (trdUnits w.toNat))
    (hf : Fmt.ofCode (field w.toNat 25 4) = some fmt)
    (hh : benchHeld s th.core [] (trdSpans fmt (field w.toNat 17 5 + 1) (stridedWord ((s.th th).regs.get (fD w.toNat)))) = false)
    (hx : trdFault s ⟨th, (s.th th).pos, w.toNat⟩ fmt = none) :
    let k := s.core th.core
    let g := (s.th th).regs
    let sites := ((List.range (field w.toNat 17 5 + 1)).foldl (trdRow k g w.toNat fmt th.core) s).sites
    let t := issue (opRow 0x42 trdUnits runTrd) th s
    goesOn { s with sites := sites } t th
      ((Thread.flagged (trdAllFlags k g w.toNat fmt) ∘ Thread.entered ⟨trdUnits w.toNat, .readout, (s.th th).pos⟩) (s.th th))
      ((s.th th).pos + 1) ∧ t.sites = sites := by
  intro k g sites t
  have hrun : runTrd s ⟨th, (s.th th).pos, w.toNat⟩ = .done (({ s with sites := sites } : State).modTh th
      (Thread.flagged (trdAllFlags k g w.toNat fmt) ∘ Thread.entered ⟨trdUnits w.toNat, .readout, (s.th th).pos⟩)) := by
    refine (runTrd_rows hf hh hx).trans (congrArg Exec.done ?_)
    have hrows := trdRows_flags k g w.toNat fmt th.core th (trdFlags k g w.toNat fmt) (List.range (field w.toNat 17 5 + 1)) s
      (Thread.entered ⟨trdUnits w.toNat, .readout, (s.th th).pos⟩) 0
    rw [Thread.flagged_zero, trdRows_eq] at hrows
    exact hrows
  have hg := goesOn_done_modTh h hrun (counting_of_executes (s := s) h)
  obtain ⟨⟨hstate, -⟩, -⟩ := id hg
  have hsites := congrArg State.sites hstate
  exact ⟨hg, hsites⟩

/-! Joins. -/

/-- Two elements joined (R103, R124). -/
def tjnCell (k : Core) (w i j : Nat) : AccVal × FlagWord :=
  join (accOf (field w 26 2)) false (accGet k (accOf (field w 26 2)) (tileIx (field w 34 2) (field w 31 3)) i j)
    (accGet k (accOf (field w 26 2)) (tileIx (field w 34 2) (field w 28 3)) i j)

/-- The flags of all joins of a tile. -/
def tjnFlags (k : Core) (w : Nat) : FlagWord := rowsFlags (tileTable (tjnCell k w)) 0

theorem exec_tjn (th : ThRef) (s : State) : exec (.tjn th) s = .next (issue (opRow 0x43 trdUnits runTjn) th s) := rfl

theorem runTjn_fault {s : State} {c : Ctx} {f : IFault} (h : tjnFault s c = some f) : runTjn s c = .fault f := by
  simp only [runTjn, h]

theorem joinTile_eq (s : State) (r : ThRef) (acc : Acc) (t : Nat) (a b : Nat → Nat → AccVal) : joinTile s r acc t a b =
    (fillTile s r acc t (BitVec.allOnes 32) (BitVec.allOnes 32)
      (fun x y => (((tileTable fun i j => join acc false (a i j) (b i j)).getD x.1 []).getD y.1 (⟨0, 0⟩, 0)).1),
      rowsFlags (tileTable fun i j => join acc false (a i j) (b i j)) 0) := rfl

/-- What a join leaves: its entry taken, tile T replaced by the joins, the status words merged. -/
def tjnStored (s : State) (th : ThRef) (ix w : Nat) : State :=
  storeTile (s.modTh th (Thread.entered ⟨trdUnits w, .matrix, ix⟩)) th (accOf (field w 26 2)) (tileIx (field w 34 2) (field w 31 3))
    (BitVec.allOnes 32) (BitVec.allOnes 32) (fun x y => (((tileTable (tjnCell (s.core th.core) w)).getD x.1 []).getD y.1 (⟨0, 0⟩, 0)).1)
    ((statusOf s th.core (tileIx (field w 34 2) (field w 31 3))).merge
      (statusOf s th.core (tileIx (field w 34 2) (field w 28 3))) (tjnFlags (s.core th.core) w))

section
variable {s : State} {th : ThRef} {ix w : Nat}

theorem runTjn_stores (h : tjnFault s ⟨th, ix, w⟩ = none) : runTjn s ⟨th, ix, w⟩ = .done (tjnStored s th ix w) := by
  simp only [runTjn, h, joinTile_eq, statusOf_fillTile, takeEntry, statusOf_modTh]
  rfl

theorem accGet_tjnStored {i j : Nat} (hi : i < 32) (hj : j < 32) :
    accGet ((tjnStored s th ix w).core th.core) (accOf (field w 26 2)) (tileIx (field w 34 2) (field w 31 3)) i j =
      if accOf (field w 26 2) = .fp32p then (tjnCell (s.core th.core) w i j).1 else ⟨(tjnCell (s.core th.core) w i j).1.hi, 0⟩ := by
  rw [tjnStored, accGet_storeTile]
  simp only [Fin.val_ofNat, Nat.mod_eq_of_lt hi, Nat.mod_eq_of_lt hj, tileTable_getD _ hi hj]

/-- A join that breaks no rule names tiles of its array: a pair tile's partner too. -/
theorem tjnFault_none (h : tjnFault s ⟨th, ix, w⟩ = none) :
    ∀ y ∈ withPartners (accOf (field w 26 2) = .fp32p) [tileIx (field w 34 2) (field w 31 3)], y < 32 := by
  intro y hy
  have ha : field w 34 2 < 4 := by rw [field_eq]; exact Nat.mod_lt _ (by decide)
  have ht : field w 31 3 < 8 := by rw [field_eq]; exact Nat.mod_lt _ (by decide)
  have hrange := firstFault_none (f := .tileRange) h (.tail _ (.tail _ (.head _)))
  rcases mem_withPartners.1 hy with rfl | ⟨hp, rfl⟩
  · unfold tileIx; omega
  · simp [hp] at hrange
    unfold tileIx; omega

theorem tjnStored_ne (h : tjnFault s ⟨th, ix, w⟩ = none) {q : Nat} (hq : q < 32)
    (hne : q ∉ withPartners (accOf (field w 26 2) = .fp32p) [tileIx (field w 34 2) (field w 31 3)]) :
    ((tjnStored s th ix w).core th.core).tiles[Fin.ofNat 32 q] = (s.core th.core).tiles[Fin.ofNat 32 q] ∧
      statusOf (tjnStored s th ix w) th.core q = statusOf s th.core q := by
  refine (storeTile_ne _ _ _ _ _ _ _ _ hq (tjnFault_none h) hne).imp (·.trans ?_) (·.trans (statusOf_modTh ..))
  rw [State.core_modTh]

end

/-- A join that breaks no rule goes on from what it has stored. -/
theorem tjn_arrayDone {s : State} {th : ThRef} {w : Word} (h : executes s th w 0x43 (trdUnits w.toNat))
    (hx : tjnFault s ⟨th, (s.th th).pos, w.toNat⟩ = none) :
    ArrayDone s (tjnStored s th (s.th th).pos w.toNat) (issue (opRow 0x43 trdUnits runTjn) th s) th
      ⟨trdUnits w.toNat, .matrix, (s.th th).pos⟩ ((s.th th).pos + 1) :=
  have hu := storeTile_tilesOnly ..
  arrayDone_of_goesOn hu (goesOn_done h (runTjn_stores hx) (hu.counting.trans (counting_of_executes (s := s) h)))

/-- Settles O21: a read-out is a run of rows and their flags; a join replaces one tile and moves nothing else. -/
theorem readoutAndJoin : Obligations.ReadoutAndJoin := by
  unfold Obligations.ReadoutAndJoin
  intro s th w
  dsimp only
  refine ⟨fun h fmt hf => ⟨fun hh => ?_, fun f hh hx => ?_, fun hh hx => ?_⟩, fun h => ⟨fun f hx => ?_, fun hx => ?_⟩⟩
  · exact (exec_trd th s).trans (congrArg _ (issue_stay h (runTrd_held hf hh)))
  · exact (exec_trd th s).trans (congrArg _ (issue_fault h (runTrd_fault hf hh hx)))
  · obtain ⟨hg, hs⟩ := goesOn_trd h hf hh hx
    refine ⟨_, _, exec_trd th s, ?_, trdAllFlags_iff _ _ _ _, hs⟩
    rw [hs]
    exact hg
  · exact (exec_tjn th s).trans (congrArg _ (issue_fault h (runTjn_fault hx)))
  · have hd := tjn_arrayDone h hx
    refine ⟨_, tjnFlags (s.core th.core) w.toNat, exec_tjn th s, hd.hbm, hd.sites, hd.regs, hd.pos, hd.sb, hd.others, hd.planes, hd.slots,
      fun i j hi hj => ?_, fun q hq hne => ?_, tileTable_flags _, ?_⟩
    · exact (accGet_congr hd.tiles ..).trans (accGet_tjnStored hi hj)
    · rw [hd.status]
      simp only [hd.tiles]
      exact tjnStored_ne hx hq hne
    · rw [hd.status]
      exact statusOf_storeTile ..

end Sys2Proof.Machine
end

section
/-! Proofs: array operations (R85, R99, R121, R125, R126). -/
namespace Sys2Proof.Machine

open Sys2Proof.Safety

/-! The cells of one tile. -/

/-- One element of a tile that an operation reaches: the product where its row and column are live, else what it was (R99). -/
def mmaCell (k : Core) (o : MmaOp) (fa : Fmt) (rows : List (List Nat × List Nat)) (sl : Slice) (i q tile r j : Nat) : AccVal × FlagWord :=
  if o.liveRow (32 * q + r) && o.liveCol i j then
    mmaElem o fa sl.fmt (rows.getD (32 * q + r) ([], [])).1 (sliceCol o sl j).1 (rows.getD (32 * q + r) ([], [])).2 (sliceCol o sl j).2
      (accGet k o.acc tile r j)
  else (accGet k o.acc tile r j, 0)

theorem zipIdx_map_range {α β : Type} (g : Nat → α) (f : α × Nat → β) (n : Nat) :
    (((List.range n).map g).zipIdx.map f) = (List.range n).map fun j => f (g j, j) :=
  List.ext_getElem (by simp) fun _ _ _ => by simp

/-- The cells of a tile are those of its rows and columns. -/
theorem mmaTile_eq (k : Core) (o : MmaOp) (fa : Fmt) (rows : List (List Nat × List Nat)) (sl : Slice) (i q tile : Nat) :
    mmaTile k o fa rows sl i q tile =
      ((tileTable (mmaCell k o fa rows sl i q tile)).map (·.map (·.1)), rowsFlags (tileTable (mmaCell k o fa rows sl i q tile)) 0) := by
  have hcells : (List.range 32).map (fun r =>
      ((List.range 32).map (sliceCol o sl)).zipIdx.map fun x : (List Nat × List Nat) × Nat =>
        if o.liveRow (32 * q + r) && o.liveCol i x.2 then
          mmaElem o fa sl.fmt (rows.getD (32 * q + r) ([], [])).1 x.1.1 (rows.getD (32 * q + r) ([], [])).2 x.1.2
            (accGet k o.acc tile r x.2)
        else (accGet k o.acc tile r x.2, 0)) = tileTable (mmaCell k o fa rows sl i q tile) := by
    simp only [zipIdx_map_range]
    rfl
  rw [← hcells]
  rfl

/-- The elements an operation writes to a tile. -/
def mmaVals (k : Core) (o : MmaOp) (fa : Fmt) (rows : List (List Nat × List Nat)) (sl : Slice) (i q tile : Nat) (x y : Fin 32) : AccVal :=
  (mmaCell k o fa rows sl i q tile x.1 y.1).1

/-! One tile of an operation. -/

/-- The tile, or the even one of the pair, that rows 32q to 32q + 31 reach on the i-th spanned array (R121). -/
def MmaOp.tileAt (o : MmaOp) (i q : Nat) : Nat := tileIx (o.arr + i) (o.tile + o.stepT * q)

/-- The step of an operation that writes one tile. -/
def mmaStep (r : ThRef) (o : MmaOp) (fa : Fmt) (rows : List (List Nat × List Nat)) (sl : Slice) (i q : Nat) (s : State) : State :=
  mmaPutTile s r o i q (o.tileAt i q) (mmaTile (s.core r.core) o fa rows sl i q (o.tileAt i q)).1
    (mmaTile (s.core r.core) o fa rows sl i q (o.tileAt i q)).2

theorem mmaPutTile_stores (s : State) (r : ThRef) (o : MmaOp) (i q tile : Nat) (cells : List (List AccVal)) (fl : FlagWord) :
    ∃ m n st, mmaPutTile s r o i q tile cells fl =
      storeTile s r o.acc tile m n (fun x y => (cells.getD x.1 []).getD y.1 ⟨0, 0⟩) st :=
  ⟨mask32 fun x => o.liveRow (32 * q + x), mask32 (o.liveCol i), _, rfl⟩

theorem tileTable_fst_getD {α β : Type} (g : Nat → Nat → α × β) (x y : Fin 32) (d : α) :
    (((tileTable g).map (·.map (·.1))).getD x.1 []).getD y.1 d = (g x.1 y.1).1 := by
  simp [tileTable, List.getD_eq_getElem?_getD]

/-- The step replaces the tile and writes its status word. -/
theorem mmaStep_stores (r : ThRef) (o : MmaOp) (fa : Fmt) (rows : List (List Nat × List Nat)) (sl : Slice) (i q : Nat) (s : State) :
    ∃ m n st, mmaStep r o fa rows sl i q s =
      storeTile s r o.acc (o.tileAt i q) m n (mmaVals (s.core r.core) o fa rows sl i q (o.tileAt i q)) st := by
  obtain ⟨m, n, st, h⟩ := mmaPutTile_stores s r o i q (o.tileAt i q) (mmaTile (s.core r.core) o fa rows sl i q (o.tileAt i q)).1
    (mmaTile (s.core r.core) o fa rows sl i q (o.tileAt i q)).2
  refine ⟨m, n, st, h.trans ?_⟩
  simp only [mmaTile_eq, tileTable_fst_getD]
  rfl

section
variable {r : ThRef} {o : MmaOp} {fa : Fmt} {rows : List (List Nat × List Nat)} {sl : Slice} {i q : Nat} {s : State}

theorem mmaStep_tilesOnly : TilesOnly s (mmaStep r o fa rows sl i q s) r := by
  obtain ⟨m, n, st, h⟩ := mmaStep_stores r o fa rows sl i q s
  rw [h]
  exact storeTile_tilesOnly ..

/-- An element whose row or column is not live stays, its partner's too. -/
theorem mmaStep_dead {x j : Nat} (hx : x < 32) (hj : j < 32) (hd : ¬ (o.liveRow (32 * q + x) = true ∧ o.liveCol i j = true)) {y : Nat}
    (hy : y ∈ withPartners o.pair [o.tileAt i q]) :
    tileGet ((mmaStep r o fa rows sl i q s).core r.core) y x j = tileGet (s.core r.core) y x j := by
  obtain ⟨m, n, st, h⟩ := mmaStep_stores r o fa rows sl i q s
  have hcell : mmaVals (s.core r.core) o fa rows sl i q (o.tileAt i q) (Fin.ofNat 32 x) (Fin.ofNat 32 j) =
      accGet (s.core r.core) o.acc (o.tileAt i q) x j := by
    simp only [mmaVals, mmaCell, Fin.val_ofNat, Nat.mod_eq_of_lt hx, Nat.mod_eq_of_lt hj, Bool.and_eq_true, if_neg hd]
  rw [h, tileGet_storeTile]
  exact tileGet_putAcc_old _ _ _ _ hcell hy

/-- A live element of an operation becomes its product (R85). -/
theorem mmaStep_live {x j : Nat} (hx : x < 32) (hj : j < 32) (hr : o.liveRow (32 * q + x) = true) (hc : o.liveCol i j = true) :
    tileGet ((mmaStep r o fa rows sl i q s).core r.core) (o.tileAt i q) x j =
      (mmaElem o fa sl.fmt (rows.getD (32 * q + x) ([], [])).1 (sliceCol o sl j).1 (rows.getD (32 * q + x) ([], [])).2 (sliceCol o sl j).2
        (accGet (s.core r.core) o.acc (o.tileAt i q) x j)).1.hi := by
  obtain ⟨m, n, st, h⟩ := mmaStep_stores r o fa rows sl i q s
  rw [h, tileGet_storeTile, tileGet_putAcc_hi]
  simp only [mmaVals, mmaCell, Fin.val_ofNat, Nat.mod_eq_of_lt hx, Nat.mod_eq_of_lt hj, hr, hc, Bool.and_self, if_true]

/-- A tile that the step does not name keeps its elements and its status word. -/
theorem mmaStep_ne (ht : ∀ y ∈ withPartners o.pair [o.tileAt i q], y < 32) {y : Nat} (hy : y < 32)
    (hne : y ∉ withPartners o.pair [o.tileAt i q]) :
    ((mmaStep r o fa rows sl i q s).core r.core).tiles[Fin.ofNat 32 y] = (s.core r.core).tiles[Fin.ofNat 32 y] ∧
      statusOf (mmaStep r o fa rows sl i q s) r.core y = statusOf s r.core y := by
  obtain ⟨m, n, st, h⟩ := mmaStep_stores r o fa rows sl i q s
  rw [h]
  exact storeTile_ne _ _ _ _ _ _ _ _ hy ht hne

end

/-! The whole operation. -/

/-- The streamed rows of an operation; one that is masked is not read (R126). -/
def mmaRows (s : State) (c : CoreId) (o : MmaOp) (fa : Fmt) : List (List Nat × List Nat) :=
  (List.range o.m).map fun m => if o.liveRow m then streamRow s c o fa m else ([], [])

/-- What every step of an operation keeps, the operation keeps. -/
theorem mmaApply_keeps {P : State → Prop} {s : State} {r : ThRef} {o : MmaOp} {fa : Fmt} (hs : P s)
    (hstep : ∀ u sl i q, i < o.span → q < o.tiles → P u → P (mmaStep r o fa (mmaRows s r.core o fa) sl i q u)) :
    P (mmaApply s r o fa) := by
  refine List.foldlRecOn _ _ hs fun u hu x hx => ?_
  obtain ⟨a, i⟩ := x
  obtain ⟨hi, ha⟩ : i < o.span ∧ o.arr + i = a := by
    have := List.mem_zipIdx_iff_getElem?.1 hx
    simpa [MmaOp.arrays, List.getElem?_eq_some_iff] using this
  subst ha
  dsimp only
  split
  · exact hu
  · next sl _ => exact List.foldlRecOn _ _ hu fun v hv q hq => hstep v sl i q hi (List.mem_range.1 hq) hv

/-- An operation of one tile is one step (R121). -/
theorem mmaApply_single {s : State} {r : ThRef} {o : MmaOp} {fa : Fmt} {sl : Slice} (hs : o.span = 1) (ht : o.tiles = 1)
    (hsl : latestSlice (s.core r.core).planes[Fin.ofNat 4 o.arr] = some sl) :
    mmaApply s r o fa = mmaStep r o fa (mmaRows s r.core o fa) sl 0 0 s := by
  have harr : o.arrays = [o.arr] := by simp [MmaOp.arrays, hs]
  simp only [mmaApply, harr, ht, List.zipIdx_cons, List.zipIdx_nil, List.foldl_cons, List.foldl_nil, hsl, List.range_one]
  rfl

/-! The tiles an operation names. -/

section
variable {s : State} {c : Ctx} {o : MmaOp}

/-- An operation that breaks no rule spans arrays that exist, and its tiles exist on each (R202, R121). -/
theorem mmaFault_none (h : mmaFault s c o = none) : (∀ i, i < o.span → o.arr + i < 4) ∧ o.tile + o.stepT * o.tiles ≤ 8 := by
  have htile := firstFault_none (f := .tileRange) h (.tail _ (.tail _ (.tail _ (.tail _ (.head _)))))
  have hload := firstFault_none (f := .planeEmpty) h (.tail _ (.tail _ (.tail _ (.tail _ (.tail _ (.head _))))))
  simp only [Bool.or_eq_false_iff, decide_eq_false_iff_not, not_lt] at htile hload
  refine ⟨fun i hi => ?_, htile.2⟩
  have hlen : o.arrays.length = o.span := by simp [MmaOp.arrays]
  have hall : (o.arrays.filter (· < 4)).length = o.arrays.length := by
    have h1 := List.length_filterMap_le id (mmaSlices (s.core c.th.core) o)
    have h2 := List.length_filter_le (fun a => decide (a < 4)) o.arrays
    simp only [mmaSlices, List.length_map] at h1 hload
    omega
  have := List.length_filter_eq_length_iff.1 hall (o.arr + i) (List.mem_map.2 ⟨i, List.mem_range.2 hi, rfl⟩)
  exact of_decide_eq_true this

/-- A tile of an operation, or its partner, in numbers. -/
theorem mem_tileAt {i q y : Nat} (hy : y ∈ withPartners o.pair [o.tileAt i q]) :
    ∃ v, v < o.stepT ∧ y = 8 * (o.arr + i) + (o.tile + o.stepT * q) + v := by
  unfold MmaOp.tileAt tileIx at hy
  unfold MmaOp.stepT at hy ⊢
  rcases mem_withPartners.1 hy with rfl | ⟨hp, rfl⟩
  · exact ⟨0, by split <;> decide, rfl⟩
  · exact ⟨1, by simp [hp], rfl⟩

theorem tileAt_lt (ha : ∀ i, i < o.span → o.arr + i < 4) (ht : o.tile + o.stepT * o.tiles ≤ 8) {i q : Nat}
    (hi : i < o.span) (hq : q < o.tiles) : ∀ y ∈ withPartners o.pair [o.tileAt i q], y < 32 := by
  intro y hy
  obtain ⟨v, hv, rfl⟩ := mem_tileAt hy
  have := ha i hi
  have := Nat.mul_le_mul_left o.stepT (Nat.succ_le_of_lt hq)
  rw [Nat.mul_succ] at this
  omega

/-- No tile belongs to two steps of an operation. -/
theorem tileAt_inj (ht : o.tile + o.stepT * o.tiles ≤ 8) {i q i' q' y : Nat} (hq : q < o.tiles) (hq' : q' < o.tiles)
    (hy : y ∈ withPartners o.pair [o.tileAt i q]) (hy' : y ∈ withPartners o.pair [o.tileAt i' q']) : i = i' ∧ q = q' := by
  obtain ⟨v, hv, rfl⟩ := mem_tileAt hy
  obtain ⟨v', hv', he⟩ := mem_tileAt hy'
  have h1 := Nat.mul_le_mul_left o.stepT (Nat.succ_le_of_lt hq)
  have h2 := Nat.mul_le_mul_left o.stepT (Nat.succ_le_of_lt hq')
  rw [Nat.mul_succ] at h1 h2
  have hi : i = i' := by omega
  subst hi
  have hstep : o.stepT = 1 ∨ o.stepT = 2 := by unfold MmaOp.stepT; split <;> simp
  refine ⟨rfl, ?_⟩
  rcases hstep with hst | hst <;> rw [hst] at he hv hv' <;> omega

theorem mem_named {i q y : Nat} (hi : i < o.span) (hq : q < o.tiles) (hy : y ∈ withPartners o.pair [o.tileAt i q]) : y ∈ o.named := by
  have hmem : o.tileAt i q ∈ (List.range o.tiles).map fun q => tileIx (o.arr + i) (o.tile + o.stepT * q) :=
    List.mem_map.2 ⟨q, List.mem_range.2 hq, rfl⟩
  refine List.mem_flatMap.2 ⟨o.arr + i, List.mem_map.2 ⟨i, List.mem_range.2 hi, rfl⟩, ?_⟩
  unfold withPartners at hy ⊢
  by_cases hp : o.pair = true
  · rw [if_pos hp] at hy ⊢
    exact List.mem_flatMap.2 ⟨_, hmem, by simpa using hy⟩
  · rw [if_neg hp] at hy ⊢
    rwa [List.mem_singleton.1 hy]

end

/-! MMA. -/

theorem exec_mma (th : ThRef) (s : State) : exec (.mma th) s = .next (issue (opRow 0x41 mmaUnits runMma) th s) := rfl

section
variable {s : State} {th : ThRef} {ix w : Nat} {o : MmaOp} (ho : mmaOp s ⟨th, ix, w⟩ = o)
include ho

theorem runMma_held (hh : benchHeld s th.core (mmaSpans o (o.fmt.bind opClass)) [] = true) : runMma s ⟨th, ix, w⟩ = .stay s := by
  simp only [runMma, ho, guardBench, hh, if_true]

variable (hh : benchHeld s th.core (mmaSpans o (o.fmt.bind opClass)) [] = false)
include hh

theorem runMma_fault {f : IFault} (hx : mmaFault s ⟨th, ix, w⟩ o = some f) : runMma s ⟨th, ix, w⟩ = .fault f := by
  simp only [runMma, ho, guardBench, hh, hx]
  rfl

theorem runMma_applies {fa : Fmt} (hx : mmaFault s ⟨th, ix, w⟩ o = none) (hf : o.fmt = some fa) :
    runMma s ⟨th, ix, w⟩ = .done (mmaApply (s.modTh th (Thread.entered ⟨mmaUnits w, .matrix, ix⟩)) th o fa) := by
  simp only [runMma, ho, guardBench, hh]
  simp only [hx, hf]
  rfl

end

section
variable {s : State} {r : ThRef} {o : MmaOp} {fa : Fmt}

theorem mmaApply_tilesOnly : TilesOnly s (mmaApply s r o fa) r :=
  mmaApply_keeps (P := fun u => TilesOnly s u r) (.refl s r) fun _ _ _ _ _ _ h => h.trans mmaStep_tilesOnly

variable (ha : ∀ i, i < o.span → o.arr + i < 4) (ht : o.tile + o.stepT * o.tiles ≤ 8)
include ha ht

/-- Tiles that an operation does not name keep their elements and status words. -/
theorem mmaApply_unnamed {y : Nat} (hy : y < 32) (hn : y ∉ o.named) :
    ((mmaApply s r o fa).core r.core).tiles[Fin.ofNat 32 y] = (s.core r.core).tiles[Fin.ofNat 32 y] ∧
      statusOf (mmaApply s r o fa) r.core y = statusOf s r.core y := by
  refine mmaApply_keeps (P := fun u => (u.core r.core).tiles[Fin.ofNat 32 y] = (s.core r.core).tiles[Fin.ofNat 32 y] ∧
    statusOf u r.core y = statusOf s r.core y) ⟨rfl, rfl⟩ fun u sl i q hi hq ⟨htiles, hstatus⟩ => ?_
  obtain ⟨h1, h2⟩ := mmaStep_ne (r := r) (fa := fa) (rows := mmaRows s r.core o fa) (sl := sl) (s := u) (tileAt_lt ha ht hi hq) hy
    fun hmem => hn (mem_named hi hq hmem)
  exact ⟨h1.trans htiles, h2.trans hstatus⟩

/-- Elements whose row or column is not live stay: of their own step by R99, of every other as it names other tiles. -/
theorem mmaApply_dead {i q x j : Nat} (hi : i < o.span) (hq : q < o.tiles) (hx : x < 32) (hj : j < 32)
    (hd : ¬ (o.liveRow (32 * q + x) = true ∧ o.liveCol i j = true)) {y : Nat} (hy : y ∈ withPartners o.pair [o.tileAt i q]) :
    tileGet ((mmaApply s r o fa).core r.core) y x j = tileGet (s.core r.core) y x j := by
  refine mmaApply_keeps (P := fun u => tileGet (u.core r.core) y x j = tileGet (s.core r.core) y x j) rfl fun u sl i' q' hi' hq' hu => ?_
  refine Eq.trans ?_ hu
  by_cases hmem : y ∈ withPartners o.pair [o.tileAt i' q']
  · obtain ⟨rfl, rfl⟩ := tileAt_inj ht hq hq' hy hmem
    exact mmaStep_dead hx hj hd hmem
  · exact tileGet_congr (mmaStep_ne (tileAt_lt ha ht hi' hq') (tileAt_lt ha ht hi hq y hy) hmem).1 x j

end

/-- A live element of an operation on one tile that is not a pair becomes the accumulation of its block sums (R85). -/
theorem mmaApply_live {s : State} {r : ThRef} {o : MmaOp} {fa : Fmt} {sl : Slice} (hs : o.span = 1) (ht : o.tiles = 1) (hp : o.pair = false)
    (hsl : latestSlice (s.core r.core).planes[Fin.ofNat 4 o.arr] = some sl) {x j : Nat} (hx : x < 32) (hj : j < 32)
    (hr : o.liveRow x = true) (hc : o.liveCol 0 j = true) :
    tileGet ((mmaApply s r o fa).core r.core) (tileIx o.arr o.tile) x j =
      (mmaElem o fa sl.fmt (streamRow s r.core o fa x).1 (sliceCol o sl j).1 (streamRow s r.core o fa x).2 (sliceCol o sl j).2
        ⟨tileGet (s.core r.core) (tileIx o.arr o.tile) x j, 0⟩).1.hi := by
  have hacc : accGet (s.core r.core) o.acc (tileIx o.arr o.tile) x j = ⟨tileGet (s.core r.core) (tileIx o.arr o.tile) x j, 0⟩ := by
    rw [accGet, if_neg (of_decide_eq_false hp)]
  have hm : x < o.m := of_decide_eq_true (Bool.and_eq_true_iff.1 hr).1
  have hrow : (mmaRows s r.core o fa).getD (32 * 0 + x) ([], []) = streamRow s r.core o fa x := by
    simp [mmaRows, List.getD_eq_getElem?_getD, hm, hr]
  have hlive := mmaStep_live (r := r) (fa := fa) (rows := mmaRows s r.core o fa) (sl := sl) (q := 0) (s := s) hx hj (by simpa using hr) hc
  rw [hrow] at hlive
  rw [mmaApply_single hs ht hsl, ← hacc]
  exact hlive

/-- An operation that breaks no rule goes on from what it has applied. -/
theorem goesOn_mma {s : State} {th : ThRef} {w : Word} {o : MmaOp} {fa : Fmt} (h : executes s th w 0x41 (mmaUnits w.toNat))
    (ho : mmaOp s ⟨th, (s.th th).pos, w.toNat⟩ = o) (hh : benchHeld s th.core (mmaSpans o (o.fmt.bind opClass)) [] = false)
    (hx : mmaFault s ⟨th, (s.th th).pos, w.toNat⟩ o = none) (hf : o.fmt = some fa) {u : State}
    (hu : mmaApply (s.modTh th (Thread.entered ⟨mmaUnits w.toNat, .matrix, (s.th th).pos⟩)) th o fa = u) :
    goesOn u (issue (opRow 0x41 mmaUnits runMma) th s) th (u.th th) ((s.th th).pos + 1) := by
  have hrun := runMma_applies ho hh hx hf
  have hc := (mmaApply_tilesOnly (fa := fa) (o := o)
    (s := s.modTh th (Thread.entered ⟨mmaUnits w.toNat, .matrix, (s.th th).pos⟩)) (r := th)).counting
  rw [hu] at hrun hc
  exact goesOn_done h hrun (hc.trans (counting_of_executes (s := s) h))

/-- Settles O20: an operation is its steps, one for each tile it names. -/
theorem arrayOperation : Obligations.ArrayOperation := by
  unfold Obligations.ArrayOperation
  intro s th w x c o k held h
  have ho : mmaOp s ⟨th, (s.th th).pos, w.toNat⟩ = o := rfl
  refine ⟨fun hh => ?_, fun f hh hx => ?_, fun fa hh hx hf => ?_⟩
  · exact (exec_mma th s).trans (congrArg _ (issue_stay h (runMma_held ho hh)))
  · exact (exec_mma th s).trans (congrArg _ (issue_fault h (runMma_fault ho hh hx)))
  · have hg := goesOn_mma h ho hh hx hf rfl
    have hd := arrayDone_of_goesOn mmaApply_tilesOnly hg
    obtain ⟨ha, ht⟩ := mmaFault_none hx
    refine ⟨_, exec_mma th s, hg, hd.hbm, hd.sites, hd.bufs, hd.others, hd.planes, hd.slots, hd.ev, hd.regs, fun q hq hn => ?_,
      fun i q r j hi hq hr hj hl y hy => ?_, fun hs hq hp sl hsl r j hr hj hlr hlc => ?_⟩
    · obtain ⟨htiles, hstatus⟩ := mmaApply_unnamed (fa := fa) (r := th)
        (s := s.modTh th (Thread.entered ⟨mmaUnits w.toNat, .matrix, (s.th th).pos⟩)) ha ht hq hn
      simp only [State.core_modTh] at htiles
      rw [statusOf_modTh] at hstatus
      simp only [hd.tiles, hd.status]
      exact ⟨htiles, hstatus⟩
    · exact (hd.element y r j).trans ((mmaApply_dead ha ht hi hq hr hj hl hy).trans (tileGet_modTh ..))
    · have hlive := mmaApply_live (fa := fa) (r := th) (s := s.modTh th (Thread.entered ⟨mmaUnits w.toNat, .matrix, (s.th th).pos⟩))
        hs hq hp (by simpa only [State.core_modTh] using hsl) hr hj hlr hlc
      rw [tileGet_modTh] at hlive
      exact (hd.element ..).trans hlive

end Sys2Proof.Machine
end

section
/-! Proofs: weight loads (R107, R108, R110, R111). -/
namespace Sys2Proof.Machine

open Sys2Proof.Safety

/-! The planes of a core. -/

/-- A core whose weight planes have changed. -/
def Core.replaned (g : Vector Planes 4 → Vector Planes 4) (k : Core) : Core := { k with planes := g k.planes }

theorem Core.replaned_planes (g : Vector Planes 4 → Vector Planes 4) (k : Core) : (k.replaned g).planes = g k.planes := rfl

/-- A change of the planes and a change of a thread do not meet. -/
theorem modCore_replaned_modTh (s : State) (r : ThRef) (f : Thread → Thread) (g : Vector Planes 4 → Vector Planes 4) :
    (s.modTh r f).modCore r.core (Core.replaned g) = (s.modCore r.core (Core.replaned g)).modTh r f := by
  simp [State.modTh, State.setTh, State.modCore, State.setCore, State.core, State.th, Core.replaned, vset]

theorem th_modCore_replaned (s : State) (r : ThRef) (g : Vector Planes 4 → Vector Planes 4) :
    (s.modCore r.core (Core.replaned g)).th r = s.th r := by
  simp only [State.th, State.core_modCore]
  rfl

/-- The slice of a weight load, as the bench holds it. -/
def wldSlice (s : State) (c : CoreId) (fmt : Fmt) (trans : Bool) (o : Strided) : Slice :=
  ⟨fmt, wldRows s c fmt trans o, if fmt.isMx then (benchRead s c o.third 64).map (·.toNat) else [], false⟩

/-- The planes of a core with a slice loaded on one array (R108). -/
def sliceLoaded (a : Fin 4) (sl : Slice) (v : Vector Planes 4) : Vector Planes 4 := vmod v a fun p => loadPlane p sl.fmt sl.rows sl.scales

theorem sliceLoaded_ne {a b : Fin 4} (sl : Slice) (v : Vector Planes 4) (h : b ≠ a) : (sliceLoaded a sl v)[b] = v[b] := vset_ne _ _ h

/-- A class W slice takes both planes; another the plane next in turn (R108). -/
theorem sliceLoaded_same (a : Fin 4) {sl : Slice} (v : Vector Planes 4) (hlo : sl.lo = false) : (sliceLoaded a sl v)[a] =
    if sl.fmt = .fp32 then { p0 := some sl, p1 := some { sl with lo := true }, next := 0, latest := some 0 }
    else if v[a].next = 0 then { p0 := some sl, p1 := v[a].p1, next := 1, latest := some 0 }
    else { p0 := v[a].p0, p1 := some sl, next := 0, latest := some 1 } := by
  obtain ⟨fmt, rows, scales, lo⟩ := sl
  subst hlo
  exact vset_same ..

/-! WLD. -/

theorem exec_wld (th : ThRef) (s : State) : exec (.wld th) s = .next (issue (opRow 0x40 wldUnits runWld) th s) := rfl

section
variable {s : State} {th : ThRef} {ix w : Nat} {fmt : Fmt} (hf : Fmt.ofCode (field w 40 4) = some fmt)
include hf

theorem runWld_held (hh : benchHeld s th.core (wldSpans fmt (bit w 39) (stridedWord ((s.th th).regs.get (fD w)))) [] = true) :
    runWld s ⟨th, ix, w⟩ = .stay s := by
  simp only [runWld, wldReads, hf, guardBench, Ctx.regs, hh, if_true]

variable (hh : benchHeld s th.core (wldSpans fmt (bit w 39) (stridedWord ((s.th th).regs.get (fD w)))) [] = false)
include hh

theorem runWld_fault {f : IFault} (hx : wldFault s ⟨th, ix, w⟩ = some f) : runWld s ⟨th, ix, w⟩ = .fault f := by
  simp only [runWld, wldReads, hf, guardBench, Ctx.regs, hh, hx]
  rfl

theorem runWld_loads (hx : wldFault s ⟨th, ix, w⟩ = none) : runWld s ⟨th, ix, w⟩ = .done
    ((s.modCore th.core (Core.replaned (sliceLoaded (Fin.ofNat 4 (field w 44 2))
      (wldSlice s th.core fmt (bit w 39) (stridedWord ((s.th th).regs.get (fD w))))))).modTh th
        (Thread.entered ⟨wldUnits w, .load, ix⟩)) := by
  rw [← modCore_replaned_modTh]
  simp only [runWld, wldReads, hf, guardBench, Ctx.regs, hh, hx]
  rfl

end

/-- A weight load that breaks no rule loads its slice, takes its entry and goes on. -/
theorem goesOn_wld {s : State} {th : ThRef} {w : Word} {fmt : Fmt} (h : executes s th w 0x40 (wldUnits w.toNat))
    (hf : Fmt.ofCode (field w.toNat 40 4) = some fmt)
    (hh : benchHeld s th.core (wldSpans fmt (bit w.toNat 39) (stridedWord ((s.th th).regs.get (fD w.toNat)))) [] = false)
    (hx : wldFault s ⟨th, (s.th th).pos, w.toNat⟩ = none) :
    goesOn (s.modCore th.core (Core.replaned (sliceLoaded (Fin.ofNat 4 (field w.toNat 44 2))
        (wldSlice s th.core fmt (bit w.toNat 39) (stridedWord ((s.th th).regs.get (fD w.toNat)))))))
      (issue (opRow 0x40 wldUnits runWld) th s) th
      (Thread.entered ⟨wldUnits w.toNat, .load, (s.th th).pos⟩ (s.th th)) ((s.th th).pos + 1) := by
  have hg := goesOn_done_modTh h (runWld_loads hf hh hx) (counting_of_executes (s := s) h)
  rwa [th_modCore_replaned] at hg

/-- Settles O19: a weight load changes the planes of its array, by what the bench holds, and takes its entry. -/
theorem weightLoad : Obligations.WeightLoad := by
  unfold Obligations.WeightLoad
  intro s th w fmt hf x c a o old held h
  refine ⟨fun hh => ?_, fun f hh hx => ?_, fun hh hx => ?_⟩
  · exact (exec_wld th s).trans (congrArg _ (issue_stay h (runWld_held hf hh)))
  · exact (exec_wld th s).trans (congrArg _ (issue_fault h (runWld_fault hf hh hx)))
  · have hg := goesOn_wld h hf hh hx
    obtain ⟨⟨-, -, -, hcore⟩, -⟩ := id hg
    have hplanes := congrArg Core.planes hcore
    simp only [State.core_modCore, Core.replaned_planes] at hplanes
    refine ⟨_, wldSlice s th.core fmt (bit w.toNat 39) o, exec_wld th s, ?_, fun b hb => ?_, rfl, rfl, rfl, rfl, ?_⟩
    · rw [hplanes]
      exact hg
    · simp only [hplanes]
      exact sliceLoaded_ne _ _ hb
    · simp only [hplanes]
      exact sliceLoaded_same a _ rfl

end Sys2Proof.Machine
end

section
/-! Proofs: operations leave the scoreboard (R118, R128, R142, R162, R177, R178). -/
namespace Sys2Proof.Machine

open Sys2Proof.Safety

/-! Kinds of operations. -/

theorem queue_iff (k : OpKind) : k.queue = true ↔ k = .load := by cases k <;> simp [OpKind.queue]

theorem isArrayOp_iff (k : OpKind) : isArrayOp k = true ↔ k = .load ∨ k = .matrix ∨ k = .readout := by cases k <;> simp [isArrayOp]

theorem isVecOp_iff (k : OpKind) : isVecOp k = true ↔ k = .vec := by cases k <;> simp [isVecOp]

/-- An array operation of the queue of another is a weight load as the other is, or neither is one (R118). -/
theorem sameQueue {k j : OpKind} (hk : isArrayOp k = true) (hq : k.queue = j.queue) :
    (if j = .load then decide (k = .load) else k = .matrix || k = .readout) = true := by
  have hload : k = .load ↔ j = .load := by rw [← queue_iff, ← queue_iff, hq]
  split
  · next hj => exact decide_eq_true (hload.2 hj)
  · next hj => simpa [mt hload.1 hj] using (isArrayOp_iff k).1 hk

/-! An entry leaves. -/

/-- A thread with an entry off its scoreboard. -/
def Thread.left (n : Nat) (x : Thread) : Thread := { x with sb := x.sb.eraseIdx n }

section
variable {s : State} {th : ThRef} {entry : Nat} {e : SbEntry} {want : OpKind → Bool} (he : (s.th th).sb[entry]? = some e)
  (hw : want e.kind = true)
include he hw

/-- Where a unit's order does not matter, an entry of the wanted kind leaves. -/
theorem leaveEntry_unordered : leaveEntry s th entry want false = some (e, s.modTh th (Thread.left entry)) := by
  simp only [leaveEntry, he, hw]
  rfl

/-- Where a unit works in order, an entry leaves when no earlier one of its queue holds one of its units (R118). -/
theorem leaveEntry_ordered (halone : ∀ y ∈ (s.th th).sb.take entry, want y.kind = true → y.kind.queue = e.kind.queue →
    ∀ u ∈ y.units, u ∉ e.units) : leaveEntry s th entry want true = some (e, s.modTh th (Thread.left entry)) := by
  have hfree : ((s.th th).sb.take entry).any
      (fun x => want x.kind && decide (x.kind.queue = e.kind.queue) && x.units.any e.units.contains) = false := by
    refine List.any_eq_false.2 fun y hy => ?_
    simpa using fun hk hq u hu hmem => halone y hy hk hq u hu hmem
  simp only [leaveEntry, he, hw, hfree]
  rfl

end

/-- Flags are ORed into the thread that an entry has left (R142). -/
theorem orFlags_modTh_left (s : State) (th : ThRef) (n : Nat) (fl : FlagWord) :
    orFlags (s.modTh th (Thread.left n)) th fl = s.modTh th (Thread.flagged fl ∘ Thread.left n) :=
  State.modTh_modTh s th (Thread.left n) (Thread.flagged fl)

/-! One part of a buffer entry arrives (R178). -/

theorem bufOf_modBuf (s : State) (i : Nat) (f : BufEntry → BufEntry) : bufOf (modBuf s i f) i = f (bufOf s i) := vset_same ..

/-- A buffer entry with one part fewer to come. -/
def BufEntry.parted (e : BufEntry) : BufEntry :=
  { e with parts := e.parts - 1, st := if e.parts ≤ 1 then .ready else e.st, again := e.again && decide (1 < e.parts) }

/-- An entry that still waits for parts posts nothing. -/
theorem partDone_waits {s : State} {b : Nat} (h : 1 < (bufOf s b).parts) : partDone s b = modBuf s b BufEntry.parted := by
  simp only [partDone, h, if_true]
  rfl

/-- With its last part, an entry that is not gathered again posts its event (Table 7.7). -/
theorem partDone_last {s : State} {b : Nat} (h : (bufOf s b).parts = 1) (ha : (bufOf s b).again = false) :
    partDone s b = incEvent (modBuf s b BufEntry.parted) (bufOf s b).core (bufOf s b).ev := by
  simp only [partDone, h, ha, if_neg (lt_irrefl 1)]
  rfl

theorem incEvent_counts {s : State} {c : CoreId} {e : EventId} (h : (s.core c).ev[e] ≠ 0xFFFFFFFF) :
    incEvent s c e = s.modCore c fun k => { k with ev := vset k.ev e (k.ev[e] + 1) } := if_neg h

theorem ev_modTh (s : State) (r : ThRef) (f : Thread → Thread) (c : CoreId) : ((s.modTh r f).core c).ev = (s.core c).ev := by
  by_cases hc : c = r.core
  · rw [hc, State.core_modTh]
  · rw [State.core_modTh_ne _ _ _ hc]

/-- A buffer entry with one of its GATHERs counted (R178, R212). -/
def BufEntry.counted (n : Nat) (e : BufEntry) : BufEntry :=
  { e with fills := e.fills.map fun f => if f.no = n then { f with done := true } else f }

/-- What a GATHER's first completion leaves before its part is taken: the thread without the entry, the GATHER counted. -/
def gatherCounted (s : State) (th : ThRef) (entry b n : Nat) : State := modBuf (s.modTh th (Thread.left entry)) b (BufEntry.counted n)

theorem bufOf_gatherCounted (s : State) (th : ThRef) (entry b n : Nat) :
    bufOf (gatherCounted s th entry b n) b = (bufOf s b).counted n := bufOf_modBuf ..

theorem bufOf_partDone_gatherCounted (s : State) (th : ThRef) (entry b n : Nat) :
    bufOf (modBuf (gatherCounted s th entry b n) b BufEntry.parted) b = ((bufOf s b).counted n).parted :=
  (bufOf_modBuf ..).trans (congrArg _ (bufOf_gatherCounted ..))

/-! The commands. -/

section
variable {s : State} {th : ThRef} {entry stall : Nat} {e : SbEntry} (he : (s.th th).sb[entry]? = some e)
include he

theorem exec_dmaTransferDone {conv : Bool} {fl : FlagWord} (hk : e.kind = .transfer conv fl) :
    exec (.dmaTransferDone th entry stall) s = .next (bankStalls (orFlags (s.modTh th (Thread.left entry)) th fl) th stall) := by
  have hleave := leaveEntry_unordered he (want := isTransfer) (by rw [hk]; rfl)
  simp only [exec, execDmaTransferDone, hleave, hk]

theorem exec_vectorOperationDone (hk : e.kind = .vec)
    (halone : ∀ y ∈ (s.th th).sb.take entry, decide (y.kind = .vec) = true → ∀ u ∈ y.units, u ∉ e.units) :
    exec (.vectorOperationDone th entry stall) s = .next (bankStalls (s.modTh th (Thread.left entry)) th stall) := by
  have hleave := leaveEntry_ordered he ((isVecOp_iff _).2 hk) fun y hy hw _ => halone y hy (decide_eq_true ((isVecOp_iff _).1 hw))
  simp only [exec, execVectorOperationDone, hleave]

/-- Of array operations, weight loads have their own queue (R118). -/
theorem exec_arrayOperationDone (hk : e.kind = .load ∨ e.kind = .matrix ∨ e.kind = .readout)
    (halone : ∀ y ∈ (s.th th).sb.take entry,
      (if e.kind = .load then decide (y.kind = .load) else y.kind = .matrix || y.kind = .readout) = true → ∀ u ∈ y.units, u ∉ e.units) :
    exec (.arrayOperationDone th entry stall) s = .next (bankStalls (s.modTh th (Thread.left entry)) th stall) := by
  have hleave := leaveEntry_ordered he ((isArrayOp_iff _).2 hk) fun y hy hw hq => halone y hy (sameQueue hw hq)
  simp only [exec, execArrayOperationDone, hleave]

variable {b n : Nat} (ho : gatherOpen s th e.index b n = false)
include ho

/-- A GATHER that has been counted only leaves. -/
theorem exec_gatherComplete_again (hk : e.kind = .gather b n true) :
    exec (.gatherComplete th entry) s = .next (s.modTh th (Thread.left entry)) := by
  have hleave := leaveEntry_unordered he (want := isGather) (by rw [hk]; rfl)
  simp only [exec, execGatherComplete, hleave, hk, ho]
  rfl

/-- The first completion of a GATHER takes one part (R178). -/
theorem exec_gatherComplete_first (hk : e.kind = .gather b n false) :
    exec (.gatherComplete th entry) s = .next (partDone (gatherCounted s th entry b n) b) := by
  have hleave := leaveEntry_unordered he (want := isGather) (by rw [hk]; rfl)
  simp only [exec, execGatherComplete, hleave, hk, ho]
  rfl

end

/-- Settles O25: an entry leaves by its kind; a GATHER's first completion then takes a part of its buffer entry. -/
theorem scoreboardLeaves : Obligations.ScoreboardLeaves := by
  unfold Obligations.ScoreboardLeaves
  intro s th entry stall e he
  refine ⟨fun conv fl hk => ?_, fun hk halone => exec_vectorOperationDone he hk halone,
    fun hk halone => exec_arrayOperationDone he hk halone, fun b n hk ho => exec_gatherComplete_again he ho hk,
    fun b n hk ho hparts => ?_, fun b n hk ho hparts hagain hev => ?_⟩
  · rw [exec_dmaTransferDone he hk, orFlags_modTh_left]
    rfl
  · have hmore : 1 < (bufOf (gatherCounted s th entry b n) b).parts := by rwa [bufOf_gatherCounted]
    have hbuf := bufOf_partDone_gatherCounted s th entry b n
    refine ⟨_, (exec_gatherComplete_first he ho hk).trans (congrArg _ (partDone_waits hmore)), rfl, ?_, ?_, ?_⟩
    · rw [hbuf]; rfl
    · rw [hbuf]; exact if_neg (Nat.not_le.2 hparts)
    · rw [hbuf]; rfl
  · have hlast : partDone (gatherCounted s th entry b n) b =
        incEvent (modBuf (gatherCounted s th entry b n) b BufEntry.parted) (bufOf s b).core (bufOf s b).ev :=
      (partDone_last (by rwa [bufOf_gatherCounted]) (by rwa [bufOf_gatherCounted])).trans (by rw [bufOf_gatherCounted]; rfl)
    have hsame : ((modBuf (gatherCounted s th entry b n) b BufEntry.parted).core (bufOf s b).core).ev = (s.core (bufOf s b).core).ev :=
      ev_modTh s th (Thread.left entry) _
    have hbuf := bufOf_partDone_gatherCounted s th entry b n
    refine ⟨_, (exec_gatherComplete_first he ho hk).trans (congrArg _ (hlast.trans (incEvent_counts ?_))),
      (congrArg BufEntry.st hbuf).trans ?_, (congrArg BufEntry.parts hbuf).trans ?_, ?_⟩
    · rwa [hsame]
    · exact if_pos hparts.le
    · exact congrArg (· - 1) hparts
    · simp only [State.core_modCore, hsame]
      exact vset_same ..

end Sys2Proof.Machine
end

section
/-! Proofs: what an aborted pass gives back to its core (R131, R154, R214). -/
namespace Sys2Proof.Machine

open Sys2Proof.Safety

/-- Of entries set one after another, the last one of an index stands. -/
theorem getElem_foldl_vset {α β : Type} {n : Nat} (key : β → Fin n) (val : β → α) (l : List β) (v : Vector α n) (q : Fin n) :
    (l.foldl (fun v x => vset v (key x) (val x)) v)[q] =
      ((l.reverse.find? fun y => decide (key y = q)).map val).getD v[q] := by
  induction l generalizing v with
  | nil => rfl
  | cons x l ih =>
    rw [List.foldl_cons, ih, List.reverse_cons, List.find?_append]
    cases l.reverse.find? fun y => decide (key y = q) with
    | some y => rfl
    | none =>
      by_cases hx : key x = q
      · subst hx
        simp
      · simp [hx, vset_ne _ _ (Ne.symm hx)]

/-- A note names an element of a tile. -/
def Touched.names (y : Touched) (q i j : Fin 32) : Bool :=
  decide (Fin.ofNat 32 y.tile = q ∧ y.rows.getLsbD i.1 = true ∧ y.cols.getLsbD j.1 = true)

/-- The tiles with the elements of many notes set to +0. -/
def tilesCleared (l : List Touched) (v : Vector Tile 32) : Vector Tile 32 :=
  l.foldl (fun ts x => vmod ts (Fin.ofNat 32 x.tile) fun y => clearTouched y x) v

theorem getElem_clearTouched (t : Tile) (x : Touched) (i j : Fin 32) :
    (clearTouched t x)[i][j] = if x.names (Fin.ofNat 32 x.tile) i j then 0 else t[i][j] := by
  simp only [clearTouched, Touched.names, Fin.getElem_fin, Vector.getElem_ofFn]
  by_cases hi : x.rows.getLsbD i.1 = true
  · simp only [hi, if_true, Vector.getElem_ofFn, true_and, decide_eq_true_eq]
  · simp only [hi, if_false, false_and, and_false, decide_false, Bool.false_eq_true]

/-- One note sets what it names to +0, and leaves the rest. -/
theorem getElem_tileCleared (v : Vector Tile 32) (x : Touched) (q i j : Fin 32) :
    ((vmod v (Fin.ofNat 32 x.tile) fun y => clearTouched y x)[q])[i][j] = if x.names q i j then 0 else (v[q])[i][j] := by
  by_cases hq : q = Fin.ofNat 32 x.tile
  · subst hq
    simp only [vmod, vset_same, getElem_clearTouched]
  · have hn : x.names q i j = false := decide_eq_false fun h => hq h.1.symm
    simp only [vmod, vset_ne _ _ hq, hn, Bool.false_eq_true, if_false]

theorem getElem_tilesCleared (l : List Touched) (v : Vector Tile 32) (q i j : Fin 32) :
    ((tilesCleared l v)[q])[i][j] = if l.any (·.names q i j) then 0 else (v[q])[i][j] := by
  induction l generalizing v with
  | nil => rfl
  | cons x l ih =>
    refine (ih _).trans ?_
    rw [getElem_tileCleared, List.any_cons]
    cases x.names q i j <;> simp

/-- An event's counter with the consumed amounts given back. -/
theorem getElem_given (l : List Consumed) (v : Vector W32 64) (e : EventId) :
    (l.foldl (fun es x => vset es x.ev (es[x.ev] + BitVec.ofNat 32 x.amount)) v)[e] =
      v[e] + BitVec.ofNat 32 ((l.filter fun y => decide (y.ev = e)).map (·.amount)).sum := by
  induction l generalizing v with
  | nil => simp
  | cons x l ih =>
    rw [List.foldl_cons, ih]
    by_cases hx : x.ev = e
    · subst hx
      simp [BitVec.ofNat_add, BitVec.add_assoc]
    · simp [hx, vset_ne _ _ (Ne.symm hx)]

end Sys2Proof.Machine
end

section
/-! Proofs: a detection in a pass (R131, R154, R214, R346, R347, R349). -/
namespace Sys2Proof.Machine

open Sys2Proof.Safety

/-! What is noted before a detection is answered. -/

theorem noteCause_onlyThread (s : State) (r : ThRef) (why : PassCause) : onlyThread s (noteCause s r why) r := by
  cases why with
  | logic => exact onlyThread_refl s r
  | transient p => exact onlyThread_of_cores r rfl rfl
  | cueLine n => exact onlyThread_modTh s r fun t => { t with cue := t.cue.filter (·.line ≠ n) }

section
variable (s : State) (r : ThRef) (why : PassCause)

@[simp] theorem noteCause_launch : (noteCause s r why).launch = s.launch := by cases why <;> rfl
@[simp] theorem noteCause_ctrs : (noteCause s r why).ctrs = s.ctrs := by cases why <;> rfl
@[simp] theorem noteCause_hbm : (noteCause s r why).hbm = s.hbm := by cases why <;> rfl
@[simp] theorem noteCause_sites : (noteCause s r why).sites = s.sites := by cases why <;> rfl
@[simp] theorem noteCause_bufs : (noteCause s r why).bufs = s.bufs := by cases why <;> rfl

end

/-- Of the thread, a cause may take lines of the cue buffer only (Table 7.8). -/
theorem noteCause_th (s : State) (r : ThRef) (why : PassCause) :
    (noteCause s r why).th r = { s.th r with cue := ((noteCause s r why).th r).cue } := by
  cases why with
  | logic => rfl
  | transient p => rfl
  | cueLine n => simp only [noteCause, State.th_modTh]

/-- Cycles lost in an active launch are counted and set REC (R349). -/
theorem loseCycles_active {s : State} {l : Launch} (hl : s.launch = some l) (ha : l.st = .active) (n : Nat) : loseCycles s n =
    { s with ctrs := { s.ctrs with recCycles := sat64 s.ctrs.recCycles n }, launch := some { l with exc := l.exc ||| excREC } } := by
  have hcount : s.counting = true := by simp [State.counting, hl, ha]
  have hactive : (s.count fun c => { c with recCycles := sat64 c.recCycles n }).launchActive = true := by
    simp [State.launchActive, hl, ha]
  rw [loseCycles, State.flagExc_active hactive, State.count_counting hcount]
  simp only [hl, Option.map_some]

/-- What stands when a detection is to be answered: its cause noted, its core charged (R347), its cycles lost. -/
def detectionNoted (s : State) (r : ThRef) (lost : Nat) (why : PassCause) : State :=
  loseCycles (chargeCore (noteCause s r why) r.core 1) lost

/-- From `s` to `m` a detection in thread `r` has been noted. -/
structure DetectionNoted (s m : State) (r : ThRef) (l : Launch) (lost : Nat) (why : PassCause) : Prop where
  launch : m.launch = some { l with exc := l.exc ||| excREC }
  recCycles : m.ctrs.recCycles = sat64 s.ctrs.recCycles lost
  run : m.run = (noteCause s r why).run
  hbm : m.hbm = s.hbm
  sites : m.sites = s.sites
  bufs : m.bufs = s.bufs
  others : ∀ c, c ≠ r.core → m.core c = s.core c
  core : m.core r.core = { s.core r.core with threads := (m.core r.core).threads, live := (m.core r.core).live,
                                              detections := (s.core r.core).detections + 1 }
  thread : m.th r = (noteCause s r why).th r

theorem detectionNoted_cores (s : State) (r : ThRef) (lost : Nat) (why : PassCause) :
    (detectionNoted s r lost why).cores = (chargeCore (noteCause s r why) r.core 1).cores := by
  simp [detectionNoted, loseCycles]

/-- An active launch has its detection noted. -/
theorem detectionNoted_active {s : State} {r : ThRef} {l : Launch} (hl : s.launch = some l) (ha : l.st = .active) (lost : Nat)
    (why : PassCause) : (detectionNoted s r lost why).launch = some { l with exc := l.exc ||| excREC } ∧
      (detectionNoted s r lost why).ctrs.recCycles = sat64 s.ctrs.recCycles lost := by
  have hlaunch : (chargeCore (noteCause s r why) r.core 1).launch = some l := by simpa [chargeCore] using hl
  rw [detectionNoted, loseCycles_active hlaunch ha]
  simp [chargeCore]

theorem detectionNoted_notes {s : State} {r : ThRef} {l : Launch} (hl : s.launch = some l) (ha : l.st = .active) (lost : Nat)
    (why : PassCause) : DetectionNoted s (detectionNoted s r lost why) r l lost why := by
  obtain ⟨-, hothers, -, hcore⟩ := noteCause_onlyThread s r why
  obtain ⟨hlaunch, hrec⟩ := detectionNoted_active (r := r) hl ha lost why
  have hcores := detectionNoted_cores s r lost why
  have hk : (detectionNoted s r lost why).core r.core =
      { (noteCause s r why).core r.core with detections := ((noteCause s r why).core r.core).detections + 1 } :=
    (State.core_congr hcores _).trans (State.core_modCore ..)
  exact {
    launch := hlaunch
    recCycles := hrec
    run := by simp [detectionNoted, loseCycles, chargeCore]
    hbm := by simp [detectionNoted, loseCycles, chargeCore]
    sites := by simp [detectionNoted, loseCycles, chargeCore]
    bufs := by simp [detectionNoted, loseCycles, chargeCore]
    others := fun c hc => (State.core_congr hcores c).trans ((State.core_modCore_ne _ _ hc).trans (hothers c hc))
    core := by rw [hk, hcore]
    thread := by simp only [State.th, hk] }

/-! What an aborted pass leaves (R214). -/

/-- A record of the trace moves the counters of lost records only. -/
theorem traceThread_counts (s : State) (r : ThRef) (ty ix : Nat) (w : Word) :
    (traceThread s r ty ix w).ctrs.recCycles = s.ctrs.recCycles ∧ (traceThread s r ty ix w).run.transient = s.run.transient := by
  have hdrop : (traceDrop s).ctrs.recCycles = s.ctrs.recCycles ∧ (traceDrop s).run.transient = s.run.transient := by
    unfold traceDrop State.count
    split <;> exact ⟨rfl, rfl⟩
  have hpush : ∀ x, (tracePush s x).ctrs.recCycles = s.ctrs.recCycles ∧ (tracePush s x).run.transient = s.run.transient := by
    intro x
    unfold tracePush
    split <;> split
    exacts [⟨rfl, rfl⟩, hdrop, ⟨rfl, rfl⟩, hdrop]
  unfold traceThread
  split
  · exact hpush _
  · exact ⟨rfl, rfl⟩

/-- A thread that begins its pass again after a detection. -/
def Thread.again (t : Thread) : Thread := { t.back with detections := t.detections + 1 }

/-- From `m` to `t` a pass of thread `r` has been aborted. -/
structure PassAborted (m t : State) (r : ThRef) : Prop where
  state : t = { m with cores := t.cores, ctrs := t.ctrs, run := t.run, trace := t.trace, fabric := t.fabric }
  recCycles : t.ctrs.recCycles = m.ctrs.recCycles
  transient : t.run.transient = m.run.transient
  others : ∀ c, c ≠ r.core → t.core c = m.core c
  core : t.core r.core =
    { undoPass (m.core r.core) (m.th r) r.t with threads := (t.core r.core).threads, live := (t.core r.core).live }
  thread : t.th r = { (m.th r).again with stretched := (t.th r).stretched }

section
variable {m t : State} {r : ThRef} (h : PassAborted m t r)
include h

theorem PassAborted.launch : t.launch = m.launch := by rw [h.state]
theorem PassAborted.hbm : t.hbm = m.hbm := by rw [h.state]
theorem PassAborted.sites : t.sites = m.sites := by rw [h.state]
theorem PassAborted.bufs : t.bufs = m.bufs := by rw [h.state]

end

/-- What a pass has done to its core is undone, and its thread begins it again. -/
def unwound (u : State) (r : ThRef) : State := (u.modCore r.core fun k => undoPass k k.threads[r.t] r.t).modTh r Thread.again

theorem unwound_core_ne (u : State) (r : ThRef) {c : CoreId} (hc : c ≠ r.core) : (unwound u r).core c = u.core c :=
  (State.core_modTh_ne _ _ _ hc).trans (State.core_modCore_ne _ _ hc)

theorem unwound_core (u : State) (r : ThRef) :
    (unwound u r).core r.core = { undoPass (u.core r.core) (u.th r) r.t with threads := ((unwound u r).core r.core).threads } := by
  simp only [unwound, State.core_modTh, State.core_modCore]
  rfl

theorem unwound_th (u : State) (r : ThRef) : (unwound u r).th r = (u.th r).again := by
  rw [unwound, State.th_modTh]
  exact congrArg Thread.again (by simp only [State.th, State.core_modCore]; rfl)

/-- The state of the trace when a pass is aborted (R468). -/
def abortTraced (s : State) (r : ThRef) : State := traceThread s r 3 (s.th r).pos ((wordAt (s.th r) (s.th r).pos).getD 0)

theorem abortPass_eq (s : State) (r : ThRef) : abortPass s r = dropReads (unwound (abortTraced s r) r) fun x => decide (x = r) := rfl

theorem dropReads_core (s : State) (gone : ThRef → Bool) (c : CoreId) : (dropReads s gone).core c = s.core c := rfl

theorem dropReads_th (s : State) (gone : ThRef → Bool) (r : ThRef) : (dropReads s gone).th r = s.th r := rfl

theorem abortPass_aborts (m : State) (r : ThRef) : PassAborted m (abortPass m r) r := by
  obtain ⟨hstate, hothers, -, hcore⟩ : onlyThread m (abortTraced m r) r := onlyThread_traceThread ..
  have hth : (abortTraced m r).th r = { m.th r with stretched := ((abortTraced m r).th r).stretched } := traceThread_th ..
  have hcounts : (abortTraced m r).ctrs.recCycles = m.ctrs.recCycles ∧ (abortTraced m r).run.transient = m.run.transient :=
    traceThread_counts ..
  rw [abortPass_eq]
  constructor
  case state => rw [hstate]; rfl
  case recCycles => exact hcounts.1
  case transient => exact hcounts.2
  case others => exact fun c hc => (unwound_core_ne _ r hc).trans (hothers c hc)
  case core =>
    rw [dropReads_core, unwound_core, hcore, hth]
    rfl
  case thread =>
    rw [dropReads_th, unwound_th, hth]
    rfl

/-- The answer to a detection that begins the pass again: the pass aborted, with its counts. -/
def recomputed (m : State) (r : ThRef) : State :=
  (abortPass (m.count fun c => { c with recCount := sat64 c.recCount 1 }) r).countRun fun c => { c with recomputes := sat64 c.recomputes 1 }

theorem recomputed_aborts (m : State) (r : ThRef) : PassAborted m (recomputed m r) r := by
  have hm : (m.count fun c => { c with recCount := sat64 c.recCount 1 }).ctrs.recCycles = m.ctrs.recCycles := by
    rw [State.count_eq]
    dsimp only
    split <;> rfl
  have hcore := State.core_congr (State.count_cores m fun c => { c with recCount := sat64 c.recCount 1 })
  have hth := State.th_congr (State.count_cores m fun c => { c with recCount := sat64 c.recCount 1 })
  have h := abortPass_aborts (m.count fun c => { c with recCount := sat64 c.recCount 1 }) r
  exact {
    state := by rw [recomputed, h.state, State.count_eq]; rfl
    recCycles := h.recCycles.trans hm
    transient := h.transient.trans (by simp)
    others := fun c hc => (h.others c hc).trans (hcore c)
    core := h.core.trans (by rw [hcore, hth]; rfl)
    thread := h.thread.trans (by rw [hth]; rfl) }

theorem mem_cue_back {x : Thread} {y : CueLine} (h : y ∈ x.back.cue) : y ∈ x.cue := by
  unfold Thread.back at h
  dsimp only at h
  split at h
  · exact h
  · cases h

/-! The answer to a detection. -/

/-- What a noted detection is answered with: the third of a pass, or the 32nd of a core, fences the core (R346, R347); in replay mode
the replay begins again (R356); else the pass does (R214). -/
def answered (m : State) (r : ThRef) : State :=
  if 2 ≤ (m.th r).detections || 32 ≤ (m.core r.core).detections then replay m (.fence r.core)
  else if inReplay m then replay m (.detected (some r.core))
  else recomputed m r

/-- A detection in a pass of an active launch is noted and answered. -/
theorem exec_passRecompute {s : State} {th : ThRef} {l : Launch} (hl : s.launch = some l) (ha : l.st = .active)
    (hp : inPass (s.th th) = true) (lost : Nat) (why : PassCause) :
    exec (.passRecompute th ⟨lost, why⟩) s = .next (answered (detectionNoted s th lost why) th) := by
  have hpass : inPass ((noteCause s th why).th th) = true := by rw [noteCause_th]; exact hp
  refine congrArg Host.Outcome.next ?_
  simp only [detect, noteCause_launch, hl, ha, hpass, decide_true, Bool.not_true, Bool.or_self, Bool.false_eq_true, if_false]
  rfl

section
variable {s m : State} {r : ThRef} {l : Launch} {lost : Nat} {why : PassCause} (h : DetectionNoted s m r l lost why)
include h

theorem DetectionNoted.detections : (m.th r).detections = (s.th r).detections := by rw [h.thread, noteCause_th]

theorem DetectionNoted.charged : (m.core r.core).detections = (s.core r.core).detections + 1 := by rw [h.core]

theorem DetectionNoted.inReplay : inReplay m = l.replay := by rw [Machine.inReplay, h.launch]

theorem answered_fence (hd : 2 ≤ (s.th r).detections ∨ 31 ≤ (s.core r.core).detections) : answered m r = replay m (.fence r.core) := by
  refine if_pos ?_
  rw [h.detections, h.charged]
  simpa using hd

variable (ht : (s.th r).detections < 2) (hc : (s.core r.core).detections < 31)
include ht hc

theorem answered_few : answered m r = if inReplay m then replay m (.detected (some r.core)) else recomputed m r := by
  refine if_neg ?_
  rw [h.detections, h.charged]
  simpa using ⟨Nat.le_of_lt_succ ht, hc⟩

theorem answered_replay (hr : l.replay = true) : answered m r = replay m (.detected (some r.core)) := by
  rw [answered_few h ht hc, h.inReplay, if_pos hr]

theorem answered_recomputed (hr : l.replay = false) : answered m r = recomputed m r := by
  rw [answered_few h ht hc, h.inReplay, hr]
  rfl

end

/-! A detection noted and its pass begun again, together. -/

section
variable {s m t : State} {r : ThRef} {l : Launch} {lost : Nat} {why : PassCause} (hn : DetectionNoted s m r l lost why)
  (ha : PassAborted m t r)
include hn ha

theorem recomputed_core : t.core r.core =
      { undoPass (s.core r.core) (s.th r) r.t with
        threads := (t.core r.core).threads, live := (t.core r.core).live, detections := (s.core r.core).detections + 1 } := by
  rw [ha.core, hn.core, hn.thread, noteCause_th]
  rfl

/-- The thread stands at its checkpoint, but for lines of the cue buffer and the clock's mark. -/
theorem recomputed_thread : t.th r =
      { (s.th r).again with cue := (t.th r).cue, refill := (t.th r).refill, stretched := (t.th r).stretched } := by
  rw [ha.thread, hn.thread, noteCause_th]
  rfl

end

/-- Settles O32: a detection is noted, and answered by a replay or by the pass undone and begun again. -/
theorem passRecomputed : Obligations.PassRecomputed := by
  unfold Obligations.PassRecomputed
  intro s th lost why l hl hact hp x k marked
  have hn : DetectionNoted s marked th l lost why := detectionNoted_notes hl hact lost why
  have hexec : exec (.passRecompute th ⟨lost, why⟩) s = .next (answered marked th) := exec_passRecompute hl hact hp lost why
  refine ⟨fun hd => ?_, fun ht hc hr => ?_, fun ht hc hr => ?_⟩
  · rw [hexec, answered_fence hn hd]
  · rw [hexec, answered_replay hn ht hc hr]
  · rw [answered_recomputed hn ht hc hr] at hexec
    have ha := recomputed_aborts marked th
    refine ⟨_, { l with exc := l.exc ||| excREC }, hexec, fun p hw => ?_, fun n hw y hy => ?_, ha.launch.trans hn.launch, rfl,
      ha.recCycles.trans hn.recCycles, ?_⟩
    · rw [ha.transient, hn.run, hw]
      rfl
    · rw [ha.thread] at hy
      have hcue := mem_cue_back hy
      rw [hn.thread, hw, noteCause, State.th_modTh] at hcue
      simpa using (List.mem_filter.1 hcue).2
    · rw [recomputed_thread hn ha, recomputed_core hn ha]
      refine ⟨rfl, rfl, rfl, rfl, rfl, rfl, rfl, rfl, rfl, rfl, fun q i j => ?_, getElem_foldl_vset _ StatusSnap.old x.statusSn k.status,
        getElem_foldl_vset _ SlotSnap.old x.slotSn k.slots, getElem_given x.consumed k.ev,
        ha.hbm.trans hn.hbm, ha.sites.trans hn.sites, ha.bufs.trans hn.bufs, fun d hd => (ha.others d hd).trans (hn.others d hd)⟩
      exact (getElem_tilesCleared x.touched k.tiles q i j).trans (if_congr (by simp [Touched.names]) rfl rfl)

end Sys2Proof.Machine
end

section
/-! Proofs: vector operations (R136, R137, R141, R142, R147, R203). -/
namespace Sys2Proof.Machine

open Sys2Proof.Safety

/-! A write of one bench. -/

/-- A bench that is written holds the bytes, and a half that failed its code may have been made good (R520). -/
theorem benchHolds_benchWrite {s : State} (h : memoriesWf s) (c : CoreId) (a : Nat) (bs : List Byte) :
    benchHolds s (benchWrite s c a bs) c a bs := by
  obtain ⟨-, -, hbench⟩ := h
  intro i
  by_cases hi : i = siteOf s c
  · subst hi
    have hsite : (benchWrite s c a bs).sites[siteOf s c] = { s.sites[siteOf s c] with
        bench := s.sites[siteOf s c].bench.write a bs, bad := dropSectors s.sites[siteOf s c].bad a bs.length } := vset_same ..
    rw [hsite]
    refine ⟨rfl, fun x hx => List.mem_of_mem_filter hx, fun x => ?_⟩
    simp only [Memory.get_write (hbench _), true_and]
  · have hsite : (benchWrite s c a bs).sites[i] = s.sites[i] := vset_ne _ _ hi
    rw [hsite]
    exact ⟨rfl, fun _ hx => hx, fun x => by simp [hi]⟩

theorem benchHolds_congr {s t u : State} {c : CoreId} {a : Nat} {bs : List Byte} (h : benchHolds s u c a bs) (ht : t.sites = u.sites) :
    benchHolds s t c a bs := by
  unfold benchHolds at h ⊢
  rwa [ht]

/-! The rows of VOP. -/

/-- Each command of Table 8.7 issues the VOP of its function and its kind. -/
theorem exec_vop : ∀ row ∈ vopTable, ∀ (th : ThRef) (s : State),
    exec (row.1 th) s = .next (issue (vopRow row.2.1 (runVop row.2.2)) th s) := by
  simp only [vopTable, List.forall_mem_cons, List.not_mem_nil, false_implies, implies_true, and_true]
  and_intros
  all_goals exact fun _ _ => rfl

/-- The VOP of a word's own FUNC issues as an instruction of its opcode. -/
theorem issue_vopRow {s : State} {th : ThRef} {w : Word} {fn : Nat} (run : State → Ctx → Exec) (h : executes s th w 0x50 [.vector])
    (hfn : fFUNC w.toNat = fn) : issue (vopRow fn run) th s = issue (opRow 0x50 (fun _ => [.vector]) run) th s := by
  obtain ⟨⟨hissue, hfetch, hdec⟩, hop, -⟩ := h
  simp only [issue, if_pos hissue, issueNow, hfetch, hdec, vopRow, opRow, hop, hfn, decide_true, Bool.true_and, Bool.true_or, Bool.not_true,
    Bool.false_eq_true, if_false]
  rfl

/-! What a VOP does. -/

/-- A bench vector written moves the sites only. -/
theorem writeVec_th (s : State) (c : CoreId) (a : Nat) (out : RunOut) (r : ThRef) : (writeVec s c a out).th r = s.th r := rfl

theorem writeVec_counting (s : State) (c : CoreId) (a : Nat) (out : RunOut) : (writeVec s c a out).counting = s.counting := rfl

/-- A bench vector and the thread's entry and flags do not meet: first the bench, then the thread. -/
theorem orFlags_writeVec_takeEntry (s : State) (c : Ctx) (us : List ExecUnit) (kd : OpKind) (d : CoreId) (a : Nat) (out : RunOut)
    (fl : FlagWord) : orFlags (writeVec (takeEntry s c us kd) d a out) c.th fl =
      (writeVec s d a out).modTh c.th (Thread.flagged fl ∘ Thread.entered ⟨us, kd, c.ix⟩) :=
  State.modTh_modTh (writeVec s d a out) c.th (Thread.entered ⟨us, kd, c.ix⟩) (Thread.flagged fl)

/-- A VOP without a fault writes a format of Table 3.1. -/
theorem vopFault_none_format {s : State} {c : Ctx} {k : VKind} {o : VopOp} (h : vopFault s c k o = none) :
    ∃ dst, Fmt.ofCode o.dst.fmt = some dst := by
  have hfmt := firstFault_none (f := .formatIllegal) h (.tail _ (.head _))
  cases hd : Fmt.ofCode o.dst.fmt with
  | some dst => exact ⟨dst, rfl⟩
  | none => simp [hd] at hfmt

section
variable {s : State} {th : ThRef} {ix w : Nat} {k : VKind} {o : VopOp} (ho : vopOp s ⟨th, ix, w⟩ = o)
include ho

theorem runVop_held (hh : benchHeld s th.core (vopReads o) (vopWrites k o) = true) : runVop k s ⟨th, ix, w⟩ = .stay s := by
  simp only [runVop, ho, guardBench, hh, if_true]

variable (hh : benchHeld s th.core (vopReads o) (vopWrites k o) = false)
include hh

theorem runVop_fault {f : IFault} (hx : vopFault s ⟨th, ix, w⟩ k o = some f) : runVop k s ⟨th, ix, w⟩ = .fault f := by
  simp only [runVop, ho, guardBench, hh, hx, Bool.false_eq_true, if_false]

/-- A VOP without a fault writes its results, takes its entry and keeps their flags. -/
theorem runVop_writes {dst : Fmt} (hd : Fmt.ofCode o.dst.fmt = some dst) (hx : vopFault s ⟨th, ix, w⟩ k o = none) :
    runVop k s ⟨th, ix, w⟩ = .done ((writeVec s th.core o.dst.base (vopResult s th.core k o dst)).modTh th
      (Thread.flagged (vopResult s th.core k o dst).flags ∘ Thread.entered ⟨[.vector], .vec, ix⟩)) := by
  simp only [runVop, ho, guardBench, hh, hx, hd, Bool.false_eq_true, if_false]
  exact congrArg _ (orFlags_writeVec_takeEntry s ⟨th, ix, w⟩ ..)

end

/-- A VOP that breaks no rule leaves its results in its core's bench, its entry and its flags, and the thread one further. -/
theorem goesOn_vop {s : State} {th : ThRef} {w : Word} {k : VKind} {dst : Fmt} (h : executes s th w 0x50 [.vector]) {o : VopOp}
    (ho : vopOp s ⟨th, (s.th th).pos, w.toNat⟩ = o) (hh : benchHeld s th.core (vopReads o) (vopWrites k o) = false)
    (hd : Fmt.ofCode o.dst.fmt = some dst) (hx : vopFault s ⟨th, (s.th th).pos, w.toNat⟩ k o = none) :
    goesOn (writeVec s th.core o.dst.base (vopResult s th.core k o dst)) (issue (opRow 0x50 (fun _ => [.vector]) (runVop k)) th s) th
      (Thread.flagged (vopResult s th.core k o dst).flags (Thread.entered ⟨[.vector], .vec, (s.th th).pos⟩ (s.th th)))
      ((s.th th).pos + 1) := by
  have hg := goesOn_done_modTh (us := fun _ => [.vector]) h (runVop_writes ho hh hd hx)
    ((writeVec_counting ..).trans (counting_of_executes h))
  rw [writeVec_th] at hg
  exact hg

/-! Elements (R58, R59, R96, R141). -/

theorem nan32_iff (x : W32) : nan32 x = true ↔ f32 x = .nan := decide_eq_true_iff

theorem Val.eqv_nan {a b : Val} (h : a = .nan ∨ b = .nan) : Val.eqv a b = false := by
  rcases h with rfl | rfl
  · rfl
  · cases a <;> rfl

theorem Val.lt_nan {a b : Val} (h : a = .nan ∨ b = .nan) : Val.lt a b = false := by
  rcases h with rfl | rfl
  · rfl
  · cases a <;> rfl

/-- MIN and MAX of a NaN are the canonical NaN (R59, R141). -/
theorem vminmax_nan {a b : W32} (h : (nan32 a || nan32 b) = true) : vmin a b = 0x7FC00000 ∧ vmax a b = 0x7FC00000 :=
  ⟨if_pos h, if_pos h⟩

/-- MIN and MAX of numbers are one of them (R141). -/
theorem vminmax_mem {a b : W32} (h : (nan32 a || nan32 b) = false) :
    (vmin a b = a ∨ vmin a b = b) ∧ (vmax a b = a ∨ vmax a b = b) := by
  simp only [vmin, vmax, h, Bool.false_eq_true, if_false]
  exact ⟨(ite_eq_or_eq _ _ _).symm, (ite_eq_or_eq _ _ _).symm⟩

theorem Val.isZero_fin (neg : Bool) (m : Nat) (e : Int) : (Val.fin neg m e).isZero = true ↔ m = 0 := by
  cases m <;> simp [Val.isZero]

/-- The zeros of an IEEE-like format are the encodings whose exponent and mantissa fields are zero (R58). -/
theorem isZero_unpackIeee {mbits ebits : Nat} (he : 0 < ebits) (emin : Int) (x : Nat) :
    (unpackIeee mbits ebits emin x).isZero = true ↔ field x mbits ebits = 0 ∧ x % 2 ^ mbits = 0 := by
  have htop : 2 ^ ebits - 1 ≠ 0 := by
    have := Nat.one_lt_two_pow he.ne'
    omega
  simp only [unpackIeee]
  split_ifs with hall hmant hex
  · simp [Val.isZero, hall, htop]
  · simp [Val.isZero, hall, htop]
  · simp [Val.isZero_fin, hex]
  · simp [Val.isZero_fin, hex]

/-- The two zeros of FP32 (R58). -/
theorem zero32_iff (x : W32) : zero32 x = true ↔ x = 0 ∨ x = 0x80000000 := by
  rw [zero32, f32, isZero_unpackIeee (by decide), field_eq, ← BitVec.toNat_inj, ← BitVec.toNat_inj]
  have hx := x.isLt
  simp only [BitVec.ofNat_eq_ofNat, BitVec.toNat_ofNat]
  omega

theorem vselect_eq (a b m : W32) : vselect a b m = if m = 0 ∨ m = 0x80000000 then b else a :=
  if_congr (zero32_iff m) rfl rfl

/-- An integer that INT32 holds is itself (R96). -/
theorem satInt32_inside {i : Int} (hlo : -2147483648 ≤ i) (hhi : i ≤ 2147483647) : satInt32 i = (BitVec.ofInt 32 i, 0) := by
  rw [satInt32, if_neg (by omega), if_neg (by omega)]

theorem satInt32_above {i : Int} (h : 2147483647 < i) : satInt32 i = (0x7FFFFFFF, fOVF) := by
  rw [satInt32, if_neg (by omega), if_pos (by omega)]
  rfl

theorem satInt32_below {i : Int} (h : i < -2147483648) : satInt32 i = (0x80000000, fOVF) := by
  rw [satInt32, if_pos (by omega)]
  rfl

theorem vabs_vneg_number {a : W32} (h : nan32 a = false) : vabs a = a &&& 0x7FFFFFFF ∧ vneg a = a ^^^ 0x80000000 := by
  simp only [vabs, vneg, h, Bool.false_eq_true, if_false]
  exact ⟨rfl, rfl⟩

/-- Settles O18: a VOP by its row, its faults and what it writes; then its elements, function by function. -/
theorem vectorOperations : Obligations.VectorOperations := by
  unfold Obligations.VectorOperations
  constructor
  · intro s th w hwf row hrow h hfn
    dsimp only
    generalize ho : vopOp s ⟨th, (s.th th).pos, w.toNat⟩ = o
    have hexec : exec (row.1 th) s = .next (issue (opRow 0x50 (fun _ => [.vector]) (runVop row.2.2)) th s) :=
      (exec_vop row hrow th s).trans (congrArg _ (issue_vopRow _ h hfn))
    refine ⟨fun hh => ?_, fun f hh hx => ?_, fun hh hx => ?_⟩
    · exact hexec.trans (congrArg _ (issue_stay h (runVop_held ho hh)))
    · exact hexec.trans (congrArg _ (issue_fault h (runVop_fault ho hh hx)))
    · obtain ⟨dst, hd⟩ := vopFault_none_format hx
      have hg := goesOn_vop h ho hh hd hx
      obtain ⟨⟨hstate, -⟩, -⟩ := id hg
      have hsites := congrArg State.sites hstate
      refine ⟨dst, _, hd, hexec, ?_, benchHolds_congr (benchHolds_benchWrite hwf _ _ _) hsites⟩
      rw [hsites]
      exact hg
  · intro a b m i
    refine ⟨fun hn => ?_, vminmax_mem, by decide, by decide, by decide, by decide, vselect_eq a b m, fun hlo hhi => ?_, satInt32_above,
      satInt32_below, vabs_vneg_number⟩
    · have hnan : f32 a = .nan ∨ f32 b = .nan := by simpa only [Bool.or_eq_true, nan32_iff] using hn
      obtain ⟨hmin, hmax⟩ := vminmax_nan hn
      exact ⟨hmin, hmax, Val.eqv_nan hnan, Val.lt_nan hnan⟩
    · rw [satInt32_inside hlo hhi]
      exact ⟨BitVec.toInt_ofInt_eq_self (by decide) hlo (by omega), rfl⟩

end Sys2Proof.Machine
end
